-- ==== Sys2Proof/Word.lean ====
section
/-!
DEFINITION. The word types of the Brixbin and their plainest arithmetic (00_scope.md R3: bit 0 is the least significant
bit, multi-byte values are little-endian).
-/
namespace Sys2Proof

/-- A byte of memory. -/
abbrev Byte := BitVec 8

/-- A scalar register, an address or an 8-byte message word (XLEN 64). -/
abbrev Word := BitVec 64

/-- A 512-bit vector register (07_vector.md R135). -/
abbrev VWord := BitVec 512

/-- A register number of an instruction. -/
abbrev Reg := BitVec 5

/-- The word that holds the low 64 bits of a number. -/
abbrev word (n : Nat) : Word := BitVec.ofNat 64 n

end Sys2Proof
end

