-- ==== Sys2Proof/Syntax.lean ====
section
/-!
DEFINITION. The instructions and events of the Brixbin as syntax: one constructor of `Instr` for each row of
opcode_table.json. An instruction word of the custom majors keeps its operand fields as 04_encoding.md R62 lays them
out; a base instruction keeps its ratified operands (R61); a machine event keeps the unit it happens in, or the message
that arrives (06_messages.md R101), or the input that comes from outside.
-/
namespace Sys2Proof

/-- The operand fields of a K-format word (R62): three registers, the group, type or extension field `w`, and the
empty-action bits `e1` of `rs1` and `e2` of `rs2`. -/
structure KOps where
  e2  : Bool
  e1  : Bool
  w   : BitVec 2
  rs2 : Reg
  rs1 : Reg
  rd  : Reg
  deriving DecidableEq, Repr

/-- The operand fields of an L-format word (R62): a register, a base and an 8-bit immediate. -/
structure LOps where
  e1   : Bool
  imm8 : BitVec 8
  rs1  : Reg
  rd   : Reg
  deriving DecidableEq, Repr

/-- The operand fields of a W-format word (R62): two sources and a 5-bit immediate. -/
structure WOps where
  e2   : Bool
  e1   : Bool
  w    : BitVec 2
  rs2  : Reg
  rs1  : Reg
  imm5 : BitVec 5
  deriving DecidableEq, Repr

/-- The OP-IMM operations that take a 12-bit immediate. -/
inductive ImmOp where
  | addi | slti | sltiu | xori | ori | andi
  deriving DecidableEq, Repr

/-- The shifts by an immediate, and the shift rows of OP and OP-32. -/
inductive ShiftOp where
  | sll | srl | sra
  deriving DecidableEq, Repr

/-- The OP operations of RV64I. -/
inductive RegOp where
  | add | sub | sll | slt | sltu | xor | srl | sra | or | and
  deriving DecidableEq, Repr

/-- The OP-32 operations of RV64I. -/
inductive RegOpW where
  | addw | subw | sllw | srlw | sraw
  deriving DecidableEq, Repr

/-- A word of LUI, AUIPC, OP-IMM, OP, OP-IMM-32 or OP-32 (05_scalar.md R76). -/
inductive BaseAlu where
  | lui (rd : Reg) (imm : BitVec 20)
  | auipc (rd : Reg) (imm : BitVec 20)
  | opImm (op : ImmOp) (rd rs1 : Reg) (imm : BitVec 12)
  | shiftImm (op : ShiftOp) (rd rs1 : Reg) (amount : BitVec 6)
  | op (op : RegOp) (rd rs1 rs2 : Reg)
  | addiw (rd rs1 : Reg) (imm : BitVec 12)
  | shiftImmW (op : ShiftOp) (rd rs1 : Reg) (amount : BitVec 5)
  | opW (op : RegOpW) (rd rs1 rs2 : Reg)
  deriving DecidableEq, Repr

/-- The operations of the M extension. -/
inductive MulDivOp where
  | mul | mulh | mulhsu | mulhu | div | divu | rem | remu | mulw | divw | divuw | remw | remuw
  deriving DecidableEq, Repr

/-- The loads of RV64I. -/
inductive LoadOp where
  | lb | lh | lw | ld | lbu | lhu | lwu
  deriving DecidableEq, Repr

/-- The stores of RV64I. -/
inductive StoreOp where
  | sb | sh | sw | sd
  deriving DecidableEq, Repr

/-- The conditional branches of RV64I. -/
inductive BranchOp where
  | beq | bne | blt | bge | bltu | bgeu
  deriving DecidableEq, Repr

/-- The six Zicsr forms. For the immediate forms the `rs1` field holds the immediate. -/
inductive CsrOp where
  | csrrw | csrrs | csrrc | csrrwi | csrrsi | csrrci
  deriving DecidableEq, Repr

/-- A message (06_messages.md R101): the fields of its 32-byte header and its payload in 8-byte words. The last six
fields are what the device knows of a message and R101 gives no place: the unit that performs a far request (R104), the
receiving context (R125), the launch of the sending clause and the delivery window it was sent in (R120), the resume
status a resume carries (R113; for a handler message bit 3 says that TCTX names its context), and the low bits of device time at its arrival (25_debug.md R438). -/
structure Msg where
  dstChip : BitVec 20 := 0
  dstCore : BitVec 12 := 0
  chan    : BitVec 8 := 0
  kind    : BitVec 8 := 0
  units   : BitVec 3 := 0
  rpay    : Bool := false
  nclass  : BitVec 3 := 0
  tag     : BitVec 32 := 0
  srcChip : BitVec 20 := 0
  srcVf   : BitVec 7 := 0
  key     : Word := 0
  seq     : BitVec 32 := 0
  stamp   : BitVec 32 := 0
  payload : List Word := []
  unit    : Nat := 0
  ctx     : BitVec 2 := 0
  launch  : Nat := 0
  window  : Nat := 0
  rstat   : BitVec 4 := 0
  arrival : Option (BitVec 32) := none
  ingress : Option (BitVec 32) := none
  order   : Nat := 0
  forVf   : Option (BitVec 7) := none
  behalf  : Option (BitVec 20) := none
  deriving DecidableEq, Repr

/-- A machine-check record (24_system.md R421): the fields a unit supplies. -/
structure McRecord where
  kind     : BitVec 16
  unitType : BitVec 8
  unit     : BitVec 16
  addr     : Word
  detail   : Word
  deriving DecidableEq, Repr

/-- The instructions and events of the Brixbin, one constructor for each row of opcode_table.json: the encoded words and the
events that the machine brings about itself first, then the events that its surroundings or another event's meaning bring
about. -/
inductive Instr where
  | baseAlu (op : BaseAlu)
  | baseMulDiv (op : MulDivOp) (rd rs1 rs2 : Reg)
  | baseLoad (op : LoadOp) (rd rs1 : Reg) (imm : BitVec 12)
  | baseStore (op : StoreOp) (rs1 rs2 : Reg) (imm : BitVec 12)
  | baseBranch (op : BranchOp) (rs1 rs2 : Reg) (imm : BitVec 12)
  | jal (rd : Reg) (imm : BitVec 20)
  | jalr (rd rs1 : Reg) (imm : BitVec 12)
  | baseFence (rd rs1 : Reg) (imm : BitVec 12)
  | zicsr (op : CsrOp) (rd rs1 : Reg) (csr : BitVec 12)
  | illegalEncoding (w : BitVec 32)
  | fetchLineDelivery (cluster : Nat)
  | watchdog (slot : Nat)
  | trapRingEntry (slot : Nat)
  | vaddF (k : KOps)
  | vsubF (k : KOps)
  | vmulF (k : KOps)
  | vfma (k : KOps)
  | vfms (k : KOps)
  | vminF (k : KOps)
  | vmaxF (k : KOps)
  | vabsF (k : KOps)
  | vrcp (k : KOps)
  | vrsq (k : KOps)
  | vexp2 (k : KOps)
  | vlog2 (k : KOps)
  | vaddI (k : KOps)
  | vsubI (k : KOps)
  | vmulI (k : KOps)
  | vminI (k : KOps)
  | vmaxI (k : KOps)
  | vminN (k : KOps)
  | vmaxN (k : KOps)
  | vabsI (k : KOps)
  | vcmpEqF (k : KOps)
  | vcmpNeF (k : KOps)
  | vcmpLtF (k : KOps)
  | vcmpLeF (k : KOps)
  | vredF (k : KOps)
  | vtopk (k : KOps)
  | vgth (k : KOps)
  | vsct (k : KOps)
  | vcmpEqI (k : KOps)
  | vcmpNeI (k : KOps)
  | vcmpLtI (k : KOps)
  | vcmpLeI (k : KOps)
  | vcmpLtN (k : KOps)
  | vcmpLeN (k : KOps)
  | vredI (k : KOps)
  | vand (k : KOps)
  | vor (k : KOps)
  | vxor (k : KOps)
  | vsel (k : KOps)
  | vshl (k : KOps)
  | vshr (k : KOps)
  | vsra (k : KOps)
  | vsclCompute (k : KOps)
  | vsclApply (k : KOps)
  | vperm (k : KOps)
  | vbcast (k : KOps)
  | vext (k : KOps)
  | vins (k : KOps)
  | viota (k : KOps)
  | vcvt (k : KOps)
  | vpack (k : KOps)
  | vunpk (k : KOps)
  | vld (l : LOps)
  | vst (l : LOps)
  | fmt (payload : BitVec 17)
  | mzero (k : KOps)
  | mlb (k : KOps)
  | mring (k : KOps)
  | mpass (k : KOps)
  | mld (k : KOps)
  | mst (k : KOps)
  | mgeo (k : KOps)
  | mmaReg (k : KOps)
  | mmaImm (latch : Bool) (l : LOps)
  | mmaStep (slot : Nat)
  | latchTransferArrival (core ctx latch : Nat)
  | shadowApply (core ctx latch : Nat)
  | cpy (k : KOps)
  | xfer (k : KOps)
  | cpyw (k : KOps)
  | cpyq (k : KOps)
  | cpystop (k : KOps)
  | engineCommandStart (engine : Nat)
  | engineRow (engine : Nat)
  | chunkArrival (engine : Nat)
  | launch (k : KOps)
  | lstat (k : KOps)
  | lkill (k : KOps)
  | eitem (k : KOps)
  | econ (k : KOps)
  | estat (k : KOps)
  | sresume (k : KOps)
  | skill (k : KOps)
  | sqkill (k : KOps)
  | tlbinv (k : KOps)
  | dpitset (k : KOps)
  | trc (k : KOps)
  | dmark (k : KOps)
  | send (k : KOps)
  | sendr (k : KOps)
  | reply (k : KOps)
  | hen (k : KOps)
  | hdis (k : KOps)
  | hpend (k : KOps)
  | hclr (k : KOps)
  | hhdr (k : KOps)
  | susp (k : KOps)
  | yield (k : KOps)
  | spawn (k : KOps)
  | join (k : KOps)
  | exit (k : KOps)
  | suspensionCommit (slot : Nat)
  | exitCommit (slot : Nat)
  | gld (sub : BitVec 3) (l : LOps)
  | gvld (l : LOps)
  | gst (sub : BitVec 2) (o : WOps)
  | gvst (o : WOps)
  | nmnew (k : KOps)
  | nmres (k : KOps)
  | nmcas (k : KOps)
  | nmkill (k : KOps)
  | nmld (k : KOps)
  | nmst (k : KOps)
  | nmstat (k : KOps)
  | twld (k : KOps)
  | twadd (k : KOps)
  | twset (k : KOps)
  | twarm (k : KOps)
  | twdis (k : KOps)
  | twpred (k : KOps)
  | lawset (k : KOps)
  | lawget (k : KOps)
  | qbind (k : KOps)
  | qrd (k : KOps)
  | qrdv (k : KOps)
  | qstat (k : KOps)
  | waitv (k : KOps)
  | gpf (k : KOps)
  | mhint (k : KOps)
  | mqry (k : KOps)
  | tbadv (k : KOps)
  | amoAdd (k : KOps)
  | amoMin (k : KOps)
  | amoMax (k : KOps)
  | amoAnd (k : KOps)
  | amoOr (k : KOps)
  | amoXor (k : KOps)
  | amoSwap (k : KOps)
  | amocas (k : KOps)
  | red (k : KOps)
  | fen (k : KOps)
  | own (k : KOps)
  | ownw (k : KOps)
  | barjoin (k : KOps)
  | barinit (k : KOps)
  | bararr (k : KOps)
  | barwait (k : KOps)
  | baraw (k : KOps)
  | bardrop (k : KOps)
  | barinv (k : KOps)
  | grp (k : KOps)
  | fadd (k : KOps)
  | fsub (k : KOps)
  | fmul (k : KOps)
  | fma (k : KOps)
  | fdiv (k : KOps)
  | fsqrt (k : KOps)
  | fmin (k : KOps)
  | fmax (k : KOps)
  | fcmp (k : KOps)
  | fcvt (k : KOps)
  | min (k : KOps)
  | max (k : KOps)
  | clz (k : KOps)
  | ctz (k : KOps)
  | cpop (k : KOps)
  | csel (k : KOps)
  | loopi (k : Bool) (l : LOps)
  | align (l : LOps)
  | alignRelease (slot : Nat)
  | rolImm (l : LOps)
  | rorImm (l : LOps)
  | loop (k : KOps)
  | bfx (k : KOps)
  | bfi (k : KOps)
  | rol (k : KOps)
  | ror (k : KOps)
  | handlerMessage (m : Msg)
  | handlerDispatch (slot : Nat)
  | messageDeparture (core : Nat)
  | registerReply (m : Msg)
  | resume (m : Msg)
  | spawnMessage (m : Msg)
  | exitReport (m : Msg)
  | launchStart (m : Msg)
  | crossing (m : Msg)
  | copyArrival (m : Msg)
  | estimatorItem (m : Msg)
  | trapReport (m : Msg)
  | errorNotice (m : Msg)
  | peerDownNotice (m : Msg)
  | readRequest (m : Msg)
  | writeRequest (m : Msg)
  | writeRelease (m : Msg)
  | writeSc (m : Msg)
  | prefetchRequest (m : Msg)
  | watchRequest (m : Msg)
  | watchSpillReread (stack : Nat)
  | readReply (m : Msg)
  | writeAcknowledgement (m : Msg)
  | atomicRequest (m : Msg)
  | reductionRequest (m : Msg)
  | barrierOperation (m : Msg)
  | nearMemoryReply (m : Msg)
  | tensedRequest (m : Msg)
  | tensedReply (m : Msg)
  | hubRequest (m : Msg)
  | hubReply (m : Msg)
  | nameRequest (m : Msg)
  | nameReply (m : Msg)
  | shootDown (m : Msg)
  | shootDownDrain (cluster unit : Nat) (name : BitVec 128)
  | hintRequest (m : Msg)
  | queryRequest (m : Msg)
  | queryReply (m : Msg)
  | estimatorRequest (m : Msg)
  | estimatorHandout (est : Nat)
  | deliveryWindowClose (launch : Nat)
  | forwardingEntryWrite (slot : Nat)
  | alarm (stack : Nat)
  | sweepTouch (ga : Word)
  | budgetChargeReport (core ctx : Nat)
  | dispatchDecision (part vf : Nat)
  | launchExpiryScan (part vf : Nat)
  | moveBeginNotice (page home : Nat)
  | moveCopy (page : Nat)
  | heatWriteback (stack : Nat)
  | triggerLinePulse (line : Nat)
  | traceSample (cluster : Nat)
  | launchCompletion (launch : Nat)
  | nameOperationCommit (unit : Nat) (name : BitVec 128)
  | budgetCrossing (m : Msg)
  | contextSave (core ctx : Nat)
  | tableWalk (core asid : Nat) (va : Word)
  | implicitDrop (slot : Nat)
  | estimatorStop (est : Nat)
  | pageMove (page : Nat) (entry : Word)
  | patrolScrub (atom errors : Nat)
  | fabricCombine (window : Nat) (m : Msg)
  | contributorWithdrawal (window : Nat) (chip : BitVec 20)
  | peerDownEvent (chip : BitVec 20) (reason : BitVec 2)
  | tlbInvalidation (unit : Nat) (m : Msg)
  | machineCheckRecord (r : McRecord)
  | hostEnqueue (vf : Nat) (queue : BitVec 10) (packet : List Word)
  | pcmdAssign (cmd : Word)
  | pcmdRelease (cmd : Word)
  | pcmdMerge (cmd : Word)
  | pcmdShrink (cmd : Word)
  | vfReset (vf : Nat)
  | nametabWrite (v : Word)
  | smapnWrite (v : Word)
  | klawWrite (v : Word)
  | namecmdNew
  | namecmdCas
  | namecmdKill
  | wincmdDeclare (window : Nat)
  | wincmdRedeclare (window : Nat)
  | wincmdRemove (window : Nat)
  | mgmtRegisterWrite (reg : Nat) (v : Word)
  | debugHaltreq (cluster : Nat)
  | debugResume (cluster : Nat)
  | debugStep (cluster core slot : Nat)
  | lossTableClear (cluster : Nat)
  | traceSegmentSeal
  | packageReset
  | mgmtResetCommand (frame : List Byte)
  | mgmtConfigurationWrite (frame : List Byte)
  | mgmtAttestationRequest (frame : List Byte)
  | bootImageFetch (image : List Byte)
  | entropyHealthFailure
  | powerSample (watts temp : Nat)
  | linkRetryExhausted (port : Nat)
  | entropySourceRecovery
  | peerReturn (chip : BitVec 20)
  | storageCompletion
  | ecall
  | ebreak
  | nameBlockReservation
  | trackerPeriod
  deriving DecidableEq, Repr

end Sys2Proof
end

