-- ==== Sys2Proof/WellFormed.lean ====
section
/-!
DEFINITION. Which terms of `Instr` stand for an instruction of the Brixbin: the field values that 04_encoding.md R61, R64,
R66, R72 and the opcode map (R67 to R70) admit. A word whose fields fail a check here raises 0x00 ILLEGAL_ENCODING, so the
decoder refuses it. A message event is well formed when the message has the kind of the event (06_messages.md R102).
-/
namespace Sys2Proof

/-- An accumulator tile field names a tile from 0 to 15 (R64). -/
def KOps.tile (k : KOps) : Bool := k.rd.toNat < 16

/-- A B latch field names latch 0 or 1 (R64). -/
def KOps.latch (k : KOps) : Bool := k.rd.toNat < 2

/-- A stream register field names q0 to q7 (R64). -/
def KOps.stream (_ : KOps) (r : Reg) : Bool := r.toNat < 8

/-- A field `rs2` that selects a default when it is 0 names no register then, so `e2` is 0 (R64, R184, R312, R408).
DEDUCED, log 8. -/
def KOps.optional (k : KOps) : Bool := k.rs2 != 0 || !k.e2

/-- Without `.at` a tick field is a field marked 0 (17_tensed.md R312). -/
def KOps.tick (k : KOps) (r : Reg) : Bool := k.w.getLsbD 0 || r == 0

/-- The scope code of `send` and `reply` in `rd` (R72). -/
def KOps.scope (k : KOps) : Bool := k.rd.toNat < 2

/-- The operation code of the floating-point `vred` in `rs2` (R72). -/
def KOps.redCodeF (k : KOps) : Bool := k.rs2.toNat < 3

/-- The operation code of the integer `vred` in `rs2` (R72). -/
def KOps.redCodeI (k : KOps) : Bool := k.rs2.toNat < 5

/-- The code of `red` in `rd`: operation in [1:0], format in [3:2], [4] zero (R72). -/
def KOps.redCode (k : KOps) : Bool :=
  k.rd.extractLsb' 0 2 != 3 && k.rd.extractLsb' 2 2 != 3 && !k.rd.getLsbD 4

/-- The code of `fen` in `rs2`: kind in [1:0] not 00, scope in [3:2], [4] zero (R72, R249). -/
def KOps.fenCode (k : KOps) : Bool := k.rs2.extractLsb' 0 2 != 0 && !k.rs2.getLsbD 4

/-- The fold code of `join` in `rs2`: operation 0 to 5, and no bitwise operation on a floating type (R72). -/
def KOps.foldCode (k : KOps) : Bool :=
  (k.rs2.extractLsb' 0 3).toNat < 6 && !((k.rs2.extractLsb' 0 3).toNat ≥ 3 && k.rs2.getLsbD 4)

/-- The destination of `join` is `x0` or a register the record carries (06_messages.md R123). -/
def KOps.joinDest (k : KOps) : Bool := k.rd == 0 || (11 ≤ k.rd.toNat && k.rd.toNat ≤ 15)

/-- The body length of a loop word from its two fields (R72). -/
def bodyLength (hi lo : Reg) : Nat := 32 * hi.toNat + lo.toNat

/-- A format prefix payload that holds no reserved code (08_numbers.md R163). -/
def payloadDefined (p : BitVec 17) : Bool :=
  let a := (p.extractLsb' 13 4).toNat
  let b := (p.extractLsb' 9 4).toNat
  let res := fun (c : Nat) => c == 7 || c == 11 || c == 15
  !res a && !res b && p.extractLsb' 5 2 != 3 && p.extractLsb' 3 2 != 3

/-- The message has the kind of the event it is given to (06_messages.md R102). -/
def Msg.ofKind (m : Msg) (n : Nat) : Bool := m.kind.toNat == n

/-- The instruction or event is one the spec admits. -/
def Instr.wf : Instr → Bool
  | .baseAlu _ => true
  | .baseMulDiv _ _ _ _ => true
  | .baseLoad _ _ _ _ => true
  | .baseStore _ _ _ _ => true
  | .baseBranch _ _ _ _ => true
  | .jal _ _ => true
  | .jalr _ _ _ => true
  | .baseFence _ _ _ => true
  | .ecall => true
  | .ebreak => true
  | .zicsr _ _ _ _ => true
  | .illegalEncoding _ => true
  | .fetchLineDelivery _ => true
  | .tableWalk _ _ _ => true
  | .watchdog _ => true
  | .trapRingEntry _ => true
  | .vaddF _ => true
  | .vsubF _ => true
  | .vmulF _ => true
  | .vfma _ => true
  | .vfms _ => true
  | .vminF _ => true
  | .vmaxF _ => true
  | .vabsF k => !k.e2 && k.rs2 == 0
  | .vrcp k => !k.e2 && k.rs2 == 1 && k.w != 3
  | .vrsq k => !k.e2 && k.rs2 == 2 && k.w != 3
  | .vexp2 k => !k.e2 && k.rs2 == 3 && k.w != 3
  | .vlog2 k => !k.e2 && k.rs2 == 4 && k.w != 3
  | .vaddI _ => true
  | .vsubI _ => true
  | .vmulI _ => true
  | .vminI _ => true
  | .vmaxI _ => true
  | .vminN _ => true
  | .vmaxN _ => true
  | .vabsI k => !k.e2 && k.rs2 == 0
  | .vcmpEqF _ => true
  | .vcmpNeF _ => true
  | .vcmpLtF _ => true
  | .vcmpLeF _ => true
  | .vredF k => !k.e2 && k.redCodeF
  | .vtopk _ => true
  | .vgth _ => true
  | .vsct _ => true
  | .vcmpEqI _ => true
  | .vcmpNeI _ => true
  | .vcmpLtI _ => true
  | .vcmpLeI _ => true
  | .vcmpLtN _ => true
  | .vcmpLeN _ => true
  | .vredI k => !k.e2 && k.redCodeI
  | .vand _ => true
  | .vor _ => true
  | .vxor _ => true
  | .vsel _ => true
  | .vshl _ => true
  | .vshr _ => true
  | .vsra _ => true
  | .vsclCompute k => !k.e2 && k.rs2 == 0
  | .vsclApply k => k.rs2 != 0
  | .vperm _ => true
  | .vbcast k => !k.e2 && k.rs2 == 0
  | .vext _ => true
  | .vins _ => true
  | .viota k => !k.e2 && k.rs2 == 0
  | .vcvt k => !k.e2 && k.rs2.toNat < 24
  | .vpack _ => true
  | .vunpk _ => true
  | .vld _ => true
  | .vst _ => true
  | .fmt p => payloadDefined p
  | .mzero k => !k.e2 && !k.e1 && k.w == 0 && k.rs2 == 0 && k.rs1 == 0 && k.tile
  | .mlb k => k.w == 0 && k.latch && k.optional
  | .mring k => k.w == 0 && k.latch && k.optional
  | .mpass k => k.w == 0 && k.latch
  | .mld k => k.w == 0 && k.tile && k.optional
  | .mst k => k.w == 0 && k.tile && k.optional
  | .mgeo k => !k.e2 && k.w == 2 && k.rs2 == 0
  | .mmaReg k => !k.w.getLsbD 1 && k.tile
  | .mmaImm _ l => l.rd.toNat < 16
  | .mmaStep _ => true
  | .latchTransferArrival _ _ _ => true
  | .shadowApply _ _ _ => true
  | .cpy k => k.w == 0
  | .xfer k => k.w == 0
  | .cpyw k => !k.e2 && k.w == 0 && k.rs2 == 0
  | .cpyq k => !k.e2 && k.w == 0 && k.rs2 == 0
  | .cpystop k => !k.e2 && k.w == 0 && k.rs2 == 0
  | .engineCommandStart _ => true
  | .engineRow _ => true
  | .chunkArrival _ => true
  | .launch k => k.w == 1
  | .lstat k => !k.e2 && k.w == 1 && k.rs2 == 0
  | .lkill k => !k.e2 && k.w == 1 && k.rs2 == 0
  | .eitem k => !k.e2 && !k.e1 && k.w == 1 && k.rs2 == 0 && k.rs1 == 0
  | .econ k => k.w == 0 && k.rd == 0
  | .estat k => !k.e2 && k.w == 0 && k.rs2 == 0
  | .sresume k => k.w == 0 && k.optional
  | .skill k => !k.e2 && k.w == 0 && k.rs2 == 0
  | .sqkill k => !k.e2 && k.w == 0 && k.rs2 == 0
  | .tlbinv k => k.w == 0
  | .dpitset k => k.w == 0
  | .trc k => k.rd == 0
  | .dmark k => !k.e2 && k.w == 0 && k.rs2 == 0 && k.rd == 0
  | .send k => k.scope
  | .sendr _ => true
  | .reply k => k.scope
  | .hen k => !k.e2 && k.w == 0 && k.rs2 == 0 && k.rd == 0
  | .hdis k => !k.e2 && k.w == 0 && k.rs2 == 0 && k.rd == 0
  | .hpend k => !k.e2 && k.w == 0 && k.rs2 == 0 && k.rd == 0
  | .hclr k => !k.e2 && k.w == 0 && k.rs2 == 0 && k.rd == 0
  | .hhdr k => !k.e2 && !k.e1 && k.w == 2 && k.rs2 == 0 && k.rs1 == 0
  | .susp k => !k.e2 && !k.e1 && k.w == 0 && k.rs2 == 0 && k.rs1 == 0 && k.rd == 0
  | .yield k => !k.e2 && !k.e1 && k.w == 0 && k.rs2 == 0 && k.rs1 == 0 && k.rd == 0
  | .spawn k => k.w != 3
  | .join k => !k.e2 && !k.e1 && k.w == 0 && k.rs1 == 0 && k.joinDest && k.foldCode
  | .exit k => !k.e2 && k.w == 0 && k.rs2 == 0 && k.rd == 0
  | .suspensionCommit _ => true
  | .exitCommit _ => true
  | .implicitDrop _ => true
  | .gld sub _ => sub != 7
  | .gvld _ => true
  | .gst _ o => o.w != 3
  | .gvst o => o.w != 3
  | .nmnew k => k.w == 1
  | .nmres k => !k.e2 && k.w == 1 && k.rs2 == 0
  | .nmcas k => k.w == 1
  | .nmkill k => !k.e2 && k.w == 1 && k.rs2 == 0
  | .nmld k => k.w == 1
  | .nmst k => k.w == 1
  | .nmstat k => !k.e2 && k.w == 1 && k.rs2 == 0
  | .twld k => !k.w.getLsbD 1 && k.tick k.rs2 && (k.w.getLsbD 0 || !k.e2)
  | .twadd k => !k.w.getLsbD 1 && k.tick k.rd
  | .twset k => !k.w.getLsbD 1 && k.tick k.rd
  | .twarm k => k.w == 0 && k.rd == 0 && k.optional
  | .twdis k => k.w == 0 && k.rd == 0 && k.optional
  | .twpred k => !k.w.getLsbD 1 && k.tick k.rs2 && (k.w.getLsbD 0 || !k.e2)
  | .lawset k => k.w == 0 && k.rd == 0
  | .lawget k => !k.e2 && k.w == 0 && k.rs2 == 0
  | .qbind k => !k.e2 && k.w == 0 && k.rs2 == 0 && k.stream k.rd
  | .qrd k => !k.e2 && !k.e1 && k.w == 0 && k.rs2 == 0 && k.stream k.rs1
  | .qrdv k => !k.e2 && !k.e1 && k.w == 0 && k.rs2 == 0 && k.stream k.rs1
  | .qstat k => !k.e2 && !k.e1 && k.w == 0 && k.rs2 == 0 && k.stream k.rd
  | .waitv k => !k.w.getLsbD 1
  | .gpf k => k.w == 0 && k.rd == 0
  | .mhint k => k.w == 0 && k.rd == 0
  | .mqry k => !k.e2 && k.w == 0 && k.rs2 == 0
  | .tbadv k => k.w == 0
  | .amoAdd k => k.w == 0
  | .amoMin k => !k.w.getLsbD 1
  | .amoMax k => !k.w.getLsbD 1
  | .amoAnd k => k.w == 0
  | .amoOr k => k.w == 0
  | .amoXor k => k.w == 0
  | .amoSwap k => !k.w.getLsbD 1
  | .amocas k => !k.w.getLsbD 1
  | .red k => k.w == 0 && k.redCode
  | .fen k => !k.e2 && !k.e1 && k.w == 0 && k.rs1 == 0 && k.rd == 0 && k.fenCode
  | .own k => !k.e2 && k.w == 0 && k.rs2 == 0 && k.rd == 0
  | .ownw k => !k.e2 && k.w == 0 && k.rs2 == 0 && k.rd == 0
  | .barjoin k => !k.e2 && k.w == 1 && k.rs2 == 0
  | .barinit k => k.w == 1 && k.rd == 0
  | .bararr k => !k.e2 && k.w == 1 && k.rs2 == 0
  | .barwait k => k.w == 1
  | .baraw k => !k.e2 && k.w == 1 && k.rs2 == 0
  | .bardrop k => !k.e2 && k.w == 1 && k.rs2 == 0
  | .barinv k => !k.e2 && k.w == 1 && k.rs2 == 0 && k.rd == 0
  | .grp k => k.w == 0
  | .fadd k => !k.w.getLsbD 1
  | .fsub k => !k.w.getLsbD 1
  | .fmul k => !k.w.getLsbD 1
  | .fma k => !k.w.getLsbD 1
  | .fdiv k => !k.w.getLsbD 1
  | .fsqrt k => !k.e2 && !k.w.getLsbD 1 && k.rs2 == 0
  | .fmin k => !k.w.getLsbD 1
  | .fmax k => !k.w.getLsbD 1
  | .fcmp k => !k.w.getLsbD 1
  | .fcvt k => !k.e2 && k.w == 0 && k.rs2.toNat < 18
  | .min k => !k.w.getLsbD 1
  | .max k => !k.w.getLsbD 1
  | .clz k => !k.e2 && k.w == 0 && k.rs2 == 0
  | .ctz k => !k.e2 && k.w == 0 && k.rs2 == 0
  | .cpop k => !k.e2 && k.w == 0 && k.rs2 == 0
  | .csel k => k.w == 0
  | .loopi _ l => !l.e1 && bodyLength l.rd l.rs1 != 0
  | .align l => !l.e1 && l.rs1 == 0 && l.rd == 0
  | .alignRelease _ => true
  | .rolImm l => l.imm8.toNat < 64
  | .rorImm l => l.imm8.toNat < 64
  | .loop k => !k.e2 && !k.w.getLsbD 1 && bodyLength k.rd k.rs2 != 0
  | .bfx k => k.w == 0
  | .bfi k => k.w == 0
  | .rol k => k.w == 0
  | .ror k => k.w == 0
  | .handlerMessage m => m.ofKind 0x00
  | .handlerDispatch _ => true
  | .messageDeparture _ => true
  | .registerReply m => m.ofKind 0x01
  | .resume m => m.ofKind 0x02
  | .spawnMessage m => m.ofKind 0x03
  | .exitReport m => m.ofKind 0x04
  | .launchStart m => m.ofKind 0x08
  | .crossing m => m.ofKind 0x09
  | .copyArrival m => m.ofKind 0x0A
  | .estimatorItem m => m.ofKind 0x0B
  | .trapReport m => m.ofKind 0x0C
  | .errorNotice m => m.ofKind 0x0D
  | .peerDownNotice m => m.ofKind 0x0E
  | .readRequest m => m.ofKind 0x20
  | .writeRequest m => m.ofKind 0x21
  | .writeRelease m => m.ofKind 0x22
  | .writeSc m => m.ofKind 0x23
  | .prefetchRequest m => m.ofKind 0x24
  | .watchRequest m => m.ofKind 0x25
  | .watchSpillReread _ => true
  | .readReply m => m.ofKind 0x28
  | .writeAcknowledgement m => m.ofKind 0x29
  | .atomicRequest m => m.ofKind 0x30
  | .reductionRequest m => m.ofKind 0x31
  | .barrierOperation m => m.ofKind 0x32
  | .nearMemoryReply m => m.ofKind 0x33
  | .tensedRequest m => m.ofKind 0x34
  | .tensedReply m => m.ofKind 0x35
  | .hubRequest m => m.ofKind 0x36
  | .hubReply m => m.ofKind 0x37
  | .nameRequest m => m.ofKind 0x38
  | .nameReply m => m.ofKind 0x39
  | .shootDown m => m.ofKind 0x3A
  | .shootDownDrain _ _ _ => true
  | .nameOperationCommit _ _ => true
  | .nameBlockReservation => true
  | .hintRequest m => m.ofKind 0x3C
  | .queryRequest m => m.ofKind 0x3D
  | .queryReply m => m.ofKind 0x3E
  | .estimatorRequest m => m.ofKind 0x3F
  | .estimatorHandout _ => true
  | .estimatorStop _ => true
  | .deliveryWindowClose _ => true
  | .forwardingEntryWrite _ => true
  | .alarm _ => true
  | .sweepTouch _ => true
  | .budgetChargeReport _ _ => true
  | .budgetCrossing _ => true
  | .contextSave _ _ => true
  | .dispatchDecision _ _ => true
  | .launchExpiryScan _ _ => true
  | .launchCompletion _ => true
  | .pageMove _ _ => true
  | .moveBeginNotice _ _ => true
  | .moveCopy _ => true
  | .heatWriteback _ => true
  | .trackerPeriod => true
  | .patrolScrub _ _ => true
  | .fabricCombine _ _ => true
  | .contributorWithdrawal _ _ => true
  | .peerDownEvent _ _ => true
  | .tlbInvalidation _ _ => true
  | .machineCheckRecord _ => true
  | .hostEnqueue vf _ p => decide (vf ≤ 128) && p.length == 16
  | .pcmdAssign _ => true
  | .pcmdRelease _ => true
  | .pcmdMerge _ => true
  | .pcmdShrink _ => true
  | .vfReset _ => true
  | .nametabWrite _ => true
  | .smapnWrite _ => true
  | .klawWrite _ => true
  | .namecmdNew => true
  | .namecmdCas => true
  | .namecmdKill => true
  | .wincmdDeclare w => decide (w < 64)
  | .wincmdRedeclare w => decide (w < 64)
  | .wincmdRemove w => decide (w < 64)
  | .mgmtRegisterWrite _ _ => true
  | .debugHaltreq _ => true
  | .debugResume _ => true
  | .debugStep _ _ _ => true
  | .triggerLinePulse _ => true
  | .lossTableClear _ => true
  | .traceSample _ => true
  | .traceSegmentSeal => true
  | .packageReset => true
  | .mgmtResetCommand _ => true
  | .mgmtConfigurationWrite _ => true
  | .mgmtAttestationRequest _ => true
  | .bootImageFetch _ => true
  | .entropyHealthFailure => true
  | .powerSample _ _ => true
  | .linkRetryExhausted _ => true
  | .entropySourceRecovery => true
  | .peerReturn _ => true
  | .storageCompletion => true

end Sys2Proof
end

