-- ==== Sys2Proof/Decode.lean ====
section
/-!
DEFINITION. The decoder of 32-bit instruction words (04_encoding.md R60 to R72), total on every word and refusing by name
each word that is no instruction, and the encoder. A refused word runs as ILLEGAL_ENCODING (R60).
-/
namespace Sys2Proof

/-- Why a word is no instruction. -/
inductive Reject where
  /-- Bits [1:0] are not 0b11 (R60). -/
  | compressed
  /-- A longer-than-32-bit or reserved major (R60). -/
  | longEncoding
  /-- A major opcode that this part does not execute (R60). -/
  | unusedMajor
  /-- A base word that RV64I, M or Zicsr mark reserved (R61). -/
  | reservedBase
  /-- A custom word whose row the opcode map does not list (R67 to R70). -/
  | unlistedRow
  /-- A field value that R64, R66, R72 or the map do not allow. -/
  | fieldValue
  deriving DecidableEq, Repr

/-- What the decoder makes of a word: the instruction, or the reason why it is none. -/
inductive Decoded where
  | ok (i : Instr)
  | refused (r : Reject)
  deriving DecidableEq, Repr

/-! ### Fields of a word (R62) -/

def majorOf (w : BitVec 32) : BitVec 7 := w.extractLsb' 0 7
def rdOf (w : BitVec 32) : Reg := w.extractLsb' 7 5
def f3Of (w : BitVec 32) : BitVec 3 := w.extractLsb' 12 3
def rs1Of (w : BitVec 32) : Reg := w.extractLsb' 15 5
def rs2Of (w : BitVec 32) : Reg := w.extractLsb' 20 5
def f3bOf (w : BitVec 32) : BitVec 3 := w.extractLsb' 29 3
def funct7Of (w : BitVec 32) : BitVec 7 := w.extractLsb' 25 7
def immIOf (w : BitVec 32) : BitVec 12 := w.extractLsb' 20 12
def immSOf (w : BitVec 32) : BitVec 12 := w.extractLsb' 25 7 ++ w.extractLsb' 7 5

/-- Bits [12:1] of a branch offset, as RV64I places them. -/
def immBOf (w : BitVec 32) : BitVec 12 :=
  w.extractLsb' 31 1 ++ w.extractLsb' 7 1 ++ w.extractLsb' 25 6 ++ w.extractLsb' 8 4

/-- Bits [31:12] of an upper immediate. -/
def immUOf (w : BitVec 32) : BitVec 20 := w.extractLsb' 12 20

/-- Bits [20:1] of a jump offset, as RV64I places them. -/
def immJOf (w : BitVec 32) : BitVec 20 :=
  w.extractLsb' 31 1 ++ w.extractLsb' 12 8 ++ w.extractLsb' 20 1 ++ w.extractLsb' 21 10

/-- The operand fields of a K-format word (R62). -/
def kOps (w : BitVec 32) : KOps :=
  { e2 := w.getLsbD 28, e1 := w.getLsbD 27, w := w.extractLsb' 25 2, rs2 := rs2Of w, rs1 := rs1Of w, rd := rdOf w }

/-- The operand fields of an L-format word (R62). -/
def lOps (w : BitVec 32) : LOps :=
  { e1 := w.getLsbD 28, imm8 := w.extractLsb' 20 8, rs1 := rs1Of w, rd := rdOf w }

/-- The operand fields of a W-format word (R62). -/
def wOps (w : BitVec 32) : WOps :=
  { e2 := w.getLsbD 28, e1 := w.getLsbD 27, w := w.extractLsb' 25 2, rs2 := rs2Of w, rs1 := rs1Of w, imm5 := rdOf w }

/-- An instruction whose fields pass the checks of R64, R66 and R72. -/
def accept (i : Instr) : Decoded := if i.wf then .ok i else .refused .fieldValue

/-! ### Base words (R61) -/

/-- OP-IMM. -/
def decodeOpImm (w : BitVec 32) : Decoded :=
  let imm := fun op => accept (.baseAlu (.opImm op (rdOf w) (rs1Of w) (immIOf w)))
  let sh := fun op => accept (.baseAlu (.shiftImm op (rdOf w) (rs1Of w) (w.extractLsb' 20 6)))
  match (f3Of w).toNat with
  | 0 => imm .addi
  | 1 => if w.extractLsb' 26 6 = 0 then sh .sll else .refused .reservedBase
  | 2 => imm .slti
  | 3 => imm .sltiu
  | 4 => imm .xori
  | 5 => if w.extractLsb' 26 6 = 0 then sh .srl
         else if w.extractLsb' 26 6 = 0b010000 then sh .sra else .refused .reservedBase
  | 6 => imm .ori
  | _ => imm .andi

/-- OP-IMM-32. -/
def decodeOpImm32 (w : BitVec 32) : Decoded :=
  let sh := fun op => accept (.baseAlu (.shiftImmW op (rdOf w) (rs1Of w) (rs2Of w)))
  match (f3Of w).toNat with
  | 0 => accept (.baseAlu (.addiw (rdOf w) (rs1Of w) (immIOf w)))
  | 1 => if funct7Of w = 0 then sh .sll else .refused .reservedBase
  | 5 => if funct7Of w = 0 then sh .srl
         else if funct7Of w = 0b0100000 then sh .sra else .refused .reservedBase
  | _ => .refused .reservedBase

/-- OP: RV64I and M. -/
def decodeOp (w : BitVec 32) : Decoded :=
  let r := fun op => accept (.baseAlu (.op op (rdOf w) (rs1Of w) (rs2Of w)))
  let m := fun op => accept (.baseMulDiv op (rdOf w) (rs1Of w) (rs2Of w))
  match (funct7Of w).toNat with
  | 0 => match (f3Of w).toNat with
    | 0 => r .add
    | 1 => r .sll
    | 2 => r .slt
    | 3 => r .sltu
    | 4 => r .xor
    | 5 => r .srl
    | 6 => r .or
    | _ => r .and
  | 1 => match (f3Of w).toNat with
    | 0 => m .mul
    | 1 => m .mulh
    | 2 => m .mulhsu
    | 3 => m .mulhu
    | 4 => m .div
    | 5 => m .divu
    | 6 => m .rem
    | _ => m .remu
  | 32 => match (f3Of w).toNat with
    | 0 => r .sub
    | 5 => r .sra
    | _ => .refused .reservedBase
  | _ => .refused .reservedBase

/-- OP-32: RV64I and M. -/
def decodeOp32 (w : BitVec 32) : Decoded :=
  let r := fun op => accept (.baseAlu (.opW op (rdOf w) (rs1Of w) (rs2Of w)))
  let m := fun op => accept (.baseMulDiv op (rdOf w) (rs1Of w) (rs2Of w))
  match (funct7Of w).toNat with
  | 0 => match (f3Of w).toNat with
    | 0 => r .addw
    | 1 => r .sllw
    | 5 => r .srlw
    | _ => .refused .reservedBase
  | 1 => match (f3Of w).toNat with
    | 0 => m .mulw
    | 4 => m .divw
    | 5 => m .divuw
    | 6 => m .remw
    | 7 => m .remuw
    | _ => .refused .reservedBase
  | 32 => match (f3Of w).toNat with
    | 0 => r .subw
    | 5 => r .sraw
    | _ => .refused .reservedBase
  | _ => .refused .reservedBase

/-- LOAD. -/
def decodeLoad (w : BitVec 32) : Decoded :=
  let l := fun op => accept (.baseLoad op (rdOf w) (rs1Of w) (immIOf w))
  match (f3Of w).toNat with
  | 0 => l .lb
  | 1 => l .lh
  | 2 => l .lw
  | 3 => l .ld
  | 4 => l .lbu
  | 5 => l .lhu
  | 6 => l .lwu
  | _ => .refused .reservedBase

/-- STORE. -/
def decodeStore (w : BitVec 32) : Decoded :=
  let st := fun op => accept (.baseStore op (rs1Of w) (rs2Of w) (immSOf w))
  match (f3Of w).toNat with
  | 0 => st .sb
  | 1 => st .sh
  | 2 => st .sw
  | 3 => st .sd
  | _ => .refused .reservedBase

/-- BRANCH. -/
def decodeBranch (w : BitVec 32) : Decoded :=
  let b := fun op => accept (.baseBranch op (rs1Of w) (rs2Of w) (immBOf w))
  match (f3Of w).toNat with
  | 0 => b .beq
  | 1 => b .bne
  | 4 => b .blt
  | 5 => b .bge
  | 6 => b .bltu
  | 7 => b .bgeu
  | _ => .refused .reservedBase

/-- SYSTEM: `ecall`, `ebreak` and the six Zicsr forms, and nothing else (R61). -/
def decodeSystem (w : BitVec 32) : Decoded :=
  let c := fun op => accept (.zicsr op (rdOf w) (rs1Of w) (immIOf w))
  match (f3Of w).toNat with
  | 0 => if w = 0x00000073#32 then accept .ecall
         else if w = 0x00100073#32 then accept .ebreak else .refused .reservedBase
  | 1 => c .csrrw
  | 2 => c .csrrs
  | 3 => c .csrrc
  | 5 => c .csrrwi
  | 6 => c .csrrsi
  | 7 => c .csrrci
  | _ => .refused .reservedBase

/-! ### Custom words -/

/-- The floating-point unary row of custom-0, by the code in `rs2` (R67). -/
def unary (w : BitVec 32) : Decoded :=
  match (rs2Of w).toNat with
  | 0 => accept (.vabsF (kOps w))
  | 1 => accept (.vrcp (kOps w))
  | 2 => accept (.vrsq (kOps w))
  | 3 => accept (.vexp2 (kOps w))
  | 4 => accept (.vlog2 (kOps w))
  | _ => .refused .fieldValue

/-- The rows of custom-0 (04_encoding.md R67), by f3 and then f3b or sub. -/
def custom0 (w : BitVec 32) : Decoded :=
  match (f3Of w).toNat with
  | 0 => match (f3bOf w).toNat with
    | 0 => accept (.vaddF (kOps w))
    | 1 => accept (.vsubF (kOps w))
    | 2 => accept (.vmulF (kOps w))
    | 3 => accept (.vfma (kOps w))
    | 4 => accept (.vfms (kOps w))
    | 5 => accept (.vminF (kOps w))
    | 6 => accept (.vmaxF (kOps w))
    | _ => unary w
  | 1 => match (f3bOf w).toNat with
    | 0 => accept (.vaddI (kOps w))
    | 1 => accept (.vsubI (kOps w))
    | 2 => accept (.vmulI (kOps w))
    | 3 => accept (.vminI (kOps w))
    | 4 => accept (.vmaxI (kOps w))
    | 5 => accept (.vminN (kOps w))
    | 6 => accept (.vmaxN (kOps w))
    | _ => accept (.vabsI (kOps w))
  | 2 => match (f3bOf w).toNat with
    | 0 => accept (.vcmpEqF (kOps w))
    | 1 => accept (.vcmpNeF (kOps w))
    | 2 => accept (.vcmpLtF (kOps w))
    | 3 => accept (.vcmpLeF (kOps w))
    | 4 => accept (.vredF (kOps w))
    | 5 => accept (.vtopk (kOps w))
    | 6 => accept (.vgth (kOps w))
    | _ => accept (.vsct (kOps w))
  | 3 => match (f3bOf w).toNat with
    | 0 => accept (.vcmpEqI (kOps w))
    | 1 => accept (.vcmpNeI (kOps w))
    | 2 => accept (.vcmpLtI (kOps w))
    | 3 => accept (.vcmpLeI (kOps w))
    | 4 => accept (.vcmpLtN (kOps w))
    | 5 => accept (.vcmpLeN (kOps w))
    | 6 => accept (.vredI (kOps w))
    | _ => .refused .unlistedRow
  | 4 => match (f3bOf w).toNat with
    | 0 => accept (.vand (kOps w))
    | 1 => accept (.vor (kOps w))
    | 2 => accept (.vxor (kOps w))
    | 3 => accept (.vsel (kOps w))
    | 4 => accept (.vshl (kOps w))
    | 5 => accept (.vshr (kOps w))
    | 6 => accept (.vsra (kOps w))
    | _ => if rs2Of w = 0 then accept (.vsclCompute (kOps w)) else accept (.vsclApply (kOps w))
  | 5 => match (f3bOf w).toNat with
    | 0 => accept (.vperm (kOps w))
    | 1 => accept (.vbcast (kOps w))
    | 2 => accept (.vext (kOps w))
    | 3 => accept (.vins (kOps w))
    | 4 => accept (.viota (kOps w))
    | 5 => accept (.vcvt (kOps w))
    | 6 => accept (.vpack (kOps w))
    | _ => accept (.vunpk (kOps w))
  | 6 => match (f3bOf w).toNat with
    | 0 => accept (.vld (lOps w))
    | 1 => accept (.vst (lOps w))
    | _ => .refused .unlistedRow
  | _ => if rdOf w = 0 then accept (.fmt (w.extractLsb' 15 17)) else .refused .unlistedRow

/-- The rows of custom-1 (04_encoding.md R68), by f3 and then f3b or sub. -/
def custom1 (w : BitVec 32) : Decoded :=
  match (f3Of w).toNat with
  | 0 => match (f3bOf w).toNat with
    | 0 => accept (.mzero (kOps w))
    | 1 => accept (.mlb (kOps w))
    | 2 => accept (.mring (kOps w))
    | 3 => accept (.mpass (kOps w))
    | 4 => accept (.mld (kOps w))
    | 5 => accept (.mst (kOps w))
    | 6 => accept (.mgeo (kOps w))
    | _ => .refused .unlistedRow
  | 1 => match (f3bOf w).toNat with
    | 0 => accept (.mmaReg (kOps w))
    | _ => .refused .unlistedRow
  | 2 => match (f3bOf w).toNat with
    | 0 => accept (.mmaImm false (lOps w))
    | 1 => accept (.mmaImm true (lOps w))
    | _ => .refused .unlistedRow
  | 3 => .refused .unlistedRow
  | 4 => match (f3bOf w).toNat with
    | 0 => accept (.cpy (kOps w))
    | 1 => accept (.xfer (kOps w))
    | 2 => accept (.cpyw (kOps w))
    | 3 => accept (.cpyq (kOps w))
    | 4 => accept (.cpystop (kOps w))
    | _ => .refused .unlistedRow
  | 5 => .refused .unlistedRow
  | 6 => match (f3bOf w).toNat with
    | 0 => accept (.launch (kOps w))
    | 1 => accept (.lstat (kOps w))
    | 2 => accept (.lkill (kOps w))
    | 3 => accept (.eitem (kOps w))
    | 4 => accept (.econ (kOps w))
    | 5 => accept (.estat (kOps w))
    | _ => .refused .unlistedRow
  | _ => match (f3bOf w).toNat with
    | 0 => accept (.sresume (kOps w))
    | 1 => accept (.skill (kOps w))
    | 2 => accept (.sqkill (kOps w))
    | 3 => accept (.tlbinv (kOps w))
    | 4 => accept (.dpitset (kOps w))
    | 5 => accept (.trc (kOps w))
    | 6 => accept (.dmark (kOps w))
    | _ => .refused .unlistedRow

/-- The rows of custom-2 (04_encoding.md R69), by f3 and then f3b or sub. -/
def custom2 (w : BitVec 32) : Decoded :=
  match (f3Of w).toNat with
  | 0 => match (f3bOf w).toNat with
    | 0 => accept (.send (kOps w))
    | 1 => accept (.sendr (kOps w))
    | 2 => accept (.reply (kOps w))
    | 3 => accept (.hen (kOps w))
    | 4 => accept (.hdis (kOps w))
    | 5 => accept (.hpend (kOps w))
    | 6 => accept (.hclr (kOps w))
    | _ => accept (.hhdr (kOps w))
  | 1 => match (f3bOf w).toNat with
    | 0 => accept (.susp (kOps w))
    | 1 => accept (.yield (kOps w))
    | 2 => accept (.spawn (kOps w))
    | 3 => accept (.join (kOps w))
    | 4 => accept (.exit (kOps w))
    | _ => .refused .unlistedRow
  | 2 => match (f3bOf w).toNat with
    | 7 => accept (.gvld (lOps w))
    | _ => accept (.gld (f3bOf w) (lOps w))
  | 3 => match (f3bOf w).toNat with
    | 0 => accept (.gst 0 (wOps w))
    | 1 => accept (.gst 1 (wOps w))
    | 2 => accept (.gst 2 (wOps w))
    | 3 => accept (.gst 3 (wOps w))
    | 4 => accept (.gvst (wOps w))
    | _ => .refused .unlistedRow
  | 4 => match (f3bOf w).toNat with
    | 0 => accept (.nmnew (kOps w))
    | 1 => accept (.nmres (kOps w))
    | 2 => accept (.nmcas (kOps w))
    | 3 => accept (.nmkill (kOps w))
    | 4 => accept (.nmld (kOps w))
    | 5 => accept (.nmst (kOps w))
    | 6 => accept (.nmstat (kOps w))
    | _ => .refused .unlistedRow
  | 5 => match (f3bOf w).toNat with
    | 0 => accept (.twld (kOps w))
    | 1 => accept (.twadd (kOps w))
    | 2 => accept (.twset (kOps w))
    | 3 => accept (.twarm (kOps w))
    | 4 => accept (.twdis (kOps w))
    | 5 => accept (.twpred (kOps w))
    | 6 => accept (.lawset (kOps w))
    | _ => accept (.lawget (kOps w))
  | 6 => match (f3bOf w).toNat with
    | 0 => accept (.qbind (kOps w))
    | 1 => accept (.qrd (kOps w))
    | 2 => accept (.qrdv (kOps w))
    | 3 => accept (.qstat (kOps w))
    | 4 => accept (.waitv (kOps w))
    | 5 => accept (.gpf (kOps w))
    | 6 => accept (.mhint (kOps w))
    | _ => accept (.mqry (kOps w))
  | _ => match (f3bOf w).toNat with
    | 0 => accept (.tbadv (kOps w))
    | _ => .refused .unlistedRow

/-- The rows of custom-3 (04_encoding.md R70), by f3 and then f3b or sub. -/
def custom3 (w : BitVec 32) : Decoded :=
  match (f3Of w).toNat with
  | 0 => match (f3bOf w).toNat with
    | 0 => accept (.amoAdd (kOps w))
    | 1 => accept (.amoMin (kOps w))
    | 2 => accept (.amoMax (kOps w))
    | 3 => accept (.amoAnd (kOps w))
    | 4 => accept (.amoOr (kOps w))
    | 5 => accept (.amoXor (kOps w))
    | 6 => accept (.amoSwap (kOps w))
    | _ => accept (.amocas (kOps w))
  | 1 => match (f3bOf w).toNat with
    | 0 => accept (.red (kOps w))
    | 1 => accept (.fen (kOps w))
    | 2 => accept (.own (kOps w))
    | 3 => accept (.ownw (kOps w))
    | _ => .refused .unlistedRow
  | 2 => match (f3bOf w).toNat with
    | 0 => accept (.barjoin (kOps w))
    | 1 => accept (.barinit (kOps w))
    | 2 => accept (.bararr (kOps w))
    | 3 => accept (.barwait (kOps w))
    | 4 => accept (.baraw (kOps w))
    | 5 => accept (.bardrop (kOps w))
    | 6 => accept (.barinv (kOps w))
    | _ => accept (.grp (kOps w))
  | 3 => match (f3bOf w).toNat with
    | 0 => accept (.fadd (kOps w))
    | 1 => accept (.fsub (kOps w))
    | 2 => accept (.fmul (kOps w))
    | 3 => accept (.fma (kOps w))
    | 4 => accept (.fdiv (kOps w))
    | 5 => accept (.fsqrt (kOps w))
    | 6 => accept (.fmin (kOps w))
    | _ => accept (.fmax (kOps w))
  | 4 => match (f3bOf w).toNat with
    | 0 => accept (.fcmp (kOps w))
    | 1 => accept (.fcvt (kOps w))
    | 2 => accept (.min (kOps w))
    | 3 => accept (.max (kOps w))
    | 4 => accept (.clz (kOps w))
    | 5 => accept (.ctz (kOps w))
    | 6 => accept (.cpop (kOps w))
    | _ => accept (.csel (kOps w))
  | 5 => match (f3bOf w).toNat with
    | 0 => accept (.loopi false (lOps w))
    | 1 => accept (.loopi true (lOps w))
    | 2 => accept (.align (lOps w))
    | 3 => accept (.rolImm (lOps w))
    | 4 => accept (.rorImm (lOps w))
    | _ => .refused .unlistedRow
  | 6 => match (f3bOf w).toNat with
    | 0 => accept (.loop (kOps w))
    | 1 => accept (.bfx (kOps w))
    | 2 => accept (.bfi (kOps w))
    | 3 => accept (.rol (kOps w))
    | 4 => accept (.ror (kOps w))
    | _ => .refused .unlistedRow
  | _ => .refused .unlistedRow
/-- The instruction a word stands for, or the reason why it is none (R60). -/
def decode (w : BitVec 32) : Decoded :=
  match (majorOf w).toNat with
  | 0x03 => decodeLoad w
  | 0x0B => custom0 w
  | 0x0F => if f3Of w = 0 then accept (.baseFence (rdOf w) (rs1Of w) (immIOf w)) else .refused .reservedBase
  | 0x13 => decodeOpImm w
  | 0x17 => accept (.baseAlu (.auipc (rdOf w) (immUOf w)))
  | 0x1B => decodeOpImm32 w
  | 0x23 => decodeStore w
  | 0x2B => custom1 w
  | 0x33 => decodeOp w
  | 0x37 => accept (.baseAlu (.lui (rdOf w) (immUOf w)))
  | 0x3B => decodeOp32 w
  | 0x5B => custom2 w
  | 0x63 => decodeBranch w
  | 0x67 => if f3Of w = 0 then accept (.jalr (rdOf w) (rs1Of w) (immIOf w)) else .refused .reservedBase
  | 0x6F => accept (.jal (rdOf w) (immJOf w))
  | 0x73 => decodeSystem w
  | 0x7B => custom3 w
  | _ =>
    if w.extractLsb' 0 2 ≠ 3 then .refused .compressed
    else if w.extractLsb' 2 3 = 7 then .refused .longEncoding
    else .refused .unusedMajor

/-- The instruction that runs when a word is fetched: a word that is no instruction runs as ILLEGAL_ENCODING (R60). -/
def decodeOrIllegal (w : BitVec 32) : Instr :=
  match decode w with
  | .ok i => i
  | .refused _ => .illegalEncoding w

/-- The decoder on a word numbered as opcode_table.json numbers it; every row with an encoding is one 32-bit word. -/
def decodeTableWord (nbits w : Nat) : Option Instr :=
  match decode (BitVec.ofNat 32 (w % 2 ^ nbits)) with
  | .ok i => some i
  | .refused _ => none

/-! ### The encoder, from the same tables -/

/-- A field of a word, placed with its least significant bit at bit `lo`. -/
def place (n : Nat) (x : BitVec n) (lo : Nat) : BitVec 32 := x.setWidth 32 <<< lo

/-- A K-format word (R62). -/
def kWord (f3b f3 major : Nat) (k : KOps) : BitVec 32 :=
  place 3 (BitVec.ofNat 3 f3b) 29 ||| place 1 (BitVec.ofBool k.e2) 28 ||| place 1 (BitVec.ofBool k.e1) 27 |||
    place 2 k.w 25 ||| place 5 k.rs2 20 ||| place 5 k.rs1 15 ||| place 3 (BitVec.ofNat 3 f3) 12 ||| place 5 k.rd 7 |||
    place 7 (BitVec.ofNat 7 major) 0

/-- An L-format word (R62). -/
def lWord (sub f3 major : Nat) (l : LOps) : BitVec 32 :=
  place 3 (BitVec.ofNat 3 sub) 29 ||| place 1 (BitVec.ofBool l.e1) 28 ||| place 8 l.imm8 20 ||| place 5 l.rs1 15 |||
    place 3 (BitVec.ofNat 3 f3) 12 ||| place 5 l.rd 7 ||| place 7 (BitVec.ofNat 7 major) 0

/-- A W-format word (R62). -/
def wWord (sub f3 major : Nat) (o : WOps) : BitVec 32 :=
  kWord sub f3 major { e2 := o.e2, e1 := o.e1, w := o.w, rs2 := o.rs2, rs1 := o.rs1, rd := o.imm5 }

/-- A P-format word of kind 0 (R62, R66). -/
def fmtWord (p : BitVec 17) : BitVec 32 := place 17 p 15 ||| 0x0000700B#32

/-- A base word with three registers. -/
def rWord (f7 : Nat) (rs2 rs1 : Reg) (f3 : Nat) (rd : Reg) (major : Nat) : BitVec 32 :=
  place 7 (BitVec.ofNat 7 f7) 25 ||| place 5 rs2 20 ||| place 5 rs1 15 ||| place 3 (BitVec.ofNat 3 f3) 12 |||
    place 5 rd 7 ||| place 7 (BitVec.ofNat 7 major) 0

/-- A base word with a 12-bit immediate in [31:20]. -/
def iWord (imm : BitVec 12) (rs1 : Reg) (f3 : Nat) (rd : Reg) (major : Nat) : BitVec 32 :=
  place 12 imm 20 ||| place 5 rs1 15 ||| place 3 (BitVec.ofNat 3 f3) 12 ||| place 5 rd 7 |||
    place 7 (BitVec.ofNat 7 major) 0

/-- A store word: the immediate in [31:25] and [11:7]. -/
def sWord (imm : BitVec 12) (rs2 rs1 : Reg) (f3 : Nat) : BitVec 32 :=
  place 7 (imm.extractLsb' 5 7) 25 ||| place 5 rs2 20 ||| place 5 rs1 15 ||| place 3 (BitVec.ofNat 3 f3) 12 |||
    place 5 (imm.extractLsb' 0 5) 7 ||| place 7 0x23#7 0

/-- A branch word: bits [12:1] of the offset in [31], [7], [30:25] and [11:8]. -/
def bWord (imm : BitVec 12) (rs2 rs1 : Reg) (f3 : Nat) : BitVec 32 :=
  place 1 (imm.extractLsb' 11 1) 31 ||| place 6 (imm.extractLsb' 4 6) 25 ||| place 5 rs2 20 ||| place 5 rs1 15 |||
    place 3 (BitVec.ofNat 3 f3) 12 ||| place 4 (imm.extractLsb' 0 4) 8 ||| place 1 (imm.extractLsb' 10 1) 7 |||
    place 7 0x63#7 0

/-- A word with an upper immediate in [31:12]. -/
def uWord (imm : BitVec 20) (rd : Reg) (major : Nat) : BitVec 32 :=
  place 20 imm 12 ||| place 5 rd 7 ||| place 7 (BitVec.ofNat 7 major) 0

/-- A jump word: bits [20:1] of the offset in [31], [19:12], [20] and [30:21]. -/
def jWord (imm : BitVec 20) (rd : Reg) : BitVec 32 :=
  place 1 (imm.extractLsb' 19 1) 31 ||| place 10 (imm.extractLsb' 0 10) 21 ||| place 1 (imm.extractLsb' 10 1) 20 |||
    place 8 (imm.extractLsb' 11 8) 12 ||| place 5 rd 7 ||| place 7 0x6F#7 0

/-- funct3 of an OP-IMM operation. -/
def ImmOp.f3 : ImmOp → Nat
  | .addi => 0 | .slti => 2 | .sltiu => 3 | .xori => 4 | .ori => 6 | .andi => 7

/-- funct3 of a shift. -/
def ShiftOp.f3 : ShiftOp → Nat
  | .sll => 1 | .srl => 5 | .sra => 5

/-- funct7 of a shift in OP-IMM-32; its upper six bits are those of OP-IMM. -/
def ShiftOp.f7 : ShiftOp → Nat
  | .sll => 0 | .srl => 0 | .sra => 32

/-- funct7 and funct3 of an OP operation. -/
def RegOp.code : RegOp → Nat × Nat
  | .add => (0, 0) | .sub => (32, 0) | .sll => (0, 1) | .slt => (0, 2) | .sltu => (0, 3)
  | .xor => (0, 4) | .srl => (0, 5) | .sra => (32, 5) | .or => (0, 6) | .and => (0, 7)

/-- funct7 and funct3 of an OP-32 operation. -/
def RegOpW.code : RegOpW → Nat × Nat
  | .addw => (0, 0) | .subw => (32, 0) | .sllw => (0, 1) | .srlw => (0, 5) | .sraw => (32, 5)

/-- The encoding of a base ALU word. -/
def BaseAlu.encode : BaseAlu → BitVec 32
  | .lui rd imm => uWord imm rd 0x37
  | .auipc rd imm => uWord imm rd 0x17
  | .opImm o rd rs1 imm => iWord imm rs1 o.f3 rd 0x13
  | .shiftImm o rd rs1 amount => iWord ((BitVec.ofNat 12 (o.f7 / 2) <<< 6) ||| amount.setWidth 12) rs1 o.f3 rd 0x13
  | .op o rd rs1 rs2 => rWord o.code.1 rs2 rs1 o.code.2 rd 0x33
  | .addiw rd rs1 imm => iWord imm rs1 0 rd 0x1B
  | .shiftImmW o rd rs1 amount => rWord o.f7 amount rs1 o.f3 rd 0x1B
  | .opW o rd rs1 rs2 => rWord o.code.1 rs2 rs1 o.code.2 rd 0x3B

/-- Major and funct3 of an M operation. -/
def MulDivOp.code : MulDivOp → Nat × Nat
  | .mul => (0x33, 0) | .mulh => (0x33, 1) | .mulhsu => (0x33, 2) | .mulhu => (0x33, 3)
  | .div => (0x33, 4) | .divu => (0x33, 5) | .rem => (0x33, 6) | .remu => (0x33, 7)
  | .mulw => (0x3B, 0) | .divw => (0x3B, 4) | .divuw => (0x3B, 5) | .remw => (0x3B, 6) | .remuw => (0x3B, 7)

/-- funct3 of a load. -/
def LoadOp.f3 : LoadOp → Nat
  | .lb => 0 | .lh => 1 | .lw => 2 | .ld => 3 | .lbu => 4 | .lhu => 5 | .lwu => 6

/-- funct3 of a store. -/
def StoreOp.f3 : StoreOp → Nat
  | .sb => 0 | .sh => 1 | .sw => 2 | .sd => 3

/-- funct3 of a branch. -/
def BranchOp.f3 : BranchOp → Nat
  | .beq => 0 | .bne => 1 | .blt => 4 | .bge => 5 | .bltu => 6 | .bgeu => 7

/-- funct3 of a Zicsr form. -/
def CsrOp.f3 : CsrOp → Nat
  | .csrrw => 1 | .csrrs => 2 | .csrrc => 3 | .csrrwi => 5 | .csrrsi => 6 | .csrrci => 7

/-- The word of an instruction. A machine event has none. -/
def encode : Instr → Option (BitVec 32)
  | .baseAlu op => some op.encode
  | .baseMulDiv op rd rs1 rs2 => some (rWord 1 rs2 rs1 op.code.2 rd op.code.1)
  | .baseLoad op rd rs1 imm => some (iWord imm rs1 op.f3 rd 0x03)
  | .baseStore op rs1 rs2 imm => some (sWord imm rs2 rs1 op.f3)
  | .baseBranch op rs1 rs2 imm => some (bWord imm rs2 rs1 op.f3)
  | .jal rd imm => some (jWord imm rd)
  | .jalr rd rs1 imm => some (iWord imm rs1 0 rd 0x67)
  | .baseFence rd rs1 imm => some (iWord imm rs1 0 rd 0x0F)
  | .ecall => some 0x00000073#32
  | .ebreak => some 0x00100073#32
  | .zicsr op rd rs1 csr => some (iWord csr rs1 op.f3 rd 0x73)
  | .illegalEncoding w => some w
  | .vaddF k => some (kWord 0 0 0x0B k)
  | .vsubF k => some (kWord 1 0 0x0B k)
  | .vmulF k => some (kWord 2 0 0x0B k)
  | .vfma k => some (kWord 3 0 0x0B k)
  | .vfms k => some (kWord 4 0 0x0B k)
  | .vminF k => some (kWord 5 0 0x0B k)
  | .vmaxF k => some (kWord 6 0 0x0B k)
  | .vabsF k => some (kWord 7 0 0x0B k)
  | .vrcp k => some (kWord 7 0 0x0B k)
  | .vrsq k => some (kWord 7 0 0x0B k)
  | .vexp2 k => some (kWord 7 0 0x0B k)
  | .vlog2 k => some (kWord 7 0 0x0B k)
  | .vaddI k => some (kWord 0 1 0x0B k)
  | .vsubI k => some (kWord 1 1 0x0B k)
  | .vmulI k => some (kWord 2 1 0x0B k)
  | .vminI k => some (kWord 3 1 0x0B k)
  | .vmaxI k => some (kWord 4 1 0x0B k)
  | .vminN k => some (kWord 5 1 0x0B k)
  | .vmaxN k => some (kWord 6 1 0x0B k)
  | .vabsI k => some (kWord 7 1 0x0B k)
  | .vcmpEqF k => some (kWord 0 2 0x0B k)
  | .vcmpNeF k => some (kWord 1 2 0x0B k)
  | .vcmpLtF k => some (kWord 2 2 0x0B k)
  | .vcmpLeF k => some (kWord 3 2 0x0B k)
  | .vredF k => some (kWord 4 2 0x0B k)
  | .vtopk k => some (kWord 5 2 0x0B k)
  | .vgth k => some (kWord 6 2 0x0B k)
  | .vsct k => some (kWord 7 2 0x0B k)
  | .vcmpEqI k => some (kWord 0 3 0x0B k)
  | .vcmpNeI k => some (kWord 1 3 0x0B k)
  | .vcmpLtI k => some (kWord 2 3 0x0B k)
  | .vcmpLeI k => some (kWord 3 3 0x0B k)
  | .vcmpLtN k => some (kWord 4 3 0x0B k)
  | .vcmpLeN k => some (kWord 5 3 0x0B k)
  | .vredI k => some (kWord 6 3 0x0B k)
  | .vand k => some (kWord 0 4 0x0B k)
  | .vor k => some (kWord 1 4 0x0B k)
  | .vxor k => some (kWord 2 4 0x0B k)
  | .vsel k => some (kWord 3 4 0x0B k)
  | .vshl k => some (kWord 4 4 0x0B k)
  | .vshr k => some (kWord 5 4 0x0B k)
  | .vsra k => some (kWord 6 4 0x0B k)
  | .vsclCompute k => some (kWord 7 4 0x0B k)
  | .vsclApply k => some (kWord 7 4 0x0B k)
  | .vperm k => some (kWord 0 5 0x0B k)
  | .vbcast k => some (kWord 1 5 0x0B k)
  | .vext k => some (kWord 2 5 0x0B k)
  | .vins k => some (kWord 3 5 0x0B k)
  | .viota k => some (kWord 4 5 0x0B k)
  | .vcvt k => some (kWord 5 5 0x0B k)
  | .vpack k => some (kWord 6 5 0x0B k)
  | .vunpk k => some (kWord 7 5 0x0B k)
  | .vld l => some (lWord 0 6 0x0B l)
  | .vst l => some (lWord 1 6 0x0B l)
  | .fmt p => some (fmtWord p)
  | .mzero k => some (kWord 0 0 0x2B k)
  | .mlb k => some (kWord 1 0 0x2B k)
  | .mring k => some (kWord 2 0 0x2B k)
  | .mpass k => some (kWord 3 0 0x2B k)
  | .mld k => some (kWord 4 0 0x2B k)
  | .mst k => some (kWord 5 0 0x2B k)
  | .mgeo k => some (kWord 6 0 0x2B k)
  | .mmaReg k => some (kWord 0 1 0x2B k)
  | .mmaImm latch l => some (lWord (if latch then 1 else 0) 2 0x2B l)
  | .cpy k => some (kWord 0 4 0x2B k)
  | .xfer k => some (kWord 1 4 0x2B k)
  | .cpyw k => some (kWord 2 4 0x2B k)
  | .cpyq k => some (kWord 3 4 0x2B k)
  | .cpystop k => some (kWord 4 4 0x2B k)
  | .launch k => some (kWord 0 6 0x2B k)
  | .lstat k => some (kWord 1 6 0x2B k)
  | .lkill k => some (kWord 2 6 0x2B k)
  | .eitem k => some (kWord 3 6 0x2B k)
  | .econ k => some (kWord 4 6 0x2B k)
  | .estat k => some (kWord 5 6 0x2B k)
  | .sresume k => some (kWord 0 7 0x2B k)
  | .skill k => some (kWord 1 7 0x2B k)
  | .sqkill k => some (kWord 2 7 0x2B k)
  | .tlbinv k => some (kWord 3 7 0x2B k)
  | .dpitset k => some (kWord 4 7 0x2B k)
  | .trc k => some (kWord 5 7 0x2B k)
  | .dmark k => some (kWord 6 7 0x2B k)
  | .send k => some (kWord 0 0 0x5B k)
  | .sendr k => some (kWord 1 0 0x5B k)
  | .reply k => some (kWord 2 0 0x5B k)
  | .hen k => some (kWord 3 0 0x5B k)
  | .hdis k => some (kWord 4 0 0x5B k)
  | .hpend k => some (kWord 5 0 0x5B k)
  | .hclr k => some (kWord 6 0 0x5B k)
  | .hhdr k => some (kWord 7 0 0x5B k)
  | .susp k => some (kWord 0 1 0x5B k)
  | .yield k => some (kWord 1 1 0x5B k)
  | .spawn k => some (kWord 2 1 0x5B k)
  | .join k => some (kWord 3 1 0x5B k)
  | .exit k => some (kWord 4 1 0x5B k)
  | .gld sub l => some (lWord sub.toNat 2 0x5B l)
  | .gvld l => some (lWord 7 2 0x5B l)
  | .gst sub o => some (wWord sub.toNat 3 0x5B o)
  | .gvst o => some (wWord 4 3 0x5B o)
  | .nmnew k => some (kWord 0 4 0x5B k)
  | .nmres k => some (kWord 1 4 0x5B k)
  | .nmcas k => some (kWord 2 4 0x5B k)
  | .nmkill k => some (kWord 3 4 0x5B k)
  | .nmld k => some (kWord 4 4 0x5B k)
  | .nmst k => some (kWord 5 4 0x5B k)
  | .nmstat k => some (kWord 6 4 0x5B k)
  | .twld k => some (kWord 0 5 0x5B k)
  | .twadd k => some (kWord 1 5 0x5B k)
  | .twset k => some (kWord 2 5 0x5B k)
  | .twarm k => some (kWord 3 5 0x5B k)
  | .twdis k => some (kWord 4 5 0x5B k)
  | .twpred k => some (kWord 5 5 0x5B k)
  | .lawset k => some (kWord 6 5 0x5B k)
  | .lawget k => some (kWord 7 5 0x5B k)
  | .qbind k => some (kWord 0 6 0x5B k)
  | .qrd k => some (kWord 1 6 0x5B k)
  | .qrdv k => some (kWord 2 6 0x5B k)
  | .qstat k => some (kWord 3 6 0x5B k)
  | .waitv k => some (kWord 4 6 0x5B k)
  | .gpf k => some (kWord 5 6 0x5B k)
  | .mhint k => some (kWord 6 6 0x5B k)
  | .mqry k => some (kWord 7 6 0x5B k)
  | .tbadv k => some (kWord 0 7 0x5B k)
  | .amoAdd k => some (kWord 0 0 0x7B k)
  | .amoMin k => some (kWord 1 0 0x7B k)
  | .amoMax k => some (kWord 2 0 0x7B k)
  | .amoAnd k => some (kWord 3 0 0x7B k)
  | .amoOr k => some (kWord 4 0 0x7B k)
  | .amoXor k => some (kWord 5 0 0x7B k)
  | .amoSwap k => some (kWord 6 0 0x7B k)
  | .amocas k => some (kWord 7 0 0x7B k)
  | .red k => some (kWord 0 1 0x7B k)
  | .fen k => some (kWord 1 1 0x7B k)
  | .own k => some (kWord 2 1 0x7B k)
  | .ownw k => some (kWord 3 1 0x7B k)
  | .barjoin k => some (kWord 0 2 0x7B k)
  | .barinit k => some (kWord 1 2 0x7B k)
  | .bararr k => some (kWord 2 2 0x7B k)
  | .barwait k => some (kWord 3 2 0x7B k)
  | .baraw k => some (kWord 4 2 0x7B k)
  | .bardrop k => some (kWord 5 2 0x7B k)
  | .barinv k => some (kWord 6 2 0x7B k)
  | .grp k => some (kWord 7 2 0x7B k)
  | .fadd k => some (kWord 0 3 0x7B k)
  | .fsub k => some (kWord 1 3 0x7B k)
  | .fmul k => some (kWord 2 3 0x7B k)
  | .fma k => some (kWord 3 3 0x7B k)
  | .fdiv k => some (kWord 4 3 0x7B k)
  | .fsqrt k => some (kWord 5 3 0x7B k)
  | .fmin k => some (kWord 6 3 0x7B k)
  | .fmax k => some (kWord 7 3 0x7B k)
  | .fcmp k => some (kWord 0 4 0x7B k)
  | .fcvt k => some (kWord 1 4 0x7B k)
  | .min k => some (kWord 2 4 0x7B k)
  | .max k => some (kWord 3 4 0x7B k)
  | .clz k => some (kWord 4 4 0x7B k)
  | .ctz k => some (kWord 5 4 0x7B k)
  | .cpop k => some (kWord 6 4 0x7B k)
  | .csel k => some (kWord 7 4 0x7B k)
  | .loopi k l => some (lWord (if k then 1 else 0) 5 0x7B l)
  | .align l => some (lWord 2 5 0x7B l)
  | .rolImm l => some (lWord 3 5 0x7B l)
  | .rorImm l => some (lWord 4 5 0x7B l)
  | .loop k => some (kWord 0 6 0x7B k)
  | .bfx k => some (kWord 1 6 0x7B k)
  | .bfi k => some (kWord 2 6 0x7B k)
  | .rol k => some (kWord 3 6 0x7B k)
  | .ror k => some (kWord 4 6 0x7B k)
  | .fetchLineDelivery _ => none
  | .tableWalk _ _ _ => none
  | .watchdog _ => none
  | .trapRingEntry _ => none
  | .mmaStep _ => none
  | .latchTransferArrival _ _ _ => none
  | .shadowApply _ _ _ => none
  | .engineCommandStart _ => none
  | .engineRow _ => none
  | .chunkArrival _ => none
  | .suspensionCommit _ => none
  | .exitCommit _ => none
  | .implicitDrop _ => none
  | .alignRelease _ => none
  | .handlerMessage _ => none
  | .handlerDispatch _ => none
  | .messageDeparture _ => none
  | .registerReply _ => none
  | .resume _ => none
  | .spawnMessage _ => none
  | .exitReport _ => none
  | .launchStart _ => none
  | .crossing _ => none
  | .copyArrival _ => none
  | .estimatorItem _ => none
  | .trapReport _ => none
  | .errorNotice _ => none
  | .peerDownNotice _ => none
  | .readRequest _ => none
  | .writeRequest _ => none
  | .writeRelease _ => none
  | .writeSc _ => none
  | .prefetchRequest _ => none
  | .watchRequest _ => none
  | .watchSpillReread _ => none
  | .readReply _ => none
  | .writeAcknowledgement _ => none
  | .atomicRequest _ => none
  | .reductionRequest _ => none
  | .barrierOperation _ => none
  | .nearMemoryReply _ => none
  | .tensedRequest _ => none
  | .tensedReply _ => none
  | .hubRequest _ => none
  | .hubReply _ => none
  | .nameRequest _ => none
  | .nameReply _ => none
  | .shootDown _ => none
  | .shootDownDrain _ _ _ => none
  | .nameOperationCommit _ _ => none
  | .nameBlockReservation => none
  | .hintRequest _ => none
  | .queryRequest _ => none
  | .queryReply _ => none
  | .estimatorRequest _ => none
  | .estimatorHandout _ => none
  | .estimatorStop _ => none
  | .deliveryWindowClose _ => none
  | .forwardingEntryWrite _ => none
  | .alarm _ => none
  | .sweepTouch _ => none
  | .budgetChargeReport _ _ => none
  | .budgetCrossing _ => none
  | .contextSave _ _ => none
  | .dispatchDecision _ _ => none
  | .launchExpiryScan _ _ => none
  | .launchCompletion _ => none
  | .pageMove _ _ => none
  | .moveBeginNotice _ _ => none
  | .moveCopy _ => none
  | .heatWriteback _ => none
  | .trackerPeriod => none
  | .patrolScrub _ _ => none
  | .fabricCombine _ _ => none
  | .contributorWithdrawal _ _ => none
  | .peerDownEvent _ _ => none
  | .tlbInvalidation _ _ => none
  | .machineCheckRecord _ => none
  | .hostEnqueue _ _ _ => none
  | .pcmdAssign _ => none
  | .pcmdRelease _ => none
  | .pcmdMerge _ => none
  | .pcmdShrink _ => none
  | .vfReset _ => none
  | .nametabWrite _ => none
  | .smapnWrite _ => none
  | .klawWrite _ => none
  | .namecmdNew => none
  | .namecmdCas => none
  | .namecmdKill => none
  | .wincmdDeclare _ => none
  | .wincmdRedeclare _ => none
  | .wincmdRemove _ => none
  | .mgmtRegisterWrite _ _ => none
  | .debugHaltreq _ => none
  | .debugResume _ => none
  | .debugStep _ _ _ => none
  | .triggerLinePulse _ => none
  | .lossTableClear _ => none
  | .traceSample _ => none
  | .traceSegmentSeal => none
  | .packageReset => none
  | .mgmtResetCommand _ => none
  | .mgmtConfigurationWrite _ => none
  | .mgmtAttestationRequest _ => none
  | .bootImageFetch _ => none
  | .entropyHealthFailure => none
  | .powerSample _ _ => none
  | .linkRetryExhausted _ => none
  | .entropySourceRecovery => none
  | .peerReturn _ => none
  | .storageCompletion => none

/-- The word of an instruction, as `kaddr` takes it (R74); 0 for an event, which has no word. -/
def wordOf (i : Instr) : BitVec 32 := (encode i).getD 0

end Sys2Proof
end

