-- ==== Sys2Proof/Config.lean ====
section
/-!
DEFINITION. What the spec leaves to the part or to the moment: opaque constants without a body, so that no proof can see a
value of them, and the fixed sizes of the package. `State.draws` counts the draws, so each draw is a fresh value.
-/
namespace Sys2Proof.Config

/-- Fresh entropy, by draw (05_scalar.md R81, 26_platform.md R452). Free value, log 10. -/
opaque entropy : Nat → BitVec 64

/-- Chip ids from this one on are never assigned (01_machine.md R12). -/
def firstUnassignedChip : Nat := 786432

/-- Clusters, cores and slots of KB7-4096-LQ (00_scope.md R1). -/
def clusterCount : Nat := 512
def coreCount : Nat := 4096

/-- The first core number of the sixteen management cores (log 6). -/
def firstMgmtCore : Nat := 4096

/-- Far requests a slot may have outstanding (11_memory_access.md R201). -/
def farLimit : Nat := 32

/-- Entries of a forwarding table (14_ordering.md R248). -/
def fwdLimit : Nat := 16

/-- Messages an outbound queue holds (06_messages.md R104). -/
def outLimit : Nat := 16

/-- Messages a context's share of a core's inbound store holds (06_messages.md R104, 24_system.md R422). -/
def shareLimit : Nat := 128

/-- Which free record index a clause receives, by draw (06_messages.md R111). Free value, log 14. -/
opaque recordIndex : Nat → Nat

/-- The size code a controller chooses for a granule of HBM, by granule and number of writes of it since reset (12_main_memory.md R232).
Free value, log 7. -/
opaque sizeCode : Nat → Nat → BitVec 2

/-- The SEC-DED check bits of an atom's 256 data bits and its bits [5:2] of side-band (12_main_memory.md R233). Free value, log 7. -/
opaque checkBits : BitVec 256 → BitVec 4 → BitVec 10

/-- The inputs of a capture that a replay reads from the storage port, by unit and number; none where the capture has no entry of the
kind asked for (25_debug.md R443). Free value, log 18. -/
opaque captured : Nat → Nat → Option (BitVec 64)

/-- The signature of a boot image verifies under the vendor key fused in the package (26_platform.md R449). Free
value, log 19. -/
opaque imageGenuine : List (BitVec 8) → Bool

/-- The signature of a management frame verifies under the authority key of a boot configuration record: record, signed bytes,
signature (26_platform.md R450). Free value, log 19. -/
opaque frameSigned : List (BitVec 8) → List (BitVec 8) → List (BitVec 8) → Bool

/-- The signature of the device key over bytes (26_platform.md R451). Free value, log 19. -/
opaque deviceSign : List (BitVec 8) → List (BitVec 8)

/-- The die temperature in °C above which the power controller lowers the clock (26_platform.md R453). Free value, log 20. -/
opaque tempLimit : Nat

/-- The capture that begins at an LBA is complete (25_debug.md R443). Free value, log 18. -/
opaque captureComplete : BitVec 64 → Bool

/-- No route to a chip remains once the ports listed are lost (24_system.md R427, 26_platform.md R454). Free value, log 22. -/
opaque routeless : List Nat → Nat → Bool

/-- What lost memories and tiles hold, by draw and by memory address or cell (24_system.md R418). Free value, log 27. -/
opaque lost : Nat → Nat → BitVec 32

/-- The blocks of the storage device that a trace segment takes in the ring of LBAs (25_debug.md R441). Free value, log 113. -/
opaque segmentBlocks : Nat

/-- Streams a cluster copy engine holds (11_memory_access.md R209). -/
def streamLimit : Nat := 64

/-- Entries of a core's translation cache (11_memory_access.md R198). -/
def tlbLimit : Nat := 256

end Sys2Proof.Config
end

