-- ==== Sys2Proof/Machine/Bits.lean ====
section
/-!
DEFINITION. Bit fields of numbers and words (00_scope.md R3: a field [hi:lo] is inclusive at both ends).
-/
namespace Sys2Proof.Machine

/-- The field of n bits of a number from bit lo up. -/
def bitsOf (v lo n : Nat) : Nat := v / 2 ^ lo % 2 ^ n

/-- One bit of a number. -/
def bitOf (v i : Nat) : Bool := v / 2 ^ i % 2 == 1

/-- The field of n bits of a word from bit lo up, as a number. -/
def fld (w : Word) (lo n : Nat) : Nat := bitsOf w.toNat lo n

/-- One bit of a word. -/
def bit (w : Word) (i : Nat) : Bool := bitOf w.toNat i

/-- A number with the field of n bits from bit lo replaced. -/
def withBits (v lo n x : Nat) : Nat := v - bitsOf v lo n * 2 ^ lo + x % 2 ^ n * 2 ^ lo

/-- A word with the field of n bits from bit lo replaced. -/
def withFld (w : Word) (lo n x : Nat) : Word := word (withBits w.toNat lo n x)

/-- The low n bits of a number, read as two's complement. -/
def sext (v n : Nat) : Int := if bitOf v (n - 1) && n != 0 then (bitsOf v 0 n : Int) - 2 ^ n else bitsOf v 0 n

/-- The word of an integer modulo 2^64. -/
def wordInt (i : Int) : Word := BitVec.ofInt 64 i

/-- The low n bits of an integer. -/
def lowBits (i : Int) (n : Nat) : Nat := (i % (2 ^ n : Nat)).toNat

/-- The smaller of two numbers. -/
def least (a b : Nat) : Nat := if a ≤ b then a else b

/-- The larger of two numbers. -/
def greatest (a b : Nat) : Nat := if a ≤ b then b else a

end Sys2Proof.Machine
end

