-- ==== Sys2Proof/Machine/Sparse.lean ====
section
/-!
DEFINITION. A table that lists its entries by a number: the registers of a slot, the slots of the package, the channels of a
context. A key that is not listed reads as the default the caller names, so a table of 16,384 slots is short after reset.
-/
namespace Sys2Proof.Machine

/-- A table from numbers to values, listed by rising key. -/
abbrev Tab (α : Type) := List (Nat × α)

/-- The entry of a key, or the default. -/
def Tab.get {α : Type} : Tab α → Nat → α → α
  | [], _, d => d
  | (a, v) :: t, k, d => if k = a then v else Tab.get t k d

/-- The entry of a key, if the table lists one. -/
def Tab.find {α : Type} : Tab α → Nat → Option α
  | [], _ => none
  | (a, v) :: t, k => if k = a then some v else Tab.find t k

/-- The table with one entry replaced or added. -/
def Tab.set {α : Type} : Tab α → Nat → α → Tab α
  | [], k, v => [(k, v)]
  | (a, w) :: t, k, v => if k = a then (k, v) :: t else if k < a then (k, v) :: (a, w) :: t else (a, w) :: Tab.set t k v

/-- The table without an entry. -/
def Tab.del {α : Type} : Tab α → Nat → Tab α
  | [], _ => []
  | (a, w) :: t, k => if k = a then Tab.del t k else (a, w) :: Tab.del t k

/-- The table with every entry that fails a test dropped. -/
def Tab.keep {α : Type} (t : Tab α) (p : Nat → α → Bool) : Tab α := t.filter fun e => p e.1 e.2

theorem Tab.get_set_same {α : Type} (t : Tab α) (k : Nat) (v d : α) : (Tab.set t k v).get k d = v := by
  induction t with
  | nil => simp [Tab.set, Tab.get]
  | cons e t ih =>
    obtain ⟨a, w⟩ := e
    unfold Tab.set
    split
    · simp [Tab.get]
    · split
      · simp [Tab.get]
      · simp [Tab.get, *]

theorem Tab.get_set_other {α : Type} (t : Tab α) (k j : Nat) (v d : α) (h : j ≠ k) :
    (Tab.set t k v).get j d = Tab.get t j d := by
  induction t with
  | nil => simp [Tab.set, Tab.get, h]
  | cons e t ih =>
    obtain ⟨a, w⟩ := e
    unfold Tab.set
    split
    · rename_i hk; subst hk; simp [Tab.get, h]
    · split
      · simp [Tab.get, h]
      · simp [Tab.get, ih]

end Sys2Proof.Machine
end

