-- ==== Sys2Proof/Machine/State.lean ====
section
/-!
DEFINITION. The state of one Brixbin package as plain data, its reset value, and the reasons a step can stop. Every piece of
state the spec names is a field; INVENTORY.md lists them with their rules and reset values. Tables list only what is not at
its reset value: an unlisted slot, core, context, channel or register reads as the default of its structure.
-/
namespace Sys2Proof.Machine

/-- Why the machine stops with a fault. No meaning raises one: every cause the spec names is a trap the machine takes, and
every error of memory is a status that an instruction receives. The one constructor stands for a machine that the spec says
does not exist, and no step answers with it. Safe. -/
inductive Fault where
  /-- Raised by nothing. -/
  | none
  deriving DecidableEq, Repr

/-- Why the model gives no meaning. -/
inductive Refusal where
  /-- Raised by an arm of `exec` whose instruction has no meaning in the model yet. Safe: it stops the run. -/
  | notModelled (mnemonic : String)
  deriving DecidableEq, Repr

/-! ### Slots -/

/-- The full/empty state of a register (04_encoding.md R65): full, empty while a reply is due, or full with a marker that
raises a cause when read (11_memory_access.md R202), which holds the address the marker names. A faulty register is full with bits that
fail their parity at every read until it is written (04_encoding.md R74, 26_platform.md R454). -/
inductive Mark where
  | full
  | empty
  | marked (cause : Nat) (addr : Word)
  | faulty
  deriving DecidableEq, Repr

/-- What a far request of a slot is for. -/
inductive FarUse where
  /-- The reply fills an `x` register with the low `size` bytes, sign-extended or not; `count` registers for a pair. -/
  | fillX (rd : Nat) (size count : Nat) (signed : Bool)
  /-- The reply fills a `v` register. -/
  | fillV (rd : Nat)
  /-- A posted store, reduction, tensed update or name-relative store, acknowledged later. -/
  | posted
  /-- A part of the blocking instruction at which the slot stands. -/
  | blocking
  deriving DecidableEq, Repr

/-- A far request that is not yet answered (11_memory_access.md R201). -/
structure Far where
  /-- Binding generation of the clause that sent it, and its sequence number (06_messages.md R103, R118). -/
  gen   : Nat
  seq   : BitVec 32
  kind  : Nat
  va    : Word
  ga    : Word
  unit  : Nat
  chip  : BitVec 20
  use   : FarUse
  /-- The name a name-relative access holds in flight (19_names.md R333). -/
  name  : Option (BitVec 128) := none
  /-- The context of the clause that sent it, its launch, and the delivery window in which it was sent. -/
  ctx   : Nat := 0
  launch : Nat := 0
  window : Nat := 0
  deriving DecidableEq, Repr

/-- A register reply that a `sendr` asked for (06_messages.md R125): the generation, the destination group, and the descriptor. -/
structure Ask where
  gen   : Nat
  ctx   : Nat
  vec   : Bool
  reg   : Nat
  count : Nat
  desc  : Word
  deriving DecidableEq, Repr

/-- An entry of the forwarding table (14_ordering.md R248): bytes on their way to another core's stripe, by cluster address. -/
structure Fwd where
  addr  : Nat
  bytes : List Byte
  deriving DecidableEq, Repr

/-- A far line of a tile (10_matrix.md R186): its virtual and global address, home and chip, and for a store the line as a
number with the mask of the bytes it writes. -/
structure LineReq where
  va   : Word
  ga   : Word
  unit : Nat
  chip : BitVec 20
  data : Nat := 0
  mask : Nat := 0
  deriving DecidableEq, Repr

/-- The blocking instruction at which a slot stands while requests of it are out. -/
inductive Block where
  /-- A base load (05_scalar.md R77). -/
  | load (rd size : Nat) (signed : Bool)
  /-- A base store, `vst`, `vsct` or far `mst` that waits for its acknowledgements. -/
  | store
  /-- `vld` (07_vector.md R147). -/
  | vload (rd : Nat)
  /-- `vgth`: the element addresses and the element width in bytes (R148). -/
  | gather (rd bytes : Nat) (addrs : List Nat)
  /-- A far `mld` (10_matrix.md R186): tile, address, cell format and mask, whether it claimed the tile, and the lines not yet
  requested. -/
  | tileLoad (tile : Nat) (addr : Word) (fmt : Nat) (mask : Word) (fresh : Bool) (rest : List LineReq)
  /-- A far `mst`: tile, the flags its rounding raised, and the lines not yet written. -/
  | tileStore (tile : Nat) (flags : BitVec 5) (rest : List LineReq)
  /-- A near-memory operation that answers an `x` register: a barrier operation, or `amo` of a barrier form. -/
  | barrier (op rd : Nat) (name : BitVec 128) (operand : Word)
  /-- A blocking hub request: `launch`, `lstat`, `lkill` or `lawset`. -/
  | hub (op rd : Nat)
  /-- A copy or transfer command's read of its descriptor or guard word (20_copy.md R355, R362). -/
  | descriptor
  /-- A blocking name operation (19_names.md R338 to R342). -/
  | name (op rd : Nat) (name : BitVec 128) (args : List Word)
  /-- A name resolution that an instruction made (19_names.md R331): the instruction runs again when it has succeeded; a failure
  raises its cause, or for `nmres` marks the register given. -/
  | resolve (name : BitVec 128) (mark : Option Nat)
  /-- The reads of `grp` (15_sync.md R289): destination, group, rank, table address, and whether the entry has come. -/
  | group (rd g : Nat) (r : Word) (base : Word) (entry : Bool)
  /-- An estimator request (22_launch_estimate.md R395 to R397). -/
  | estimator (op rd : Nat)
  /-- `tlbinv` or `dpitset`, which wait for the units that acknowledge (24_system.md R412, R414). -/
  | system (op rd : Nat)
  deriving DecidableEq, Repr

/-- What holds the instruction at a slot's program counter. -/
inductive Wait where
  | none
  /-- Blocking requests are out; `got` holds the address and the words of each reply that came. -/
  | blocked (b : Block) (left : Nat) (got : List (Nat × List Word))
  /-- Accepted matrix steps still run (10_matrix.md R188): tile of step 0, A offset in the operand store, latch, count, format
  payload, and whether the first step has begun. -/
  | mma (tile : Nat) (addr : Nat) (latch count : Nat) (fmt : BitVec 17) (begun : Bool)
  /-- A ring pass or `mpass` copy waits for its latch and the receiver's shadow (R190, R191): latch, receiving core, count of
  passes, and whether it is `mring`. -/
  | ring (latch dstCore count : Nat) (passes : Bool)
  /-- Held at `align` since a cycle count (05_scalar.md R94). -/
  | align (since timeout : Nat)
  deriving DecidableEq, Repr

/-- What a suspended clause waits for. -/
inductive SuspKind where
  | susp
  | yield
  /-- `join` with its destination and fold code (06_messages.md R131). -/
  | join (rd code : Nat)
  /-- `waitv` with its destination and address (11_memory_access.md R213). -/
  | waitv (rd : Nat) (va : Word) (acquire : Bool) (ga : Word) (unit : Nat) (chip : BitVec 20) (comparand : Word)
  /-- A waiting barrier operation: f3b, destination, name, object address and operand (15_sync.md R283, R284). -/
  | barrier (op rd : Nat) (name : BitVec 128) (ga : Word) (unit : Nat) (chip : BitVec 20) (operand : Word)
  deriving DecidableEq, Repr

/-- Where a slot stands. -/
inductive Phase where
  /-- No clause is bound. -/
  | free
  /-- A clause is bound and runs. -/
  | running
  /-- A trap froze the slot (05_scalar.md R97). -/
  | frozen
  /-- A suspension waits for its acknowledgements and the forwarding table (06_messages.md R112). -/
  | suspending (k : SuspKind)
  /-- `exit` or a kill waits for the same and for the implicit drops (R132, 11_memory_access.md R203, 15_sync.md R286). -/
  | exiting (result : Word) (lost : Bool)
  deriving DecidableEq, Repr

/-- A near `gld` or `gvld` whose destination is empty until the near latency has passed (11_memory_access.md R205, R207): the
file and register, the value that fills it, and the core cycles left. -/
structure NearFill where
  vec   : Bool
  reg   : Nat
  value : VWord
  left  : Nat
  deriving DecidableEq, Repr

/-- A 64-byte fetch line (05_scalar.md R93): its virtual line address, address-space id, bytes as a bit string, and whether
it holds a poisoned atom (12_main_memory.md R235). -/
structure Line where
  va       : Word
  asid     : Nat
  data     : VWord
  poisoned : Bool := false
  deriving DecidableEq, Repr

/-- A barrier registration of a clause (15_sync.md R278): the name and the participant number, with the object's global
address and home unit, which an implicit drop needs (R286). -/
structure Registration where
  name     : BitVec 128 := 0
  number   : Nat := 0
  ga       : Word := 0
  unit     : Nat := 0
  deriving DecidableEq, Repr

/-- The clause bound to a slot (06_messages.md R108 to R117): the context it runs in, its launch, originating channel and
priority, HOMED, its record (core and index) once it has one, its parent link and spawn ordinal, the header `hhdr` reads,
its code region, its barrier registrations, and what loss accounting keeps of it (25_debug.md R438). -/
structure Clause where
  ctx      : Nat := 0
  launch   : Nat := 0
  chan     : BitVec 8 := 0
  prio     : Nat := 0
  homed    : Bool := false
  recCore  : Nat := 0
  recIdx   : Option Nat := none
  parent   : Word := 0
  ordinal  : BitVec 32 := 0
  header   : List Word := [0, 0, 0, 0]
  codeBase : Word := 0
  codeSize : Nat := 0
  regs     : List Registration := []
  /-- The index of a start clause (22_launch_estimate.md R375). -/
  start    : Option Nat := none
  /-- The message that bound the clause, if the loss table accounts it: its key, whether a device or a remote package sent
  it, and its send and arrival times; and the time at which the clause was bound. -/
  account  : Option (BitVec 32 × Bool × Bool × BitVec 32 × BitVec 32) := none
  bound    : BitVec 32 := 0
  deriving DecidableEq, Repr

/-- The state of one slot. -/
structure Slot where
  /-- The x registers that are not 0 (R65). -/
  x       : Tab Word := []
  /-- The v registers that are not 0 (07_vector.md R135). -/
  v       : Tab VWord := []
  /-- Full/empty state of the x registers. -/
  xm      : Tab Mark := []
  /-- Full/empty state of the v registers. -/
  vm      : Tab Mark := []
  /-- Stream bindings q0 to q7: a stream id, 0 for none (11_memory_access.md R211). -/
  q       : Tab Word := []
  /-- kstat (05_scalar.md R82). -/
  kstat   : Word := 0
  kprog   : Word := 0
  kloop0  : Word := 0
  kls0    : Word := 0
  kle0    : Word := 0
  kloop1  : Word := 0
  kls1    : Word := 0
  kle1    : Word := 0
  /-- Pending prefix payload (04_encoding.md R66). -/
  kpfx    : BitVec 17 := 0
  kcause  : Word := 0
  kaddr   : Word := 0
  kepc    : Word := 0
  kwdog   : Word := 0
  kpath   : Word := 0
  kseq    : Word := 0
  pc      : Word := 0
  /-- Cycles the clause has occupied the slot (05_scalar.md R96). -/
  cycles  : Nat := 0
  phase   : Phase := .free
  wait    : Wait := .none
  clause  : Clause := {}
  /-- Binding generation and the replies owed under each value (06_messages.md R103). -/
  gen     : Nat := 0
  owed    : Tab Nat := []
  trapNo  : BitVec 32 := 0
  line    : Option Line := none
  /-- A request to the shared fetch port is out (05_scalar.md R93). -/
  fetching : Bool := false
  /-- The package that a line is read from, while its reply is due. -/
  fetchFar : Option (BitVec 20) := none
  /-- An invalidation has dropped the translation of that line: it is asked for afresh when it comes (24_system.md R412). -/
  fetchDropped : Bool := false
  fwd     : List Fwd := []
  far     : List Far := []
  /-- Near loads whose latency runs (11_memory_access.md R207). -/
  nearFills : List NearFill := []
  asks    : List Ask := []
  /-- A fence whose wait the next instruction takes: kind and scope (14_ordering.md R250). -/
  fence   : Option (Nat × Nat) := none
  /-- A trap report held for a full trap ring: its payload (24_system.md R406). -/
  ringReport : Option (List Word) := none
  /-- The binding and attribute word of the remote name that the instruction has resolved (19_names.md R335). -/
  resolved : Option (BitVec 128 × Word × Word) := none
  /-- The descriptor that a copy or transfer command has read, with its count as a ninth word, and a tenth once it has been checked
  (20_copy.md R362); or the requests that a `tlbinv` waits for (24_system.md R412). -/
  fetched : List Word := []
  /-- The tiles that a streaming command owns while it waits for a queue entry (20_copy.md R362). -/
  heldTiles : List Nat := []
  /-- The next instruction skips breakpoint checks (25_debug.md R433, R434). -/
  skipBreak : Bool := false
  deriving DecidableEq, Repr

/-! ### Cores and contexts -/

/-- A channel of a context (06_messages.md R105, R108, R109): its bits, its queue, the copy of its handler entry, and the age
state of its dispatch. `seen` and `seenPending` are the bits that a reproducible launch's dispatch sees in its window (R122). -/
structure Chan where
  pending : Bool := false
  enable  : Bool := false
  queue   : List Msg := []
  entry   : Word := 0
  seen    : Bool := false
  seenPending : Bool := false
  age     : Nat := 0
  boost   : Nat := 0
  aged    : Option Nat := none
  deriving DecidableEq, Repr

/-- What an item of a runnable pool is. -/
inductive PoolKind where
  /-- A clause whose record (core, index) was resumed (R113). -/
  | resumed (core index : Nat)
  /-- A spawned child (R130). -/
  | child
  /-- A handler message of a channel, in the sorted list of a reproducible launch's window (R122). -/
  | channel (c : Nat)
  deriving DecidableEq, Repr

/-- An item of a runnable pool (R109) with the message that made it runnable. -/
structure PoolItem where
  kind  : PoolKind
  msg   : Msg
  prio  : Nat
  age   : Nat := 0
  boost : Nat := 0
  aged  : Option Nat := none
  deriving DecidableEq, Repr

/-- The state of a clause record (R112, R113). -/
inductive RecState where
  | free
  | running
  | suspended
  | runnable
  /-- The clause was killed and its implicit drops are not yet acknowledged (15_sync.md R286). -/
  | ending
  deriving DecidableEq, Repr

/-- The family entry of a clause (R117). -/
structure Family where
  parent   : Word := 0
  spawned  : BitVec 32 := 0
  joinBase : BitVec 32 := 0
  arrived  : Word := 0
  lost     : Word := 0
  results  : Tab Word := []
  deriving DecidableEq, Repr

/-- A clause record (R110) with its family entry: the clause, its program counter, sequence, digest, status field and carried
registers x11 to x15 as the last suspension left them; its resume queue (R113), the record replies owed (R111), whether the
clause has ended, the implicit drops it waits for, and what its suspension waits for. -/
structure Rec where
  state    : RecState := .free
  clause   : Clause := {}
  pc       : Word := 0
  seq      : Word := 0
  digest   : Word := 0
  status   : Nat := 0
  carried  : List Word := []
  resumes  : List Msg := []
  owed     : Nat := 0
  /-- The other chips that owe a record reply, one entry for each (R104). -/
  owedBy   : List (BitVec 20) := []
  ended    : Bool := false
  drops    : Nat := 0
  susp     : SuspKind := .susp
  family   : Family := {}
  deriving DecidableEq, Repr

/-- A B latch's state (10_matrix.md R178). -/
inductive LatchState where
  | empty
  | valid
  | await
  deriving DecidableEq, Repr

/-- A B latch with its shadow (R178): element and side blocks as byte lists, and the copy the shadow holds. -/
structure Latch where
  state  : LatchState := .empty
  elems  : List Byte := []
  side   : List Byte := []
  shadow : Option (List Byte × List Byte) := none
  deriving DecidableEq, Repr

/-- A context of a core (R105): the share of one virtual function. -/
structure Ctx where
  assigned  : Bool := false
  vf        : Nat := 0
  kasid     : Word := 0
  /-- The launch whose tables the context holds. -/
  launch    : Nat := 0
  codeBase  : Word := 0
  codeSize  : Nat := 0
  wdog      : Word := 0
  repro     : Bool := false
  chans     : Tab Chan := []
  lastChan  : Nat := 255
  agedCount : Nat := 0
  pool      : List PoolItem := []
  recs      : Tab Rec := []
  bl        : Tab Latch := []
  /-- Handler messages and spawns that wait in the network for room in the context's share (06_messages.md R104), and how many
  requests have arrived. -/
  held      : List Msg := []
  arrivals  : Nat := 0
  preempted : Bool := false
  saved     : Bool := false
  savedPool : List PoolItem := []
  savedMsgs : List Msg := []
  recBase   : Word := 0
  famBase   : Word := 0
  regBase   : Word := 0
  saveBase  : Word := 0
  ctxErr    : Word := 0
  /-- Cycles charged and not yet reported (22_launch_estimate.md R381). -/
  charge    : Nat := 0
  deriving DecidableEq, Repr

/-- A message in an outbound queue with what its release still waits for (06_messages.md R104, 14_ordering.md R246): the
slot and generation of the sender, the sequence numbers of its far requests, how many entries of its forwarding table, and the
cycles until its near loads have filled. -/
structure Out where
  msg  : Msg
  slot : Nat
  gen  : Nat
  seqs : List (BitVec 32)
  fwd  : Nat
  near : Nat := 0
  deriving DecidableEq, Repr

/-- The state of one core. Core numbers from 4,096 name the sixteen management cores of the hub (01_machine.md R10). Numbers from
8,192 name the other translating units (24_system.md R411): engine e is 8,192 + e, an estimator context e 9,216 + e, and the hub
10,240. Of these only the translation cache is used. -/
structure Core where
  kreql    : Word := 0
  kreqx    : Word := 0
  kgeo     : Tab Word := []
  geo      : Tab (List (BitVec 32)) := []
  /-- Members of each membership's group, as physical cores in rank order (01_machine.md R16). -/
  ranks    : Tab (List Nat) := []
  outq     : List Out := []
  lastCtx  : Nat := 3
  /-- The slot that issued last (05_scalar.md R95). -/
  lastSlot : Nat := 3
  ctxs     : Tab Ctx := []
  /-- Accumulator cells that are not 0, by tile · 1024 + 32 · row + column (10_matrix.md R177). -/
  acc      : Tab (BitVec 32) := []
  /-- The claiming slot and generation of each claimed tile. -/
  claim    : Tab (Nat × Nat) := []
  /-- The array's next step fails its residue check three times (10_matrix.md R188). -/
  badArray : Bool := false
  /-- The slots that have issued a ring transfer, in issue order (10_matrix.md R189). -/
  ring     : List Nat := []
  /-- The translation cache (11_memory_access.md R198, 24_system.md R411): leaf entries, oldest first, each with its
  address-space id, page size code and virtual page number; and region entries by address-space id · 16 + region. -/
  tlb      : List (Nat × Nat × Nat × Word) := []
  regionCache : Tab Word := []
  /-- Corrected errors of the operand store and the kernel's threshold (26_platform.md R454). -/
  corrected : Nat := 0
  threshold : Nat := 0
  deriving DecidableEq, Repr
/-! ### Permanent names (19_names.md) -/

/-- An entry of a cluster's name cache (R330): name, binding, attribute word, in-flight count and the dead mark of a
shoot-down (R333). The least recently used entry stands first. -/
structure CachedName where
  name     : BitVec 128
  binding  : Word
  attr     : Word
  inFlight : Nat := 0
  dead     : Bool := false
  /-- The operation whose shoot-down marked it. -/
  op       : Nat := 0
  deriving DecidableEq, Repr

/-- A rebind or kill in progress at a name unit (R333): the request, the address of the entry, the clusters that have not
acknowledged their shoot-down, and the requests and operations held until it ends. -/
structure NameOp where
  msg   : Msg
  name  : BitVec 128
  entry : Nat
  owes  : List Nat
  held  : List Msg := []
  /-- The operation's number at its home (R332). -/
  number : Nat := 0
  deriving DecidableEq, Repr

/-! ### Copy and transfer engines (20_copy.md) -/

/-- A command of an engine (R349 to R360): its id, issuing function, address-space id, launch, and the core and context that
notices go to; its descriptor, count, first row, the rows completed, whether it runs, and whether a stop (1) or a kill (2) of it
waits; and for the row in progress the bytes read at other packages, the answers that are due from there, and whether they
are those of writes. -/
structure Cmd where
  id     : Word
  vf     : Nat
  asid   : Nat
  launch : Nat
  core   : Nat
  ctx    : Nat
  desc   : List Byte
  count  : Nat
  start  : Nat
  row    : Nat
  running : Bool := false
  stop   : Nat := 0
  got    : List (Nat × List Byte) := []
  left   : Nat := 0
  writing : Bool := false
  /-- The chunk that is being reported, with the global address of its arrival word (R357). -/
  awaits : Option (Nat × Word) := none
  /-- The increment of that chunk is acknowledged, with the function that owns the arrival word's page; the message is held by a halt
  (25_debug.md R433). -/
  acked  : Option (Option (BitVec 7)) := none
  /-- The cause of an answer that failed while others are still due (R347). -/
  failed : Option Nat := none
  /-- The requests of the row that are out, by sequence number, each with the package it went to. -/
  due    : List (BitVec 32 × BitVec 20) := []
  deriving DecidableEq, Repr

/-- A copy or transfer engine (R347): its queue, running command, command number, the function it served last, the terminal
statuses it keeps by id, each with the number of commands of its function that had then ended, and those numbers by function
(R360). -/
structure Engine where
  queue   : List Cmd := []
  running : Option Cmd := none
  seq     : BitVec 32 := 0
  lastVf  : Nat := 127
  kept    : List (Word × Word × Nat) := []
  ended   : Tab Nat := []
  deriving DecidableEq, Repr

/-! ### Debug and trace (25_debug.md) -/

/-- A row of a loss table (R439). -/
structure LossRow where
  key      : BitVec 32 := 0
  valid    : Bool := false
  device   : Bool := false
  remote   : Bool := false
  count    : Word := 0
  transit  : Word := 0
  wait     : Word := 0
  run      : Word := 0
  transitMax : BitVec 32 := 0
  waitMax  : BitVec 32 := 0
  runMax   : BitVec 32 := 0
  anomaly  : BitVec 32 := 0
  deriving DecidableEq, Repr

/-- The debug module of a cluster (R431 to R440): its registers, whether it holds the cluster halted, the slot that a STEP
released, the loss table, and the trace buffer with the issue counts of its cores since the last sample. -/
structure Debug where
  ctl      : Word := 0
  stat     : Word := 0
  halted   : Bool := false
  stepping : Option Nat := none
  haltedAt : BitVec 32 := 0
  bpA      : Tab Word := []
  bpC      : Tab Word := []
  trig     : Word := 0
  /-- TRCCTL: SPER reads 16 after reset (R440). -/
  trcCtl   : Word := 0x1000000000000000
  dmVal    : Word := 0
  dmCtl    : Word := 0
  lossCtl  : Word := 0
  loss     : Tab LossRow := []
  trace    : List (List Word) := []
  issued   : Tab Nat := []
  stalled  : Tab Nat := []
  deriving DecidableEq, Repr

/-! ### Clusters -/

/-- A stream of a cluster copy engine (11_memory_access.md R209): who started it, its destination as a cluster address, its
element count, the elements that have arrived, and the delivery position. -/
structure Stream where
  core    : Nat := 0
  ctx     : Nat := 0
  launch  : Nat := 0
  dest    : Nat := 0
  count   : Nat := 0
  arrived : Nat := 0
  next    : Nat := 0
  word    : Nat := 0
  ended   : Bool := false
  /-- The slots stalled on the stream, in the order of their stalls (R211). -/
  waiters : List Nat := []
  /-- A binding has been removed since the stream began (R209). -/
  released : Bool := false
  deriving DecidableEq, Repr

/-- The state of one cluster. -/
structure Cluster where
  /-- Owner bit of each scratchpad tile: true for ENGINE (14_ordering.md R252). -/
  owner   : Tab Bool := []
  /-- Live streams by stream id. -/
  streams : Tab Stream := []
  /-- The core number that the fetch port served last (05_scalar.md R93). -/
  fetchLast : Nat := 7
  engine  : Engine := {}
  /-- The name cache (19_names.md R330), the resolutions pending in the cluster with their reply tags (R331), and the run of
  counter values the hub handed it (R326): the next one and how many are left. -/
  names   : List CachedName := []
  resolving : List (BitVec 128 × Nat) := []
  nextName  : BitVec 80 := 0
  nameLeft  : Nat := 0
  /-- Corrected errors of the scratchpad and the kernel's threshold (26_platform.md R454). -/
  corrected : Nat := 0
  threshold : Nat := 0
  dbg     : Debug := {}
  deriving DecidableEq, Repr

/-! ### Stack controllers -/

/-- An alarm of the alarm list (17_tensed.md R311): the word's device address, the tick, the time base and shift of its law,
and whether the word was last touched under window time (R301). -/
structure Alarm where
  addr  : Nat
  tick  : Word
  base  : Nat
  shift : Nat
  win   : Bool
  deriving DecidableEq, Repr

/-- The state of one stack controller with its near-memory, law and name unit. The tier controller has the number 16. -/
structure Stack where
  /-- Reserve blocks that retirement moved (12_main_memory.md R239). -/
  reserveMap : Tab Nat := []
  /-- Watches held at the home, and the spill list (11_memory_access.md R213, R214): the requests. -/
  watches : List Msg := []
  spill   : List Msg := []
  /-- Corrected errors by channel and the threshold (12_main_memory.md R234, 26_platform.md R454). -/
  corrected : Tab Nat := []
  threshold : Nat := 0
  /-- The heat buffer: requests not yet written to the heat word, by page (R229). -/
  heat    : Tab Nat := []
  /-- Lines staged in the read buffers (11_memory_access.md R215): media addresses. -/
  readBuf : List Nat := []
  /-- The alarm list and the outbound crossing queue of the law unit (17_tensed.md R310, R311). -/
  alarms    : List Alarm := []
  crossings : List Msg := []
  /-- Barrier waiters held at the home, with the phase each waits past (15_sync.md R283, R288). -/
  waiters   : List Msg := []
  /-- Rebinds and kills in progress at the name unit (19_names.md R333), and the accesses it forwarded and has not yet
  answered, by name (R335). -/
  nameOps   : List NameOp := []
  nameSeq   : Nat := 0
  forwarded : List (BitVec 128 × Msg) := []
  /-- Entries of the access table (24_system.md R428). -/
  access    : Tab Word := []
  deriving DecidableEq, Repr

/-- A page move in progress (12_main_memory.md R227): the new entry, the homes that have not yet taken the begin notice, and
the requests held at the homes. -/
structure Move where
  entry : Nat
  homes : List Nat
  taken : List Nat := []
  held  : List Msg := []
  /-- The move that follows with the media this one frees, and the management slot that waits for the end. -/
  after : Option (Nat × Nat) := none
  waiter : Option Nat := none
  /-- The tracker is the mover, to whose rings a freed CXL frame returns. -/
  tracked : Bool := false
  /-- The whole entry is replaced, as by `dpitset`; else its media alone. -/
  whole : Bool := false
  deriving DecidableEq, Repr

/-! ### Launches and estimators (22_launch_estimate.md) -/

/-- A launch record of the hub (R370 to R379): the packet and its estimator descriptor as words, the queue it was enqueued
in, its function, name and state, the partition and context it runs in, and the counts its completion needs. For a launch
with REPRO set, `window` is the index of the open delivery window and `parked` what takes effect at its close
(06_messages.md R120 to R122). -/
structure Launch where
  packet   : List Word := []
  desc     : List Word := []
  queue    : Nat := 0
  vf       : Nat := 0
  name     : BitVec 128 := 0
  /-- STATE code of R377. -/
  state    : Nat := 0
  cause    : Nat := 0
  late     : Bool := false
  estate   : Nat := 0
  est      : Option Nat := none
  node     : Nat := 0
  ctx      : Nat := 0
  started  : Nat := 0
  starts   : Nat := 0
  live     : Nat := 0
  pending  : Nat := 0
  kills    : Nat := 0
  result   : Word := 0
  commands : Nat := 0
  dispatched : Word := 0
  killing  : Bool := false
  repro    : Bool := false
  window   : Nat := 0
  parked   : List Msg := []
  /-- What the last close brought about is still arriving: the window's dispatch has not begun (06_messages.md R122). -/
  opening  : Bool := false
  /-- `lkill` and `sqkill` requests that wait for the end. -/
  waiting  : List Msg := []
  /-- Lines of other packages that the dispatch has read, by global address with their status, and the one that it waits for. -/
  got      : List (Nat × Nat × List Byte) := []
  awaits   : Option Nat := none
  /-- The members of group 0, as physical cores in rank order. -/
  group0   : List Nat := []
  /-- Steps 1 and 2 of its dispatch are done: start messages may leave (22_launch_estimate.md R375). -/
  prepared : Bool := false
  deriving DecidableEq, Repr

/-- An enqueue that waits for a line of another package (R371), or for its reserved name to be bound (R372): the request of a `launch`, or
none for a host enqueue, its queue, function and packet, the lines read, and the one that it waits for. -/
structure Enqueue where
  msg    : Option Msg
  queue  : Nat
  vf     : Nat
  asid   : Nat
  packet : List Word
  addr   : Word
  got    : List (Nat × Nat × List Byte) := []
  awaits : Nat := 0
  deriving DecidableEq, Repr

/-- An estimator context (R383 to R390). -/
structure Est where
  launch  : Nat := 0
  /-- ESTATE of R377: 0 free, 1 running, 2 stopped, 3 exhausted, 4 killed. -/
  state   : Nat := 0
  items   : Nat := 0
  feistel : Bool := false
  pull    : Bool := false
  killStop : Bool := false
  mul     : Word := 0
  off     : Word := 0
  batch   : Nat := 1
  least   : Nat := 2
  z       : Word := 0
  tol     : Word := 0
  /-- Global address of the result record, and its home. -/
  record  : Word := 0
  home    : Nat := 0
  args    : Word := 0
  issued  : Nat := 0
  accepted : Nat := 0
  mean    : Word := 0
  m2      : Word := 0
  half    : Word := 0
  checks  : Nat := 0
  discarded : Nat := 0
  endTick : Word := 0
  /-- The contributions that wait in the reorder window, by position (R387). -/
  window  : Tab Word := []
  /-- `eitem` requests that wait for a position. -/
  waiting : List Msg := []
  /-- The result record is on its way to another package. -/
  writing : Bool := false
  deriving DecidableEq, Repr

/-! ### Virtual functions, windows and the hub -/

/-- The configuration and the hub's state of one virtual function (24_system.md R419, 22_launch_estimate.md R380, 17_tensed.md
R295 and R297, 26_platform.md R446): VFCTL; the error ring and the completion ring with their pointers; VFCNT; BUDCTL; the
installed law table with the global address of each of its words, if any; the logical counters; and the doorbell page. Number 128 is the physical
function. -/
structure Vf where
  ctl     : Word := 0
  eqBase  : Word := 0
  eqHead  : Nat := 0
  eqTail  : Nat := 0
  cqBase  : Word := 0
  cqHead  : Nat := 0
  cqTail  : Nat := 0
  cnt     : Word := 0
  bud     : Word := 0
  law     : Option (List Word) := none
  lawAt   : List Nat := []
  bases   : Tab Word := []
  /-- The counters as they stood when the law units' last completed sweep pass began (17_tensed.md R299). -/
  swept   : Tab Word := []
  passing : Tab Word := []
  packet  : List Word := []
  enqStat : Word := 0x8000000000000000
  lastName : BitVec 128 := 0
  resetting : Bool := false
  /-- MSI-X vectors raised: 0 error ring, 1 completion ring, 2 a record dropped. -/
  vectors : List Nat := []
  deriving DecidableEq, Repr

/-- A partition (24_system.md R415): the function that holds each of its four contexts, and the clusters it was made of. -/
structure Part where
  ctxs : Tab Nat := []
  deriving DecidableEq, Repr

/-- An element of a reproducible window with a round open (15_sync.md R275): its global address, the contributions by logical
contributor, and the contributions held for the next round. -/
structure Round where
  addr  : Word
  parts : Tab Msg := []
  held  : List Msg := []
  deriving DecidableEq, Repr

/-- A fabric reduction window that this chip homes or contributes to (R273). -/
structure Window where
  home    : BitVec 20 := 0
  id      : Nat := 0
  base    : Nat := 0
  len     : Nat := 0
  code    : Nat := 0
  repro   : Bool := false
  status  : Word := 0
  members : List Nat := []
  gone    : List Nat := []
  rounds  : List Round := []
  /-- The contexts that have contributed: chip, core, context and launch, for the notices of R276. -/
  asked   : List (BitVec 20 × Nat × BitVec 2 × Nat) := []
  /-- A redeclaration waits for the open rounds (24_system.md R424). -/
  redeclare : Bool := false
  deriving DecidableEq, Repr

/-- The hot-page tracker (12_main_memory.md R229 to R231). HOTCTL holds its reset values. -/
structure Tracker where
  ctl   : Word := 0x100000400E0A1000
  hbm   : Word := 0
  cxl   : Word := 0
  stat  : Word := 0
  queue : List Nat := []
  hand  : Nat := 0
  /-- The moves of the period in progress. -/
  period : Option Nat := none
  deriving DecidableEq, Repr

/-- The non-volatile store's two copies of the boot configuration record, each with its highest accepted sequence, and none where its CRC-32
fails (26_platform.md R450), the package serial (19_names.md R324), and what boot left (R448, R449): the tick from which an image may be fetched, the image that runs with its measurement, the frames
rejected, the mode of the reset with the LBA of a capture, the replies sent, and for a replay the inputs taken by each unit and
whether it has diverged (25_debug.md R443). -/
structure Boot where
  serial   : BitVec 48 := 0
  copyA    : Option (Word × List Byte) := some (0, [])
  copyB    : Option (Word × List Byte) := none
  fetchAt  : Word := 0
  booted   : Bool := false
  image    : List Byte := []
  measure  : List Byte := []
  rejected : Word := 0
  mode     : Nat := 0
  capture  : Word := 0
  replies  : List (List Byte) := []
  inputs   : Tab Nat := []
  diverged : Bool := false
  deriving DecidableEq, Repr

/-- A sealed trace segment in a staging slot (25_debug.md R441): what its header and body hold that is fixed when it is sealed. -/
structure Segment where
  replay : Bool
  seq    : Word
  first  : Word
  last   : Word
  body   : List Byte
  deriving DecidableEq, Repr

/-- The trace hardware of the hub (25_debug.md R441): TRLBA, TRCFG (S reads 6 after reset), TRSTAT, the records gathered for the open
segment, the staged segments, the bytes of the first of them as the storage port writes them, the sequence of the next segment, the
segments overwritten since the last one sent, and PREV of the segment to be submitted next. -/
structure Trace where
  lba     : Word := 0
  cfg     : Word := 0x0006000000000000
  stat    : Word := 0
  records : List (List Word) := []
  staged  : List Segment := []
  sending : List Byte := []
  /-- The LBA from which that segment is written. -/
  dest    : Word := 0
  seq     : Word := 0
  gap     : Nat := 0
  prev    : List Byte := []
  deriving DecidableEq, Repr

/-- A partition operation (its code and the command word) or a function's reset, which the hub performs one at a time in the order
written (24_system.md R416, R426). -/
inductive HubOp where
  | part (op : Nat) (cmd : Word)
  | reset (vf : Nat)
  deriving DecidableEq, Repr

/-- What the hub reads at another package over the management path: the kernel's law table, a serial map (24_system.md R423), or the list of
contributors of a window that is declared afresh or again (R424). -/
inductive TableUse where
  | law
  | map
  | members (w : Window) (fresh : Bool)
  deriving DecidableEq, Repr

/-- A table of another package that the hub reads line by line: its use, its address, its number of entries, and the lines read so far. -/
structure TableRead where
  what  : TableUse
  addr  : Word
  count : Nat
  got   : List (List Byte) := []
  deriving DecidableEq, Repr

/-- The state of the hub die. -/
structure Hub where
  chipId  : BitVec 20 := 0
  /-- Region attribute entries by address-space id · 16 + region (12_main_memory.md R220). -/
  regions : Tab Word := []
  /-- Packages that are down (24_system.md R427), and Novron ports that are lost (26_platform.md R454). -/
  down    : List Nat := []
  /-- Scopes of barriers as `barinit` recorded them, by name (15_sync.md R280). -/
  scopes  : List (BitVec 128 × Nat) := []
  lostPorts : List Nat := []
  /-- Trap ring (24_system.md R406, R420): base, head, tail. -/
  ktrap     : Word := 0
  ktrapHead : Nat := 0
  ktrapTail : Nat := 0
  /-- Reports of no slot that wait for room in the trap ring, oldest first (R406, 06_messages.md R111). -/
  heldReports : List (List Word) := []
  /-- The kernel's error ring (R420), laid out as R419: base with size, head, tail. -/
  keq       : Word := 0
  keqHead   : Nat := 0
  keqTail   : Nat := 0
  /-- The machine-check ring (R421): KMC, KMCPTR, KMCLOST. -/
  kmc       : Word := 0
  kmcHead   : Nat := 0
  kmcTail   : Nat := 0
  kmcLost   : Word := 0
  /-- LQCFG by queue without COUNT (22_launch_estimate.md R370), the launch records by number, and the next number. -/
  queues    : Tab Word := []
  launches  : Tab Launch := []
  nextLaunch : Nat := 1
  enqueues  : List Enqueue := []
  vfs       : Tab Vf := []
  /-- Partitions by node (24_system.md R415), PCMD and PSTAT, and the proxies of removed cores (R418). -/
  parts     : Tab Part := []
  pcmd      : Word := 0
  pstat     : Word := 0
  proxies   : Tab Nat := []
  /-- The operations that wait, the first of them in progress once it has begun. -/
  ops       : List HubOp := []
  begun     : Bool := false
  /-- What the invalidation of a function's reset waits for, once its drop points have come (R412, R426). -/
  opWait    : Option (List Word) := none
  /-- The part (00_scope.md R1, R2): 0 is KB7-4096-LQ, 1 KB7-3584-LQ, 2 KB7-3072-LQ; and the clusters that its fuses disable (26_platform.md
  R447). -/
  harvest   : Nat := 0
  fused     : List Nat := []
  /-- The kernel's law table and KLAW (R423). -/
  klaw      : Word := 0
  klawTable : Option (List Word) := none
  /-- Tables that the hub reads at other packages, the copy of a serial map read there, and the writes of hub registers that wait until the
  kernel's table is installed (17_tensed.md R295). -/
  reads     : List TableRead := []
  smapCopy  : List (List Byte) := []
  heldWrites : List (Nat × Word) := []
  /-- Sweeping (17_tensed.md R299): the `TENSED` pages that the law units sweep, each with an address-space id and address that
  map it, the device time at which the present pass began, and the `tbadv` requests that wait for a pass. -/
  tensed    : Tab (Option (Nat × Word)) := []
  passStart : Nat := 0
  advances  : List Msg := []
  /-- NAMETAB, the package name counter and its end of block, the two reservation slots of the non-volatile store (19_names.md
  R325), SMAP, SMAPN and the map in force, and the name-operation registers (24_system.md R455). -/
  nametab   : Word := 0
  issued    : Nat := 0
  slots     : List (Option Nat) := [some 0, none]
  smap      : Word := 0
  smapn     : Word := 0
  smapLive  : Word := 0
  nameblk   : Word := 0
  namecmd   : Word := 0
  namestat  : Word := 0
  /-- Fabric reduction windows, and WINSTAT and WINBLK (24_system.md R424). -/
  windows   : List Window := []
  /-- Contributions to windows of other chips at the package's fabric port (15_sync.md R275): the elements with one of this package on
  its way, and those held for the next round. -/
  portOpen  : List Word := []
  portHeld  : List Msg := []
  wincmd    : Word := 0
  winstat   : Word := 0
  winblk    : Word := 0
  /-- Entries of the hub's access table (R428). -/
  access    : Tab Word := []
  ests      : Tab Est := []
  /-- Lines of the CXL tier staged in the tier buffer (11_memory_access.md R215): media addresses. -/
  tierBuf   : List Nat := []
  transfers : Tab Engine := []
  tracker   : Tracker := {}
  moves     : Tab Move := []
  trace     : Trace := {}
  boot      : Boot := {}
  /-- PWRSTAT (26_platform.md R453): MHZ, WATTS, TMAX, TRIP. -/
  mhz       : Nat := 3600
  watts     : Nat := 0
  tmax      : Nat := 0
  trip      : Bool := false
  /-- Samples in a row at or below the limits, and power lost after a trip. -/
  coolFor   : Nat := 0
  off       : Bool := false
  /-- The entropy source failed a health test (26_platform.md R452). -/
  entropyBad : Bool := false
  deriving DecidableEq, Repr

/-! ### The package -/

/-- The state of one package. -/
structure State where
  /-- The slot that issues: core · 4 + slot. -/
  cur     : Nat
  slots   : Tab Slot
  cores   : Tab Core
  clusters : Tab Cluster
  stackTab : Tab Stack
  hub     : Hub
  /-- All memory as (address, byte) pairs by rising address; an unlisted byte reads as 0. The regions of this one address
  space are laid out in Machine/Memory.lean. -/
  mem     : List Host.Cell
  /-- Poisoned HBM atoms and CXL lines by media address (12_main_memory.md R233, R218). -/
  poison  : List Nat
  /-- Writes of each HBM granule since reset, by granule (R232); and HBM atoms with errors that no read, copy or scrub has met yet, by
  media address, with the wrong bits SEC-DED sees (R234). -/
  stored  : Tab Nat
  weak    : Tab Nat
  /-- Near-memory words with an uncorrectable error, by address of their 8 bytes (11_memory_access.md R197). -/
  nearBad : List Nat
  /-- Near-memory words with an error that no read has met yet and that the next one corrects (R197, 26_platform.md R454). -/
  nearWeak : List Nat
  /-- Messages in flight, in arrival order (06_messages.md R104). -/
  net     : List Msg
  /-- Messages on their way to other packages. -/
  fabricOut : List Msg
  /-- Machine events that are due, oldest first, and events with the device time at which they fall due. -/
  agenda  : List Instr
  timers  : List (Nat × Instr)
  /-- The cycle in progress: whose turn the next event is, 0 an event's that the machine owes and 1 a message's; the first core that may
  still issue; and the events that may still happen. The model's own fields (log 3). -/
  turn    : Nat
  coreNext : Nat
  eventsLeft : Nat
  /-- Device time in ns (01_machine.md R15), and the fraction of a ns in units of 1 / MHZ. -/
  ktick   : Word
  tickRem : Nat
  /-- Messages each device source has sent, by the low 48 bits of its key (06_messages.md R121). -/
  srcSeq  : Tab Nat
  /-- Free values drawn: the argument of the free values of Config. The model's own field (log 10). -/
  draws   : Nat
  deriving DecidableEq, Repr

/-- The machine right after package reset. -/
def State.reset : State :=
  { cur := 0, slots := [], cores := [], clusters := [], stackTab := [], hub := {}, mem := [], poison := [], stored := [], weak := [], nearBad := [], nearWeak := [], net := [],
    fabricOut := [], agenda := [], timers := [], turn := 0, coreNext := 0, eventsLeft := 0, ktick := 0, tickRem := 0, srcSeq := [], draws := 0 }

end Sys2Proof.Machine
end

