-- ==== Sys2Proof/Machine/Memory.lean ====
section
/-!
DEFINITION. Memory as one list of (address, byte) pairs in canonical form, the layout of the package's memories in its one
address space, and little-endian access of any width (00_scope.md R3). An unlisted byte reads as 0: HBM because reset
writes it so (12_main_memory.md R232), the CXL tier, operand stores and scratchpads by log 2.
-/
namespace Sys2Proof.Machine

/-! ### Bytes -/

/-- The byte at an address. -/
def memRead : List Host.Cell → Nat → Byte
  | [], _ => 0
  | (b, w) :: t, a => if a = b then w else memRead t a

/-- The memory with one byte written; a zero byte is not listed. -/
def memWrite : List Host.Cell → Nat → Byte → List Host.Cell
  | [], a, v => if v = 0 then [] else [(a, v)]
  | (b, w) :: t, a, v =>
    if a = b then (if v = 0 then t else (a, v) :: t)
    else if a < b then (if v = 0 then (b, w) :: t else (a, v) :: (b, w) :: t)
    else (b, w) :: memWrite t a v

/-- Every address listed is above a bound, the addresses rise, and no listed byte is 0. -/
def memRising : Nat → List Host.Cell → Bool
  | _, [] => true
  | lo, (b, w) :: t => decide (lo ≤ b) && w != 0 && memRising (b + 1) t

/-- The canonical form of memory. -/
def Memory.wf (m : List Host.Cell) : Bool := memRising 0 m

/-- n bytes from an address, lowest first. -/
def memBytes (m : List Host.Cell) (a : Nat) : Nat → List Byte
  | 0 => []
  | n + 1 => memRead m a :: memBytes m (a + 1) n

/-- Bytes written from an address, lowest first. -/
def memWriteBytes (m : List Host.Cell) (a : Nat) : List Byte → List Host.Cell
  | [] => m
  | b :: t => memWriteBytes (memWrite m a b) (a + 1) t

/-- The bytes of a list whose mask bit is set, written from an address (masked line write, 11_memory_access.md R199). -/
def memWriteMasked (m : List Host.Cell) (a mask : Nat) : List Byte → List Host.Cell
  | [] => m
  | b :: t => memWriteMasked (if mask % 2 = 1 then memWrite m a b else m) (a + 1) (mask / 2) t

/-- The cells of n bytes from an address, where the bytes are a function of their address. -/
def cellsOf (f : Nat → Byte) : Nat → Nat → List Host.Cell
  | _, 0 => []
  | a, n + 1 => if f a = 0 then cellsOf f (a + 1) n else (a, f a) :: cellsOf f (a + 1) n

/-- The memory with n bytes from an address replaced by a function of their address. -/
def memReplace (m : List Host.Cell) (f : Nat → Byte) (a n : Nat) : List Host.Cell :=
  (m.filter fun c => decide (c.1 < a)) ++ cellsOf f a n ++ m.filter fun c => decide (a + n ≤ c.1)

/-- A little-endian number as a list of n bytes. -/
def toBytes : Nat → Nat → List Byte
  | 0, _ => []
  | n + 1, v => BitVec.ofNat 8 v :: toBytes n (v / 256)

/-- The number a little-endian list of bytes holds. -/
def ofBytes : List Byte → Nat
  | [] => 0
  | b :: t => b.toNat + 256 * ofBytes t

/-- A list of bytes as 8-byte words, the last padded with zeros. Structural on the number of words. -/
def wordsOf : Nat → List Byte → List Word
  | 0, _ => []
  | n + 1, bs => word (ofBytes (bs.take 8)) :: wordsOf n (bs.drop 8)

/-- The bytes of a list of words. -/
def bytesOfWords : List Word → List Byte
  | [] => []
  | w :: t => toBytes 8 w.toNat ++ bytesOfWords t

/-! ### The layout of the address space of `State.mem` -/

/-- Byte b of HBM stack s (12_main_memory.md R217: 64 GiB each). -/
def hbmAddr (s b : Nat) : Nat := s * 2 ^ 36 + b

/-- Byte b of CXL frame f (R218: 64 KiB each). -/
def cxlAddr (f b : Nat) : Nat := 2 ^ 40 + f * 65536 + b

/-- Byte b of the operand store of a core (11_memory_access.md R195: 128 KiB each). -/
def operandAddr (core b : Nat) : Nat := 2 ^ 45 + core * 2 ^ 17 + b

/-- Byte b of the scratchpad of a cluster (R195: 3 MiB each). -/
def padAddr (cluster b : Nat) : Nat := 2 ^ 46 + cluster * 2 ^ 22 + b

/-- The sizes of an operand store and of a scratchpad. -/
def operandSize : Nat := 0x20000
def padSize : Nat := 0x300000

/-! ### State -/

/-- n bytes of memory. -/
def State.bytes (s : State) (a n : Nat) : List Byte := memBytes s.mem a n

/-- n bytes of memory as a little-endian number. -/
def State.load (s : State) (a n : Nat) : Nat := ofBytes (memBytes s.mem a n)

/-- One more write of each of n granules from one on. -/
def countStored (t : Tab Nat) (g : Nat) : Nat → Tab Nat
  | 0 => t
  | n + 1 => countStored (t.set g (t.get g 0 + 1)) (g + 1) n

/-- The writes of HBM granules after one of n bytes from a media address (12_main_memory.md R232). -/
def State.noteStored (s : State) (a n : Nat) : Tab Nat :=
  if 2 ^ 40 ≤ a || n = 0 then s.stored else countStored s.stored (a / 128) ((a + n - 1) / 128 - a / 128 + 1)

/-- The state with bytes written. -/
def State.storeBytes (s : State) (a : Nat) (bs : List Byte) : State :=
  { s with mem := memWriteBytes s.mem a bs, stored := s.noteStored a bs.length }

/-- The state in which n bytes are lost: each is a free value from now on (24_system.md R418). -/
def State.loseBytes (s : State) (a n : Nat) : State :=
  { s with mem := memReplace s.mem (fun b => (Config.lost s.draws b).setWidth 8) a n, draws := s.draws + 1 }

/-- The state with a little-endian number of n bytes written. -/
def State.store (s : State) (a n v : Nat) : State := s.storeBytes a (toBytes n v)

/-! ### Poison -/

/-- A number added to a rising list without repeats. -/
def insertNat : List Nat → Nat → List Nat
  | [], a => [a]
  | b :: t, a => if a = b then b :: t else if a < b then a :: b :: t else b :: insertNat t a

/-- The start of the unit that carries one poison bit: a 32-byte atom in HBM (R233), a 64-byte line in the CXL tier (R218). -/
def poisonUnit (media : Nat) : Nat := if media < 2 ^ 40 then media / 32 * 32 else media / 64 * 64

/-- Some byte of a range lies in a poisoned unit. Structural on the number of 32-byte steps. -/
def poisonedFrom (poison : List Nat) (media : Nat) : Nat → Bool
  | 0 => false
  | n + 1 => poison.contains (poisonUnit (media + 32 * n)) || poisonedFrom poison media n

/-- The size code that a granule of HBM is stored with (R232): 0b00 with a poisoned atom, 0b11 as reset left it, else as the controller
chose at its last write. -/
def State.sizeOf (s : State) (g : Nat) : BitVec 2 :=
  if [128 * g, 128 * g + 32, 128 * g + 64, 128 * g + 96].any fun a => s.poison.contains a then 0
  else if s.stored.get g 0 = 0 then 3
  else Config.sizeCode g (s.stored.get g 0)

/-- The side-band bits of an HBM atom as the management path reads them (R233): CHECK, SIZE and POISON. -/
def State.sideBand (s : State) (media : Nat) : BitVec 16 :=
  let a := poisonUnit media
  let size := s.sizeOf (a / 128)
  let low : BitVec 4 := size ++ (BitVec.ofBool (s.poison.contains a)) ++ (0 : BitVec 1)
  Config.checkBits (BitVec.ofNat 256 (ofBytes (memBytes s.mem a 32))) low ++ low ++ (0 : BitVec 2)

/-- A range of n bytes, at most one line, touches poison (12_main_memory.md R235). -/
def State.poisoned (s : State) (media n : Nat) : Bool :=
  s.poison.contains (poisonUnit media) || s.poison.contains (poisonUnit (media + n - 1)) || poisonedFrom s.poison media (n / 32)

end Sys2Proof.Machine
end

