-- ==== Sys2Proof/Machine/Media.lean ====
section
/-!
DEFINITION. From global addresses to media (12_main_memory.md R217 to R226): the home controller of an address under a
placement, the indirection entry of a device page, and the media byte a device address names. The media reserve and the
media themselves are bytes of `State.mem`.
-/
namespace Sys2Proof.Machine

/-- The exclusive or of n groups of width w of a number, from group i up. -/
def xorGroups (a w i : Nat) : Nat → Nat
  | 0 => 0
  | n + 1 => bitsOf a (w * i) w ^^^ xorGroups a w (i + 1) n

/-- The stack that a placement or shape code gives a device address (R224). -/
def stackOf (p a : Nat) : Nat :=
  if p = 0 then xorGroups a 4 2 9
  else if p = 1 then 4 * xorGroups a 2 6 16 + xorGroups a 2 7 15
  else 4 * (p - 4) + xorGroups a 2 6 16

/-- The number of the tier controller among the homes (R236: 0x10). -/
def tierUnit : Nat := 16

/-- The home of a device address under a placement: a stack controller 0 to 15, or the tier controller (R224). -/
def homeOf (p a : Nat) : Nat := if p = 8 then tierUnit else stackOf p a

/-- A placement code that R223 lists. -/
def placementListed (p : Nat) : Bool := p == 0 || p == 1 || (4 ≤ p && p ≤ 8)

/-- The device page of a device address (R219). -/
def pageOf (a : Nat) : Nat := a / 65536

/-- The first block of the media reserve of a stack (R217). -/
def reserveBlock : Nat := 16678912

/-- The media byte of a reserve offset of a stack, through the stack's reserve map (R217, R239). -/
def State.reserveAddr (s : State) (stack off : Nat) : Nat :=
  let b := reserveBlock + off / 4096
  hbmAddr stack (((s.stackTab.get stack {}).reserveMap.get b b) * 4096 + off % 4096)

/-- The media byte of the indirection entry of a device page (R225). -/
def State.dpitAddr (s : State) (page : Nat) : Nat := s.reserveAddr (page % 16) (page / 16 * 8)

/-- The indirection entry of a device page (R225). -/
def State.dpit (s : State) (page : Nat) : Nat := s.load (s.dpitAddr page) 8

/-- The state with the indirection entry of a device page written. -/
def State.setDpit (s : State) (page e : Nat) : State := s.store (s.dpitAddr page) 8 e

/-- The media byte of the heat word of a device page (R229). -/
def State.heatAddr (s : State) (page : Nat) : Nat := s.reserveAddr (page % 16) (134217728 + page / 16 * 16)

/-! Fields of an indirection entry (R225). -/

def dpitValid (e : Nat) : Bool := bitOf e 63
def dpitMoving (e : Nat) : Bool := bitOf e 62
def dpitPinned (e : Nat) : Bool := bitOf e 61
def dpitTier (e : Nat) : Nat := bitsOf e 60 1
def dpitPlacement (e : Nat) : Nat := bitsOf e 56 4
def dpitShape (e : Nat) : Nat := bitsOf e 52 4
def dpitKernel (e : Nat) : Bool := bitOf e 51
def dpitOwner (e : Nat) : Nat := bitsOf e 44 7
def dpitHint (e : Nat) : Nat := bitsOf e 28 2
def dpitFrame (e : Nat) : Nat := bitsOf e 0 28

/-- The number of 64-byte lines of the page at lower offsets that the shape puts on the same stack (R226, in closed form:
each 4 KiB group holds one 256-byte chunk of a stack under `INTERLEAVE_256`, each page one 4 KiB chunk under
`INTERLEAVE_4K`, and each 16 KiB group one 4 KiB chunk under `DIE_LOCAL`). -/
def lineIndex (shape a : Nat) : Nat :=
  if shape = 0 then 4 * bitsOf a 12 4 + bitsOf a 6 2
  else if shape = 1 then bitsOf a 6 6
  else 64 * bitsOf a 14 2 + bitsOf a 6 6

/-- The media byte that an indirection entry gives a device address (R226). -/
def mediaOfEntry (e a : Nat) : Nat :=
  if dpitTier e = 1 then cxlAddr (dpitFrame e) (a % 65536)
  else
    let j := lineIndex (dpitShape e) a
    hbmAddr (stackOf (dpitShape e) a) ((dpitFrame e + j / 64) * 4096 + 64 * (j % 64) + a % 64)

/-- The media byte of a device address, or none where the page has no media (R226). -/
def State.media (s : State) (a : Nat) : Option Nat :=
  let e := s.dpit (pageOf a)
  if dpitValid e then some (mediaOfEntry e a) else none

/-- Poison cleared in n units of a width from a device address on. -/
def State.clearUnits (s : State) (a w : Nat) : Nat → State
  | 0 => s
  | n + 1 =>
    (match s.media a with
      | some m => { s with poison := s.poison.filter fun u => u != poisonUnit m }
      | none => s).clearUnits (a + w) w n

/-- Poison of the units that a write of n bytes from a device address covers whole is cleared (R235): atoms of HBM, lines of the CXL
tier. -/
def State.clearWhole (s : State) (a n : Nat) : State :=
  if s.poison.isEmpty then s
  else
    let w := match s.media a with | some m => if m < 2 ^ 40 then 32 else 64 | none => 32
    let first := (a + w - 1) / w
    s.clearUnits (first * w) w ((a + n) / w - first)

/-- Bytes written from a device address, each through its page's entry; bytes of pages without media are dropped, and so are those
that fall in a poisoned unit. -/
def State.devPut (s : State) (a : Nat) : List Byte → State
  | [] => s
  | b :: t =>
    (match s.media a with
      | some m => if s.poison.contains (poisonUnit m) then s else s.storeBytes m [b]
      | none => s).devPut (a + 1) t

/-- A write of the device from a device address: it clears the poison that it covers whole, and is not performed where it covers
poison in part (R235). -/
def State.devWrite (s : State) (a : Nat) (bs : List Byte) : State := (s.clearWhole a bs.length).devPut a bs

/-- n bytes read from a device address through the pages' entries; a page without media reads as 0. -/
def State.devBytes (s : State) (a : Nat) : Nat → List Byte
  | 0 => []
  | n + 1 =>
    (match s.media a with
      | some m => memRead s.mem m
      | none => 0) :: s.devBytes (a + 1) n

/-- A little-endian number of n bytes at a device address. -/
def State.devLoad (s : State) (a n : Nat) : Nat := ofBytes (s.devBytes a n)

end Sys2Proof.Machine
end

