-- ==== Sys2Proof/Machine/Translate.lean ====
section
/-!
DEFINITION. Translation of far virtual addresses (12_main_memory.md R220 to R223): the region attribute file, the table
walk, the admitted leaf entries, and a core's translation cache (11_memory_access.md R198).
-/
namespace Sys2Proof.Machine

/-- What a walk or a cached entry gives: a leaf entry with its page size code, or a translation cause. -/
inductive Leaf where
  | ok (leaf : Nat) (psize : Nat)
  | fail (cause : Nat)
  deriving DecidableEq, Repr

def causeAbsent : Nat := 0x50
def causeMalformed : Nat := 0x61
def causeTablePoison : Nat := 0x63

/-- The number of page-offset bits of a page size code (R220). -/
def pageBits (psize : Nat) : Nat := if psize = 0 then 16 else if psize = 1 then 21 else 30

/-- The size of the root node of a page size code (R221). -/
def rootSize (psize : Nat) : Nat := if psize = 0 then 2 ^ 18 else if psize = 1 then 2 ^ 13 else 2 ^ 17

/-- The root index of a virtual address (R221). -/
def rootIndex (psize va : Nat) : Nat :=
  if psize = 0 then bitsOf va 29 15 else if psize = 1 then bitsOf va 34 10 else bitsOf va 30 14

/-- The leaf index of a virtual address, for the page sizes with two levels (R221). -/
def leafIndex (psize va : Nat) : Nat := if psize = 0 then bitsOf va 16 13 else bitsOf va 21 13

/-- A region entry with V set that R223 does not allow. -/
def regionMalformed (e : Nat) : Bool :=
  bitsOf e 44 20 != 0 || bitsOf e 3 9 != 0 || bitsOf e 1 2 == 3 || (bitsOf e 12 32 * 4096) % rootSize (bitsOf e 1 2) != 0

/-- A non-leaf entry with V set that R221 does not allow. -/
def nodeMalformed (e : Nat) : Bool := bitsOf e 44 20 != 0 || bitsOf e 1 15 != 0

/-- A leaf entry with V set that R222 and R223 do not allow, for a page size. -/
def leafMalformed (psize e : Nat) : Bool :=
  let page := bitsOf e 16 28
  let p := bitsOf e 12 4
  bitsOf e 1 5 != 0 || page % 2 ^ (pageBits psize - 16) != 0 || !placementListed p
    || (p == 8) != decide (16777216 ≤ page) || (p == 8 && (bitOf e 11 || bitOf e 10)) || (bitOf e 9 && bitOf e 8)

/-- The home of a table's line answers its read (R226): the page has media and PLACEMENT `INTERLEAVE_256`. -/
def State.tableHeld (s : State) (a : Nat) : Bool :=
  let e := s.dpit (pageOf a)
  dpitValid e && dpitPlacement e == 0

/-- An 8-byte table entry at a device address, or the cause that a read of its line gives where it is poisoned (R221, R223). A line whose
home refuses the read holds an entry that is not valid. DESIGN CHOICE, log 11. -/
def State.tableEntry (s : State) (a : Nat) : Option Nat :=
  if !s.tableHeld a then some 0
  else match s.media (a / 64 * 64) with
    | some m => if s.poisoned m 64 then none else some (s.load (m + a % 64) 8)
    | none => some 0

/-- The device addresses of the table entries that a walk from a region entry reads. -/
def State.walkReads (s : State) (region va : Nat) : List Nat :=
  if !bitOf region 0 || regionMalformed region then []
  else
    let psize := bitsOf region 1 2
    let root := bitsOf region 12 32 * 4096 + 8 * rootIndex psize va
    if psize = 2 then [root]
    else match s.tableEntry root with
      | none => [root]
      | some e => if !bitOf e 0 || nodeMalformed e then [root] else [root, bitsOf e 16 28 * 65536 + 8 * leafIndex psize va]

/-- A leaf entry, checked. -/
def checkLeaf (psize : Nat) : Option Nat → Leaf
  | none => .fail causeTablePoison
  | some e => if !bitOf e 0 then .fail causeAbsent else if leafMalformed psize e then .fail causeMalformed else .ok e psize

/-- The walk of R221 from a region entry. -/
def State.walkFrom (s : State) (region va : Nat) : Leaf :=
  if !bitOf region 0 then .fail causeAbsent
  else if regionMalformed region then .fail causeMalformed
  else
    let psize := bitsOf region 1 2
    let root := s.tableEntry (bitsOf region 12 32 * 4096 + 8 * rootIndex psize va)
    if psize = 2 then checkLeaf psize root
    else match root with
      | none => .fail causeTablePoison
      | some e =>
        if !bitOf e 0 then .fail causeAbsent
        else if nodeMalformed e then .fail causeMalformed
        else checkLeaf psize (s.tableEntry (bitsOf e 16 28 * 65536 + 8 * leafIndex psize va))

/-- The region entry of an address-space id and a virtual address (R220). -/
def State.region (s : State) (asid va : Nat) : Nat := (s.hub.regions.get (asid * 16 + bitsOf va 44 4) 0).toNat

/-- The walk of R221 for an address-space id. -/
def State.walk (s : State) (asid va : Nat) : Leaf := s.walkFrom (s.region asid va) va

/-- The global address a leaf gives a virtual address (R222). -/
def State.globalOf (s : State) (leaf psize va : Nat) : Word :=
  let chip := if bitOf leaf 6 then s.hub.chipId.toNat else bitsOf leaf 44 20
  word (chip * 2 ^ 44 + bitsOf leaf 16 28 * 65536 + va % 2 ^ pageBits psize)

/-- The cached leaf of a page, if a translation cache holds one. -/
def tlbFind (tlb : List (Nat × Nat × Nat × Word)) (asid va : Nat) : Option (Nat × Nat) :=
  match tlb with
  | [] => none
  | (i, ps, vp, e) :: t => if i = asid && vp = va / 2 ^ pageBits ps then some (e.toNat, ps) else tlbFind t asid va

/-- A translation cache with a leaf added; the oldest entry leaves a full cache. -/
def tlbAdd (tlb : List (Nat × Nat × Nat × Word)) (asid ps vp : Nat) (e : Word) : List (Nat × Nat × Nat × Word) :=
  (if tlb.length < Config.tlbLimit then tlb else tlb.drop 1) ++ [(asid, ps, vp, e)]

/-- The leaf a core translates a virtual address with, under an address-space id: from its cache, or by a walk. -/
def State.leafFor (s : State) (core asid va : Nat) : Leaf :=
  let c := s.cores.get core {}
  match tlbFind c.tlb asid va with
  | some (e, ps) => .ok e ps
  | none =>
    match c.regionCache.find (asid * 16 + bitsOf va 44 4) with
    | some r => s.walkFrom r.toNat va
    | none => s.walk asid va

/-- The device address of a table line whose home refuses the walk of a unit for an address, if there is one. -/
def State.lostTable (s : State) (core asid va : Nat) : Option Nat :=
  let c := s.cores.get core {}
  match tlbFind c.tlb asid va with
  | some _ => none
  | none =>
    let r := match c.regionCache.find (asid * 16 + bitsOf va 44 4) with | some r => r.toNat | none => s.region asid va
    (s.walkReads r va).find? fun a => !s.tableHeld a

/-- The number under which an engine, an estimator context and the hub translate (24_system.md R411). -/
def engineCache (e : Nat) : Nat := 8192 + e
def estCache (e : Nat) : Nat := 9216 + e
def hubCache : Nat := 10240

/-- The state after a core translated a virtual address: its cache holds the leaf and the region entry used. -/
def State.fillTlb (s : State) (core asid va : Nat) : State :=
  let c := s.cores.get core {}
  match tlbFind c.tlb asid va, s.leafFor core asid va with
  | none, .ok e ps =>
    let key := asid * 16 + bitsOf va 44 4
    let rc := match c.regionCache.find key with
      | some _ => c.regionCache
      | none => c.regionCache.set key (word (s.region asid va))
    let c' := { c with tlb := tlbAdd c.tlb asid ps (va / 2 ^ pageBits ps) (word e), regionCache := rc }
    { s with cores := s.cores.set core c' }
  | _, _ => s

/-! The permissions and attributes of a leaf (R222). -/

def leafTensed (e : Nat) : Bool := bitOf e 11
def leafSync (e : Nat) : Bool := bitOf e 10
def leafX (e : Nat) : Bool := bitOf e 9
def leafW (e : Nat) : Bool := bitOf e 8
def leafR (e : Nat) : Bool := bitOf e 7
def leafPlacement (e : Nat) : Nat := bitsOf e 12 4

end Sys2Proof.Machine
end

