-- ==== Sys2Proof/Machine/Units.lean ====
section
/-!
DEFINITION. The units of the package and what every unit uses: access to the parts of the state, the debug module's halt and
trace records (25_debug.md R432, R436, R440), time-loss accounting (R438, R439), and the rings that the device writes into
memory (24_system.md R406, R419 to R421, 12_main_memory.md R236).
-/
namespace Sys2Proof.Machine

/-! ### Units of the package -/

def State.slot (s : State) (k : Nat) : Slot := s.slots.get k {}
def State.setSlot (s : State) (k : Nat) (v : Slot) : State := { s with slots := s.slots.set k v }
def State.modSlot (s : State) (k : Nat) (f : Slot → Slot) : State := s.setSlot k (f (s.slot k))
def State.core (s : State) (k : Nat) : Core := s.cores.get k {}
def State.setCore (s : State) (k : Nat) (v : Core) : State := { s with cores := s.cores.set k v }
def State.modCore (s : State) (k : Nat) (f : Core → Core) : State := s.setCore k (f (s.core k))
def State.cluster (s : State) (k : Nat) : Cluster := s.clusters.get k {}
def State.setCluster (s : State) (k : Nat) (v : Cluster) : State := { s with clusters := s.clusters.set k v }
def State.modCluster (s : State) (k : Nat) (f : Cluster → Cluster) : State := s.setCluster k (f (s.cluster k))
def State.stack (s : State) (k : Nat) : Stack := s.stackTab.get k {}
def State.setStack (s : State) (k : Nat) (v : Stack) : State := { s with stackTab := s.stackTab.set k v }
def State.modStack (s : State) (k : Nat) (f : Stack → Stack) : State := s.setStack k (f (s.stack k))
def State.modHub (s : State) (f : Hub → Hub) : State := { s with hub := f s.hub }

/-- The slot that issues, its core, and its cluster. -/
def State.sl (s : State) : Slot := s.slot s.cur
def coreOf (slot : Nat) : Nat := slot / 4
def clusterOf (core : Nat) : Nat := core / 8
def State.curCore (s : State) : Nat := coreOf s.cur
def State.modCur (s : State) (f : Slot → Slot) : State := s.modSlot s.cur f

/-- A context of a core. -/
def State.ctx (s : State) (core c : Nat) : Ctx := (s.core core).ctxs.get c {}
def State.setCtx (s : State) (core c : Nat) (v : Ctx) : State :=
  s.modCore core fun k => { k with ctxs := k.ctxs.set c v }
def State.modCtx (s : State) (core c : Nat) (f : Ctx → Ctx) : State := s.setCtx core c (f (s.ctx core c))

/-- The context of the clause that issues. -/
def State.curCtx (s : State) : Ctx := s.ctx s.curCore s.sl.clause.ctx

/-- The address-space id a slot translates under (R198). -/
def State.asid (s : State) (k : Nat) : Nat := (s.ctx (coreOf k) (s.slot k).clause.ctx).kasid.toNat

/-- Adds a machine event to those due. -/
def State.post (s : State) (e : Instr) : State := { s with agenda := s.agenda ++ [e] }

/-- A launch record. -/
def State.launch (s : State) (n : Nat) : Launch := s.hub.launches.get n {}
def State.setLaunch (s : State) (n : Nat) (l : Launch) : State := s.modHub fun h => { h with launches := h.launches.set n l }
def State.modLaunch (s : State) (n : Nat) (f : Launch → Launch) : State := s.setLaunch n (f (s.launch n))

/-- A virtual function's configuration. -/
def State.vf (s : State) (v : Nat) : Vf := s.hub.vfs.get v {}
def State.setVf (s : State) (v : Nat) (x : Vf) : State := s.modHub fun h => { h with vfs := h.vfs.set v x }
def State.modVf (s : State) (v : Nat) (f : Vf → Vf) : State := s.setVf v (f (s.vf v))

/-- The low 32 bits of device time. -/
def State.stamp (s : State) : BitVec 32 := s.ktick.setWidth 32

/-! ### Debug and trace (25_debug.md R432, R436, R440) -/

def State.debug (s : State) (cl : Nat) : Debug := (s.cluster cl).dbg
def State.modDebug (s : State) (cl : Nat) (f : Debug → Debug) : State := s.modCluster cl fun c => { c with dbg := f c.dbg }

/-- The debug module holds a slot: its cluster is halted, and no STEP has released the slot (R433). -/
def State.stopped (s : State) (k : Nat) : Bool :=
  let d := s.debug (clusterOf (coreOf k))
  d.halted && d.stepping != some k

/-- The 16-byte units of the records in a trace buffer. -/
def traceUnits : List (List Word) → Nat
  | [] => 0
  | r :: t => r.length / 2 + traceUnits t

/-- A list of words padded with 0 to whole 16-byte units. -/
def padUnits (l : List Word) : List Word := if l.length % 2 = 1 then l ++ [0] else l

/-- The header word of a trace record (R440). -/
def traceHeader (kind units cl core slot : Nat) (tag : Nat) : Word :=
  word (kind + units * 2 ^ 8 + (cl + core % 8 * 2 ^ 9 + slot % 4 * 2 ^ 12) * 2 ^ 16 + tag % 2 ^ 16 * 2 ^ 32)

/-- Appends a trace record to a cluster's buffer of 8 KiB, or counts it in TRCCTL.DROP; nothing while EN is clear. -/
def State.traceRecord (s : State) (cl kind core slot tag : Nat) (data : List Word) : State :=
  let d := s.debug cl
  if !bit d.trcCtl 63 then s
  else
    let body := padUnits data
    let r := traceHeader kind (1 + body.length / 2) cl core slot tag :: s.ktick :: body
    if 512 < traceUnits d.trace + r.length / 2 then
      s.modDebug cl fun d => { d with trcCtl := withFld d.trcCtl 0 32 (least (2 ^ 32 - 1) (fld d.trcCtl 0 32 + 1)) }
    else s.modDebug cl fun d => { d with trace := d.trace ++ [r] }

/-- The bytes of a segment's body. -/
def segmentLimit : Nat := 65536 - 128

/-- The records gathered fill a segment. -/
def Trace.full (t : Trace) : Bool := decide (segmentLimit / 16 ≤ traceUnits t.records + 5)

/-- Records go to the segment that the hub gathers; one that they fill is sealed. -/
def State.toSegment (s : State) (rs : List (List Word)) : State :=
  if rs.isEmpty then s
  else
    let t := s.hub.trace
    let first := ((t.records ++ rs).head?.bind fun r => r[1]?).getD 0
    let s := s.modHub fun h => { h with trace := { h.trace with records := h.trace.records ++ rs } }
    let s := if t.records.isEmpty then { s with timers := s.timers ++ [(first.toNat + 2 ^ 20, .traceSegmentSeal)] } else s
    if s.hub.trace.full && !s.agenda.contains .traceSegmentSeal then s.post .traceSegmentSeal else s

/-- A replay input under CAPTURE (R442): records of type 0x06 with at most eight words each, which are never dropped. -/
def State.captureInput (s : State) (cl core slot tag : Nat) (ws : List Word) : Nat → State
  | 0 => s
  | n + 1 =>
    if !bit s.hub.trace.cfg 62 || ws.isEmpty then s
    else
      let body := padUnits (ws.take 8)
      (s.toSegment [traceHeader 0x06 (1 + body.length / 2) cl core slot tag :: s.ktick :: body]).captureInput cl core slot tag (ws.drop 8) n

/-- The tags of replay inputs, by kind. DESIGN CHOICE, log 21. -/
def inImage : Nat := 1
def inCounter : Nat := 2
def inRandom : Nat := 3
def inTick : Nat := 4
def inHost : Nat := 5
def inStorage : Nat := 6
def inFrame : Nat := 7
def inFabric : Nat := 8

/-- The trigger lines of a mask, from line i up, pulsed one after the other. -/
def State.pulse (s : State) (mask i : Nat) : Nat → State
  | 0 => s
  | n + 1 => (if bitOf mask i then s.post (.triggerLinePulse i) else s).pulse mask (i + 1) n

/-- Halts a cluster, whose RESUME and STEP bits end (log 114), with a cause at a core and slot (R432): DBGSTAT takes the cause, the count
rises, and the TRIGOUT lines
are pulsed. A halt in force ignores further causes. -/
def State.haltCluster (s : State) (cl cause core slot : Nat) : State :=
  let d := s.debug cl
  if d.halted then s
  else
    let st := word (2 ^ 63 + cause * 2 ^ 60 + core % 8 * 2 ^ 57 + slot % 4 * 2 ^ 55 + (fld d.stat 0 32 + 1) % 2 ^ 32)
    let s := s.modDebug cl fun d => { d with halted := true, haltedAt := s.stamp, stepping := none, stat := st, ctl := withFld d.ctl 61 2 0 }
    (s.traceRecord cl 0x03 core slot 0 []).pulse (fld d.ctl 0 8) 0 8

/-! ### Time-loss accounting (25_debug.md R438, R439) -/

/-- A difference of device times modulo 2^32, 0 where it is 2^31 or more. -/
def span (a b : BitVec 32) : Nat := let d := (a - b).toNat; if d < 2 ^ 31 then d else 0

/-- A difference that counts as 0 and as an anomaly. -/
def spanBad (a b : BitVec 32) : Bool := decide (2 ^ 31 ≤ (a - b).toNat)

/-- The saturating maximum of a row. -/
def lossMax (m : BitVec 32) (v : Nat) : BitVec 32 := BitVec.ofNat 32 (greatest m.toNat v)

/-- The row that a key takes: its own, else the lowest invalid row, else the overflow row 64. -/
def lossRowFor (t : Tab LossRow) (key : BitVec 32) (device : Bool) (i : Nat) : Nat → Option Nat → Nat
  | 0, free => free.getD 64
  | n + 1, free =>
    let r := t.get i {}
    if r.valid && r.key == key && r.device == device then i
    else lossRowFor t key device (i + 1) n (free.orElse fun _ => if r.valid then none else some i)

/-- The accounts of a message: its key, whether a device or a remote package sent it, and the times of its send or ingress, its arrival and
its bind. Transit counts from the ingress of a message of another package: DESIGN CHOICE, log 115. -/
def LossRow.add (r : LossRow) (key : BitVec 32) (device remote : Bool) (sent arrived bound now : BitVec 32) : LossRow :=
  let transit := span arrived sent
  let wait := span bound arrived
  let run := span now bound
  let bad := (spanBad arrived sent).toNat + (spanBad bound arrived).toNat + (spanBad now bound).toNat
  { r with key := key, valid := true, device := r.device || device, remote := r.remote || remote, count := r.count + 1,
           transit := r.transit + word transit, wait := r.wait + word wait, run := r.run + word run,
           transitMax := lossMax r.transitMax transit, waitMax := lossMax r.waitMax wait, runMax := lossMax r.runMax run,
           anomaly := r.anomaly + BitVec.ofNat 32 bad }

/-- A clause reaches a boundary: the message that bound it is accounted in its cluster's loss table, once. One that it reaches while its
cluster is halted counts to the halt. -/
def State.boundary (s : State) (k : Nat) : State :=
  let cl := clusterOf (coreOf k)
  let c := (s.slot k).clause
  match c.account with
  | none => s
  | some (key, device, remote, sent, arrived) =>
    let s := s.modSlot k fun sl => { sl with clause := { sl.clause with account := none } }
    if !bit (s.debug cl).lossCtl 63 then s
    else
      let i := lossRowFor (s.debug cl).loss key device 0 64 none
      let key := if i = 64 then 0xFFFFFFFF else key
      let now := if (s.debug cl).halted then (s.debug cl).haltedAt else s.stamp
      s.modDebug cl fun d =>
        { d with loss := d.loss.set i ((d.loss.get i {}).add key device remote sent arrived c.bound now) }

/-! ### Rings in memory (24_system.md R406, R419 to R421) -/

/-- Entries a ring of n places can take: a ring whose tail would meet its head is full. -/
def ringFull (head tail n : Nat) : Bool := (tail + 1) % n == head % n

/-- The chip and the device address of a global address (12_main_memory.md R217). -/
def chipOf (ga : Word) : BitVec 20 := ga.extractLsb' 44 20
def devOf (ga : Word) : Nat := ga.toNat % 2 ^ 44

/-- A chip that cannot be reached: its id is never assigned, its package is down (01_machine.md R12), or no port is left. -/
def State.chipDown (s : State) (chip : Nat) : Bool :=
  decide (Config.firstUnassignedChip ≤ chip) || s.hub.down.contains chip
    || (!s.hub.lostPorts.isEmpty && (decide (16 ≤ s.hub.lostPorts.length) || Config.routeless s.hub.lostPorts chip))

/-- The reply tag of a line that the hub reads over the management path (24_system.md R423), or of a record that it writes. -/
def tableTag : BitVec 32 := 0x50000

/-- An entry of a ring written at a global address: in memory of this chip, or by a write request of the management path to another; a
chip that cannot be reached takes none. The request, whose acknowledgement nothing waits for: DESIGN CHOICE, log 121. -/
def State.ringWrite (s : State) (ga : Word) (ws : List Word) : State :=
  let a := devOf ga
  if chipOf ga = s.hub.chipId then s.devWrite a (bytesOfWords ws)
  else if s.chipDown (chipOf ga).toNat then s
  else { s with fabricOut := s.fabricOut ++
    [{ kind := 0x21, units := BitVec.ofNat 3 (1 + ws.length / 2), dstChip := chipOf ga, srcChip := s.hub.chipId, tag := tableTag,
       unit := homeOf (dpitPlacement (s.dpit (pageOf a))) a, stamp := s.stamp, payload := [ga, word (8 * ws.length)] ++ ws }] }

/-- The base of a ring register laid out as EQBASE, a global address, and its number of entries; none where the register holds no
size from 8 to 16. -/
def ringBase (reg : Word) : Option (Word × Nat) :=
  let n := fld reg 0 12
  if 8 ≤ n && n ≤ 16 then some (withFld reg 0 12 0, 2 ^ n) else none

/-- A record written at the tail of a ring of entries of a size in bytes: the state and the new tail, or none where the ring
takes no record. -/
def State.ringPut (s : State) (reg : Word) (head tail size : Nat) (ws : List Word) : Option (State × Nat) :=
  match ringBase reg with
  | none => none
  | some (a, n) =>
    if ringFull head tail n then none
    else some (s.ringWrite (a + word (size * (tail % n))) (ws.take (size / 8)), (tail + 1) % n)

/-- A 32-byte record for a function's error ring; a ring that takes none counts it in VFCNT. -/
def State.errorRecord (s : State) (v : Nat) (ws : List Word) : State :=
  let x := s.vf v
  match s.ringPut x.eqBase x.eqHead x.eqTail 32 ws with
  | some (s, t) => s.modVf v fun x => { x with eqTail := t, vectors := insertNat x.vectors 0 }
  | none => s.modVf v fun x => { x with cnt := withFld x.cnt 16 16 (least 0xFFFF (fld x.cnt 16 16 + 1)), vectors := insertNat x.vectors 2 }

/-- A 32-byte record for the kernel's error ring (R420). -/
def State.kernelRecord (s : State) (ws : List Word) : State :=
  match s.ringPut s.hub.keq s.hub.keqHead s.hub.keqTail 32 ws with
  | some (s, t) => s.modHub fun h => { h with keqTail := t }
  | none => s

/-- A 64-byte record for a function's completion ring (22_launch_estimate.md R378). -/
def State.completionRecord (s : State) (v : Nat) (ws : List Word) : State :=
  let x := s.vf v
  match s.ringPut x.cqBase x.cqHead x.cqTail 64 ws with
  | some (s, t) => s.modVf v fun x => { x with cqTail := t, vectors := insertNat x.vectors 1 }
  | none => s.modVf v fun x => { x with cnt := withFld x.cnt 0 16 (least 0xFFFF (fld x.cnt 0 16 + 1)), vectors := insertNat x.vectors 2 }

/-- A machine-check record in the machine-check ring (R421); one that the ring does not take is counted in KMCLOST. -/
def State.machineCheck (s : State) (r : McRecord) : State :=
  let ws := [word (r.kind.toNat + r.unitType.toNat * 2 ^ 16 + r.unit.toNat * 2 ^ 32), r.addr, s.ktick, r.detail]
  match s.ringPut s.hub.kmc s.hub.kmcHead s.hub.kmcTail 32 ws with
  | some (s, t) => s.modHub fun h => { h with kmcTail := t }
  | none => s.modHub fun h => { h with kmcLost := if h.kmcLost = -1 then h.kmcLost else h.kmcLost + 1 }

end Sys2Proof.Machine
end

