-- ==== Sys2Proof/Machine/Ops.lean ====
section
/-!
DEFINITION. The named operations of a slot and its core: registers with their full and empty state (04_encoding.md R65),
the order of checks (R73), completing an instruction with the loop-end test (05_scalar.md R87), taking a trap (R97, R98,
24_system.md R405, R406), messages and far requests (06_messages.md R101 to R107, 11_memory_access.md R198 to R202), and the
near window (R195, R196, 14_ordering.md R248).
-/
namespace Sys2Proof.Machine

/-- What an instruction's checks and effect come to: a result, a trap with its cause and `kaddr`, or a stall, after which the
slot tries the same word again. -/
inductive Res (α : Type) where
  | ok (a : α)
  | trap (cause : Nat) (kaddr : Word)
  | stall
  deriving DecidableEq, Repr

/-- Goes on with a result. -/
def Res.bind {α β : Type} (r : Res α) (f : α → Res β) : Res β :=
  match r with
  | .ok a => f a
  | .trap c a => .trap c a
  | .stall => .stall

/-- Traps unless a condition holds. -/
def require (c : Bool) (cause : Nat) (kaddr : Word) : Res Unit := if c then .ok () else .trap cause kaddr

/-- Stalls unless a condition holds. -/
def stallUnless (c : Bool) : Res Unit := if c then .ok () else .stall

/-! ### Registers (R65) -/

/-- The value of an x register; x0 reads 0. -/
def Slot.xr (sl : Slot) (r : Nat) : Word := if r = 0 then 0 else sl.x.get r 0

/-- The value of a v register. -/
def Slot.vr (sl : Slot) (r : Nat) : VWord := sl.v.get r 0

/-- The full/empty state of an x register; x0 is always full. -/
def Slot.xmark (sl : Slot) (r : Nat) : Mark := if r = 0 then .full else sl.xm.get r .full

/-- The full/empty state of a v register. -/
def Slot.vmark (sl : Slot) (r : Nat) : Mark := sl.vm.get r .full

/-- The slot with an x register written full; a write to x0 is discarded. A write removes a marker. -/
def Slot.setX (sl : Slot) (r : Nat) (v : Word) : Slot :=
  if r = 0 then sl else { sl with x := sl.x.set r v, xm := sl.xm.set r .full }

/-- The slot with a v register written full. -/
def Slot.setV (sl : Slot) (r : Nat) (v : VWord) : Slot := { sl with v := sl.v.set r v, vm := sl.vm.set r .full }

/-- The slot with consecutive x registers written; a group that begins at x0 discards its first word. -/
def Slot.setXs (sl : Slot) (r : Nat) : List Word → Slot
  | [] => sl
  | w :: t => (sl.setX r w).setXs (r + 1) t

/-- The slot with consecutive v registers written. -/
def Slot.setVs (sl : Slot) (r : Nat) : List VWord → Slot
  | [] => sl
  | w :: t => (sl.setV r w).setVs (r + 1) t

/-- The slot with n registers from r marked empty; x0 is never marked. -/
def Slot.emptyRegs (sl : Slot) (vec : Bool) (r : Nat) : Nat → Slot
  | 0 => sl
  | n + 1 =>
    (if vec then { sl with vm := sl.vm.set r .empty }
     else if r = 0 then sl else { sl with xm := sl.xm.set r .empty }).emptyRegs vec (r + 1) n

/-- The slot with a register marked (11_memory_access.md R202): it is full, and its value holds the address. -/
def Slot.markReg (sl : Slot) (vec : Bool) (r cause : Nat) (addr : Word) : Slot :=
  if vec then { sl with v := sl.v.set r (addr.setWidth 512), vm := sl.vm.set r (.marked cause addr) }
  else if r = 0 then sl else { sl with x := sl.x.set r addr, xm := sl.xm.set r (.marked cause addr) }

/-- The slot with n registers from r marked. -/
def Slot.markRegs (sl : Slot) (vec : Bool) (r cause : Nat) (addr : Word) : Nat → Slot
  | 0 => sl
  | n + 1 => (sl.markReg vec r cause addr).markRegs vec (r + 1) cause addr n

/-- The values of n x registers from r. -/
def Slot.xs (sl : Slot) (r : Nat) : Nat → List Word
  | 0 => []
  | n + 1 => sl.xr r :: sl.xs (r + 1) n

/-- The values of n v registers from r. -/
def Slot.vs (sl : Slot) (r : Nat) : Nat → List VWord
  | 0 => []
  | n + 1 => sl.vr r :: sl.vs (r + 1) n

/-- The virtual line address of a slot's next instruction. -/
def Slot.lineVa (sl : Slot) : Word := word (sl.pc.toNat / 64 * 64)

/-! ### kstat (05_scalar.md R82) -/

def Slot.flags (sl : Slot) : Nat := fld sl.kstat 16 5
def Slot.pp (sl : Slot) : Bool := bit sl.kstat 3
def Slot.priv (sl : Slot) : Nat := fld sl.kstat 0 2
def Slot.repro (sl : Slot) : Bool := bit sl.kstat 5
def Slot.ap (sl : Slot) : Bool := bit sl.kstat 4

/-- Accrues floating-point flags (R82). -/
def Slot.raise (sl : Slot) (f : BitVec 5) : Slot := { sl with kstat := sl.kstat ||| (f.setWidth 64 <<< 16) }

/-- Writes the prefix-pending bit (04_encoding.md R66). -/
def Slot.setPP (sl : Slot) (b : Bool) : Slot := { sl with kstat := withFld sl.kstat 3 1 b.toNat }

/-- Writes the arrival-performed bit. -/
def Slot.setAP (sl : Slot) (b : Bool) : Slot := { sl with kstat := withFld sl.kstat 4 1 b.toNat }

/-! ### Completing an instruction (R66, R87) -/

/-- The address after an instruction that transfers no control, with the loop counts it leaves: loop 1 first, loop 0 only
where loop 1 did not branch back, so that the next address is still the next word (R87). DEDUCED, log 89. -/
def Slot.loopEnd (sl : Slot) : Slot :=
  let hit1 := sl.kloop1 != 0 && sl.pc == sl.kle1
  let c1 := if hit1 then sl.kloop1 - 1 else sl.kloop1
  if hit1 && c1 != 0 && sl.kls1 != sl.pc + 4 then { sl with kloop1 := c1, pc := sl.kls1 }
  else
    let hit0 := sl.kloop0 != 0 && sl.pc == sl.kle0
    let c0 := if hit0 then sl.kloop0 - 1 else sl.kloop0
    { sl with kloop1 := c1, kloop0 := c0, pc := if hit0 && c0 != 0 then sl.kls0 else sl.pc + 4 }

/-- An instruction completes without transferring control: the prefix is spent (R66) and the next address follows R87. -/
def Slot.complete (sl : Slot) : Slot := { (sl.setPP false).loopEnd with wait := .none, skipBreak := false, resolved := none, fetched := [], heldTiles := [] }

/-- A taken branch or jump completes: no loop count changes (R87). -/
def Slot.jump (sl : Slot) (target : Word) : Slot := { sl.setPP false with pc := target, wait := .none, skipBreak := false, resolved := none, fetched := [] }

/-- The instruction of a slot completes. -/
def State.completeAt (s : State) (k : Nat) : State := s.modSlot k Slot.complete

/-- The instruction of the issuing slot completes. -/
def State.complete (s : State) : State := s.completeAt s.cur

/-- Writes an x register of the issuing slot and completes. -/
def State.finishX (s : State) (rd : Nat) (v : Word) : State := s.modCur fun sl => (sl.setX rd v).complete

/-- Writes an x register, accrues flags and completes. -/
def State.finishXF (s : State) (rd : Nat) (v : Word) (f : BitVec 5) : State :=
  s.modCur fun sl => ((sl.raise f).setX rd v).complete

/-- Writes v registers from rd up, accrues flags and completes. -/
def State.finishV (s : State) (rd : Nat) (vs : List VWord) (f : BitVec 5) : State :=
  s.modCur fun sl => ((sl.raise f).setVs rd vs).complete

/-! ### Messages (06_messages.md R101 to R107) -/

/-- A reply tag that names a register (R103). -/
def regTag (gen : Nat) (vec : Bool) (reg slot core : Nat) : BitVec 32 :=
  BitVec.ofNat 32 (2 * 2 ^ 30 + gen % 1024 * 2 ^ 20 + vec.toNat * 2 ^ 19 + reg % 32 * 2 ^ 14 + slot % 4 * 2 ^ 12 + core % 4096)

/-- A reply tag that names a clause record (R103). -/
def recTag (index core : Nat) : BitVec 32 := BitVec.ofNat 32 (3 * 2 ^ 30 + index % 2 ^ 18 * 2 ^ 12 + core % 4096)

/-- A reply tag that names a channel (R103). -/
def chanTag (chan core : Nat) : BitVec 32 := BitVec.ofNat 32 (1 * 2 ^ 30 + chan % 256 * 2 ^ 12 + core % 4096)

/-- The reply tag of a request of a management core: its slot and generation. Its core has no number in a reply tag, and TKIND 0 with bit
16 is the model's (log 6). -/
def mgmtTag (gen k : Nat) : BitVec 32 :=
  BitVec.ofNat 32 (gen % 1024 * 2 ^ 20 + 2 ^ 16 + k % 4 * 2 ^ 12 + (coreOf k - Config.firstMgmtCore) % 4096)

/-- The reply tag of a line that a slot's fetch reads from another package. -/
def fetchTag (k : Nat) : BitVec 32 := BitVec.ofNat 32 (2 ^ 17 + k % 4 * 2 ^ 12 + coreOf k % 4096)

def tagKind (t : BitVec 32) : Nat := bitsOf t.toNat 30 2
def tagGen (t : BitVec 32) : Nat := bitsOf t.toNat 20 10
def tagVec (t : BitVec 32) : Bool := bitOf t.toNat 19
def tagReg (t : BitVec 32) : Nat := bitsOf t.toNat 14 5
def tagSlot (t : BitVec 32) : Nat := bitsOf t.toNat 12 2
def tagCore (t : BitVec 32) : Nat := bitsOf t.toNat 0 12
def tagIndex (t : BitVec 32) : Nat := bitsOf t.toNat 12 18
def tagChan (t : BitVec 32) : Nat := bitsOf t.toNat 12 8

/-- The slot a register tag names. -/
def tagSlotKey (t : BitVec 32) : Nat := tagCore t * 4 + tagSlot t

/-- A request or a reply of a management core. -/
def tagMgmt (t : BitVec 32) : Bool := tagKind t == 0 && bitsOf t.toNat 16 4 == 1

/-- The slot that a reply's tag names. -/
def replySlot (t : BitVec 32) : Nat := if tagMgmt t then (Config.firstMgmtCore + tagCore t) * 4 + tagSlot t else tagSlotKey t

/-- The 32-byte header of a message in four words (R101). -/
def msgHeader (m : Msg) : List Word :=
  [ word (m.dstCore.toNat + m.dstChip.toNat * 2 ^ 12 + m.chan.toNat * 2 ^ 32 + m.kind.toNat * 2 ^ 40
      + (m.units.toNat + m.rpay.toNat * 8) * 2 ^ 48 + m.nclass.toNat * 2 ^ 56),
    word (m.tag.toNat + (m.srcChip.toNat + m.srcVf.toNat * 2 ^ 20) * 2 ^ 32),
    m.key,
    word (m.seq.toNat + m.stamp.toNat * 2 ^ 32) ]

/-- The key of a device source (R121). -/
def deviceKey (id rest : Nat) : Word := word (0xFFFF * 2 ^ 48 + id * 2 ^ 40 + rest)

/-- Numbers a message of a device source (R121) and puts it in the open delivery window of the launch it belongs to. The numbers
of a source count overall, and under REPRO within the window. -/
def State.numbered (s : State) (m : Msg) : State × Msg :=
  let l := s.launch m.launch
  let src := m.key.toNat % 2 ^ 48 + (if l.repro then m.launch * 2 ^ 48 else 0)
  let n := s.srcSeq.get src 0
  ({ s with srcSeq := s.srcSeq.set src (n + 1) },
   { m with seq := BitVec.ofNat 32 n, stamp := s.stamp, srcChip := s.hub.chipId, window := l.window })

/-- Puts a message of a device source on this chip's network. -/
def State.sendDevice (s : State) (m : Msg) : State :=
  let (s, m) := s.numbered m
  { s with net := s.net ++ [m] }

/-- Word 0 of an error notice (R107). -/
def noticeWord (code cause status : Nat) : Word := word (code + cause * 2 ^ 16 + status * 2 ^ 24)

/-- An error notice of a core to channel 254 of one of its contexts (R107). -/
def State.coreNotice (s : State) (core c launch code cause status : Nat) (w1 w2 w3 : Word) : State :=
  s.sendDevice { dstChip := s.hub.chipId, dstCore := BitVec.ofNat 12 core, chan := 254, kind := 0x0D, units := 2,
                 srcVf := BitVec.ofNat 7 (s.ctx core c).vf, key := deviceKey 0x01 core, ctx := BitVec.ofNat 2 c,
                 launch := launch, payload := [noticeWord code cause status, w1, w2, w3] }

/-- `Msg.unit` of a resume that a home sends for the wait its clause made, as opposed to one from any other sender. -/
def homeResume : Nat := 1

/-- The reply of status 3 that a request to an unreachable chip receives (R104, 11_memory_access.md R199); none for a
message that asks for none. -/
def peerDownReply (m : Msg) : Option Msg :=
  let back := { m with dstChip := m.srcChip, dstCore := m.tag.setWidth 12, chan := 0, payload := [word 3, 0], units := 1, rpay := false, arrival := none, ingress := none }
  match m.kind.toNat with
  | 0x20 => some { back with kind := 0x28 }
  | 0x21 => some { back with kind := 0x29 }
  | 0x22 => some { back with kind := 0x29 }
  | 0x23 => some { back with kind := 0x29 }
  | 0x25 => some { back with kind := 0x02, rstat := 3, unit := homeResume, payload := [0, word 3] }
  | 0x30 => some { back with kind := 0x33 }
  | 0x31 => some { back with kind := 0x33 }
  | 0x32 =>
    if (m.payload.getD 1 0).toNat % 256 = 3 then some { back with kind := 0x02, rstat := 3, unit := homeResume, payload := [0, word 3] }
    else some { back with kind := 0x33 }
  | 0x34 => some { back with kind := 0x35 }
  | 0x36 => some { back with kind := 0x37 }
  | 0x38 => some { back with kind := 0x39 }
  | 0x3D => some { back with kind := 0x3E }
  | 0x3F => some { back with kind := 0x33 }
  | _ => none

/-- The window of another chip into which a reduction goes (15_sync.md R273). -/
def State.foreignWindow (s : State) (m : Msg) : Option Window :=
  let a := (m.payload.getD 0 0).toNat % 2 ^ 44
  if m.kind = 0x31 then s.hub.windows.find? fun w => w.home == m.dstChip && decide (w.base ≤ a) && decide (a < w.base + w.len) else none

/-- A message leaves by this package's fabric port: a reduction into another chip's window that has another code, or that this chip
does not contribute to, is refused with status 2; under REPRO a second contribution to an element waits until the round ends (15_sync.md
R273, R275). -/
def State.portSend (s : State) (m : Msg) : State :=
  match s.foreignWindow m with
  | none => { s with fabricOut := s.fabricOut ++ [m] }
  | some w =>
    let ga := m.payload.getD 0 0
    let who := (s.hub.chipId, tagCore m.tag, m.ctx, m.launch)
    if fld (m.payload.getD 1 0) 0 5 ≠ w.code || !w.members.contains s.hub.chipId.toNat then
      { s with net := s.net ++ [{ m with dstChip := m.srcChip, dstCore := m.tag.setWidth 12, kind := 0x33, units := 1, payload := [2, 0] }] }
    else
    let s := s.modHub fun h => { h with windows := h.windows.map fun x =>
      if x.home = w.home && x.id == w.id && !x.asked.contains who then { x with asked := x.asked ++ [who] } else x }
    if !w.repro then { s with fabricOut := s.fabricOut ++ [m] }
    else if s.hub.portOpen.contains ga then s.modHub fun h => { h with portHeld := h.portHeld ++ [m] }
    else { s with fabricOut := s.fabricOut ++ [m] }.modHub fun h => { h with portOpen := h.portOpen ++ [ga] }

/-- A contribution of this package to an element of another chip's window is acknowledged: the next one held follows. -/
def State.portFree (s : State) (ga : Word) : State :=
  if !s.hub.portOpen.contains ga then s
  else
    let s := s.modHub fun h => { h with portOpen := h.portOpen.erase ga }
    match s.hub.portHeld.find? fun m => m.payload.getD 0 0 == ga with
    | none => s
    | some m => (s.modHub fun h => { h with portHeld := h.portHeld.erase m }).portSend m

/-- Puts a message on its way: on this chip's network, toward another package, or, where the chip cannot be reached, into
what R104 gives for it: a notice 0x0002 for a `send`, or a `reply` of its kind (log 97), the peer-down marker for a register reply asked for by `sendr` (its
reply of status 3), the status 3 reply of a far request. -/
def State.route (s : State) (m : Msg) : State :=
  if m.dstChip = s.hub.chipId then { s with net := s.net ++ [m] }
  else if s.chipDown m.dstChip.toNat then
    match peerDownReply m with
    | some r => { s with net := s.net ++ [r] }
    | none =>
      if m.kind = 0x00 then
        if tagKind m.tag = 2 then
          { s with net := s.net ++ [{ m with dstChip := m.srcChip, dstCore := m.tag.setWidth 12, kind := 0x01,
                                             payload := [], units := 0, rstat := 3 }] }
        else
          let s :=
            if tagKind m.tag = 3 then
              { s with net := s.net ++ [{ m with dstChip := m.srcChip, dstCore := m.tag.setWidth 12, srcChip := m.dstChip, kind := 0x02, rpay := false,
                                                 payload := [], units := 0, rstat := 3 }] }
            else s
          s.coreNotice m.unit m.ctx.toNat m.launch 0x0002 0x92 3
            (word (m.dstCore.toNat + m.dstChip.toNat * 2 ^ 12 + m.chan.toNat * 2 ^ 32)) m.key (word m.seq.toNat)
      else s
  else s.portSend m

/-! ### Traps (05_scalar.md R97, R98; 24_system.md R405, R406) -/

/-- The causes a clause may handle at channel 255 (R405). -/
def clauseMayHandle (cause : Nat) (atFetch : Bool) : Bool :=
  cause < 5 || cause == 6 || (0x10 ≤ cause && cause ≤ 0x18) || (0x20 ≤ cause && cause < 0x30)
    || (0x30 ≤ cause && cause < 0x40 && cause != 0x39) || (0x40 ≤ cause && cause < 0x50)
    || (0x53 ≤ cause && cause ≤ 0x5A) || cause == 0x5C || cause == 0x5D || (cause == 0x60 && !atFetch) || cause == 0x62
    || (0x70 ≤ cause && cause < 0x90) || (0x90 ≤ cause && cause < 0xA0 && cause != 0x95) || (0xA0 ≤ cause && cause < 0xB0)
    || (0xB1 ≤ cause && cause ≤ 0xB4) || cause == 0xB6 || (0xB8 ≤ cause && cause ≤ 0xBA) || cause == 0xBC || cause == 0xBD

/-- The slot word of a slot's last trap (R98, R409). -/
def slotWord (k gen : Nat) (trapNo : BitVec 32) : Word :=
  word (coreOf k % 4096 + k % 4 * 2 ^ 12 + gen % 1024 * 2 ^ 14 + trapNo.toNat * 2 ^ 32)

/-- The payload of the trap report of a slot (R98). -/
def Slot.report (sl : Slot) (k : Nat) : List Word :=
  [sl.kcause, sl.kaddr, sl.kepc, slotWord k sl.gen sl.trapNo, sl.kpath, sl.kstat, sl.kprog, 0]

/-- An entry of the trap ring written at the tail (R406): 64 bytes at the base. -/
def State.trapRingWrite (s : State) (payload : List Word) : State :=
  let h := s.hub
  (s.ringWrite (h.ktrap + word (64 * (h.ktrapTail % 4096))) payload).modHub
    fun h => { h with ktrapTail := (h.ktrapTail + 1) % 4096 }

/-- Adds 1 to the field of a context's error counters at a bit position, saturating (24_system.md R422). -/
def Ctx.countErr (c : Ctx) (lo : Nat) : Ctx :=
  { c with ctxErr := withFld c.ctxErr lo 16 (least 0xFFFF (fld c.ctxErr lo 16 + 1)) }

/-- A trap report goes to the trap ring, with the context and function in word 7; a full ring leaves it at the slot (R406). -/
def State.reportToRing (s : State) (k : Nat) (payload : List Word) : State :=
  let c := (s.slot k).clause.ctx
  let p := payload.take 7 ++ [word (c + (s.ctx (coreOf k) c).vf * 2 ^ 8)]
  if ringFull s.hub.ktrapHead s.hub.ktrapTail 4096 then
    (s.modSlot k fun sl => { sl with ringReport := some p }).post (.trapRingEntry k)
  else s.trapRingWrite p

/-- All four slots of a core are frozen. -/
def State.allFrozen (s : State) (core : Nat) : Bool :=
  let f := fun i => (s.slot (core * 4 + i)).phase == .frozen
  f 0 && f 1 && f 2 && f 3

/-- The handler entry of channel 255 is VALID: bit 36 set, reserved bit 39 clear (06_messages.md R45, R106). Its other reserved
bits are ignored: log 93. -/
def entryValid (e : Word) : Bool := bit e 36 && !bit e 39

/-- Sends the trap report of a slot (R98): to channel 255 of its context where all of R98 holds, else to the ring; NOTICEK counts those
for which only the channel is missing (24_system.md R422). The report's header carries the clause's digest and sequence. -/
def State.sendReport (s : State) (k cause : Nat) (atFetch : Bool) (payload : List Word) : State :=
  let sl := s.slot k
  let core := coreOf k
  let c := sl.clause.ctx
  let ctx := s.ctx core c
  let valid := entryValid (ctx.chans.get 255 {}).entry
  let may := clauseMayHandle cause atFetch && sl.priv == 0 && !s.allFrozen core && decide (core < Config.firstMgmtCore)
  if may && valid then
    { s with net := s.net ++ [{ dstChip := s.hub.chipId, dstCore := BitVec.ofNat 12 core, chan := 255, kind := 0x0C, units := 4,
                                srcChip := s.hub.chipId, srcVf := BitVec.ofNat 7 ctx.vf, key := sl.kpath,
                                seq := sl.kseq.setWidth 32, stamp := s.stamp, ctx := BitVec.ofNat 2 c,
                                launch := sl.clause.launch, payload := payload }] }
  else
    let s := if may then s.modCtx core c fun x => x.countErr 48 else s
    s.reportToRing k payload

/-- The slot of a trap (R97): it records cause, address and the address of the faulting word, counts its trap number, and freezes with
everything else kept. -/
def Slot.frozenWith (sl : Slot) (cause : Nat) (kaddr : Word) : Slot :=
  { sl with kcause := word cause, kaddr := kaddr, kepc := sl.pc, phase := .frozen, wait := .none,
            trapNo := sl.trapNo + 1, resolved := none, fetched := [], heldTiles := [] }

/-- A pre-empted context may have lost its last running clause: the core's dispatcher looks at its save (06_messages.md R119). -/
def State.wakeSave (s : State) (core c : Nat) : State :=
  if (s.ctx core c).preempted && !(s.ctx core c).saved then s.post (.handlerDispatch (core * 4)) else s

/-- A slot stalls on no stream any more (11_memory_access.md R211). -/
def State.leaveStreams (s : State) (k : Nat) : State :=
  if (s.slot k).q.isEmpty then s
  else s.modCluster (clusterOf (coreOf k)) fun c => { c with streams := c.streams.map fun e => (e.1, { e.2 with waiters := e.2.waiters.filter (· != k) }) }

/-- The transfers that slots of a core wait to make are looked at again (10_matrix.md R189). -/
def State.wakeRing (s : State) (core : Nat) : State :=
  (s.core core).ring.foldl (fun s k => match (s.slot k).wait with
    | .ring latch dst _ _ => s.post (.latchTransferArrival dst (s.slot k).clause.ctx latch)
    | _ => s) s

/-- A command that waits for a queue entry is abandoned: the tiles it owned are THREAD again (20_copy.md R362). -/
def State.dropHeld (s : State) (k : Nat) : State :=
  let ts := (s.slot k).heldTiles
  if ts.isEmpty then s
  else s.modCluster (clusterOf (coreOf k)) fun c => { c with owner := ts.foldl (fun o t => o.set t false) c.owner }

/-- A slot freezes for a trap. A freeze is a boundary of the clause (25_debug.md R438), and a trap is traced (R440). -/
def State.freezeAt (s : State) (k cause : Nat) (kaddr : Word) : State :=
  let sl := (s.slot k).frozenWith cause kaddr
  let core := coreOf k
  (((((s.leaveStreams k).dropHeld k).setSlot k sl).boundary k).traceRecord (clusterOf core) 0x04 core k 0 (sl.report k)).wakeSave core sl.clause.ctx

/-- TAKING A TRAP (R97): the slot freezes, and its report is sent (R98). -/
def State.trapAt (s : State) (k cause : Nat) (kaddr : Word) (atFetch : Bool := false) : State :=
  (s.freezeAt k cause kaddr).sendReport k cause atFetch (((s.slot k).frozenWith cause kaddr).report k)

/-- A trap that goes to the resident kernel whatever its cause (06_messages.md R111). -/
def State.kernelTrap (s : State) (k cause : Nat) (kaddr : Word) : State :=
  (s.freezeAt k cause kaddr).reportToRing k (((s.slot k).frozenWith cause kaddr).report k)

/-- The issuing slot takes a trap. -/
def State.trap (s : State) (cause : Nat) (kaddr : Word) : State := s.trapAt s.cur cause kaddr

/-- RETURNING FROM A TRAP (24_system.md R409): the slot goes on at an address with everything kept; another address than
`kepc` clears `kprog`. -/
def Slot.resumeAt (sl : Slot) (a : Word) : Slot :=
  { sl with phase := .running, pc := a, kprog := if a = sl.kepc then sl.kprog else 0 }

/-! ### The order of checks (04_encoding.md R73) -/

/-- A source operand: file, first register, count, empty action and field (1 `rs1`, 2 `rs2`, 0 `rd`). -/
structure Src where
  vec   : Bool
  reg   : Nat
  count : Nat
  trap  : Bool
  field : Nat

/-- A destination group: file, first register, count and the field that names it (0 `rd`, 1 `rs1`). -/
structure Dst where
  vec   : Bool
  reg   : Nat
  count : Nat
  field : Nat := 0

/-- What the common checks of an instruction look at. -/
structure Need where
  word   : BitVec 32
  groups : List (Nat × Nat) := []
  format : Bool := false
  priv   : Nat := 0
  srcs   : List Src := []
  dsts   : List Dst := []

/-- The mark of a register. -/
def Slot.mark (sl : Slot) (vec : Bool) (r : Nat) : Mark := if vec then sl.vmark r else sl.xmark r

/-- The first empty register of a group, in ascending order. -/
def Slot.firstEmpty (sl : Slot) (vec : Bool) (r : Nat) : Nat → Option Nat
  | 0 => none
  | n + 1 => if sl.mark vec r = .empty then some r else sl.firstEmpty vec (r + 1) n

/-- The first marked register of a group, with the cause and address its marker holds (11_memory_access.md R202). -/
def Slot.firstMarked (sl : Slot) (vec : Bool) (r : Nat) : Nat → Option (Nat × Word)
  | 0 => none
  | n + 1 =>
    match sl.mark vec r with
    | .marked c a => some (c, a)
    | _ => sl.firstMarked vec (r + 1) n

/-- The first register of a group whose read fails parity (R74). -/
def Slot.firstFaulty (sl : Slot) (vec : Bool) (r : Nat) : Nat → Option Nat
  | 0 => none
  | n + 1 => if sl.mark vec r = .faulty then some r else sl.firstFaulty vec (r + 1) n

/-- A register identifier (R74). -/
def regId (vec : Bool) (r field : Nat) : Word := word (r + vec.toNat * 32 + field * 64)

/-- Step 6 for one source, in the order empty, marked, faulty (log 94): an empty one traps with 0x03 or stalls, a marked one raises its
marker's cause, and a faulty one 0x05. -/
def Slot.checkSrc (sl : Slot) (x : Src) : Res Unit :=
  match sl.firstEmpty x.vec x.reg x.count with
  | some r => if x.trap then .trap 0x03 (regId x.vec r x.field) else .stall
  | none =>
    match sl.firstMarked x.vec x.reg x.count with
    | some (c, a) => .trap c a
    | none =>
      match sl.firstFaulty x.vec x.reg x.count with
      | some r => .trap 0x05 (regId x.vec r x.field)
      | none => .ok ()

/-- Step 6 for all sources, in order. -/
def Slot.checkSrcs (sl : Slot) : List Src → Res Unit
  | [] => .ok ()
  | x :: t => (sl.checkSrc x).bind fun _ => sl.checkSrcs t

/-- Step 7: a destination group with an empty member raises 0x04. -/
def Slot.checkDsts (sl : Slot) : List Dst → Res Unit
  | [] => .ok ()
  | d :: t =>
    match sl.firstEmpty d.vec d.reg d.count with
    | some r => .trap 0x04 (regId d.vec r d.field)
    | none => sl.checkDsts t

/-- Step 3: every group register is a multiple of its group size. -/
def groupsAligned : List (Nat × Nat) → Bool
  | [] => true
  | (r, n) :: t => r % n == 0 && groupsAligned t

/-- Steps 3 to 7 of R73 for the issuing slot. -/
def Slot.check (sl : Slot) (n : Need) : Res Unit :=
  let w := n.word.setWidth 64
  (require (groupsAligned n.groups) 0x01 w).bind fun _ =>
  (require (n.format || !sl.pp) 0x02 w).bind fun _ =>
  (require (decide (n.priv ≤ sl.priv)) 0x06 w).bind fun _ =>
  (sl.checkSrcs n.srcs).bind fun _ => sl.checkDsts n.dsts

/-- The machine-check record of a walk, made for a function, that met a table line whose home refuses it (12_main_memory.md R226,
24_system.md R421). A unit that is no core of the fabric is named 0xFFF, as the management path is. -/
def State.walkRecord (s : State) (unit asid vf : Nat) (va : Word) : State :=
  match s.lostTable unit asid va.toNat with
  | none => s
  | some a =>
    s.machineCheck { kind := 0x0102, unitType := 3, unit := BitVec.ofNat 16 (homeOf 0 a), addr := word (s.hub.chipId.toNat * 2 ^ 44 + a / 64 * 64),
                     detail := word ((if unit < 4096 then unit else 0xFFF) + s.hub.chipId.toNat * 2 ^ 12 + vf * 2 ^ 32) }

/-- The issuing slot's instruction ends in a trap. A trap of translation whose walk a home refused is recorded too. -/
def State.raise (s : State) (c : Nat) (a : Word) : State :=
  (if c = 0x50 then s.walkRecord s.curCore (s.asid s.cur) s.curCtx.vf a else s).trap c a

/-- What a result makes of the state: the state it gives, the trap taken, or the state as it was. -/
def State.settle (s : State) : Res State → State
  | .ok t => t
  | .trap c a => s.raise c a
  | .stall => s

/-- The instruction at a slot has been accepted and waits for replies, for matrix steps or for ring transfers. -/
def Slot.blocked (sl : Slot) : Bool :=
  match sl.wait with
  | .blocked _ _ _ => true
  | .mma _ _ _ _ _ _ => true
  | .ring _ _ _ _ => true
  | _ => false

/-- Runs an instruction on the issuing slot: the common checks, then its own checks and effect. An instruction whose
blocking requests are out stays as it is until their replies have come. -/
def State.run (s : State) (n : Need) (body : Res State) : State :=
  if s.sl.blocked then s else s.settle ((s.sl.check n).bind fun _ => body)

/-! ### The near window (11_memory_access.md R195, R196) -/

/-- Where a near offset lies: the operand store or the scratchpad, as a memory address and, for the scratchpad, the cluster
address. -/
inductive Near where
  | operand (a : Nat)
  | pad (a cl : Nat)
  | hole
  deriving DecidableEq, Repr

/-- The scratchpad's first near offset. -/
def padBase : Nat := 0x1000000

/-- The target of n bytes at a near offset of a core. The management cores have no near window (24_system.md R404). -/
def nearTarget (core off n : Nat) : Near :=
  if Config.firstMgmtCore ≤ core then .hole
  else if off + n ≤ operandSize then .operand (operandAddr core off)
  else if padBase ≤ off && off + n ≤ padBase + padSize then .pad (padAddr (clusterOf core) (off - padBase)) (off - padBase)
  else .hole

/-- The first byte of an access that lies outside the target it begins in; the first byte where it begins in none. -/
def holeByte (off : Nat) : Nat :=
  if off < operandSize then operandSize
  else if padBase ≤ off && off < padBase + padSize then padBase + padSize else off

/-- The member core of a cluster address (R196). -/
def stripeOf (cl : Nat) : Nat := cl / 128 % 8

/-- The tile of a cluster address. -/
def tileOf (cl : Nat) : Nat := cl / 4096

/-- A near address. -/
def isNear (va : Nat) : Bool := bitsOf va 44 4 == 15

/-- Replaces the bytes of a range that an entry of a forwarding table holds. -/
def overlayOne (cl : Nat) (bs : List Byte) (f : Fwd) : List Byte :=
  bs.zipIdx.map fun (b, i) => if f.addr ≤ cl + i && cl + i < f.addr + f.bytes.length then f.bytes.getD (cl + i - f.addr) b else b

/-- The bytes of a scratchpad range as a slot reads them: each from the youngest entry of its forwarding table that holds
it, else from the stripe (14_ordering.md R248). -/
def overlay (fwd : List Fwd) (cl : Nat) (bs : List Byte) : List Byte :=
  match fwd with
  | [] => bs
  | f :: t => overlay t cl (overlayOne cl bs f)

/-- Some word of a near range has an uncorrectable error (11_memory_access.md R197): the first one. -/
def badWord (bad : List Nat) (a n : Nat) : Option Nat := bad.find? fun b => decide (b < a + n) && decide (a < b + 8)

/-- The n bytes a slot reads at a near target, or the uncorrectable word it meets. -/
def State.nearBytes (s : State) (k : Nat) (t : Near) (n : Nat) : List Byte :=
  match t with
  | .operand a => s.bytes a n
  | .pad a cl => overlay (s.slot k).fwd cl (s.bytes a n)
  | .hole => []

/-- The cycles after which a near read fills its register (05_scalar.md R83, 11_memory_access.md R205): of the operand store, of the
core's own scratchpad stripe, and of another core's. -/
def nearLatency (core : Nat) : Near → Nat
  | .operand _ => 3
  | .pad _ cl => if stripeOf cl = core % 8 then 6 else 10
  | .hole => 0

/-- A near `gld` or `gvld` marks its destination, which fills after the near latency with what was read (11_memory_access.md R207). -/
def Slot.fillLater (sl : Slot) (vec : Bool) (rd : Nat) (value : VWord) (n : Nat) : Slot :=
  if !vec && rd == 0 then sl else { sl.emptyRegs vec rd 1 with nearFills := sl.nearFills ++ [{ vec := vec, reg := rd, value := value, left := n }] }

/-- The first uncorrectable word of a near range. -/
def State.nearError (s : State) (t : Near) (n : Nat) : Option Nat :=
  match t with
  | .operand a => badWord s.nearBad a n
  | .pad a _ => badWord s.nearBad a n
  | .hole => none

/-- A near word that a read has corrected is counted at its unit, a core's operand store or a cluster's scratchpad; a count that reaches the
kernel's threshold is a machine check (26_platform.md R454). -/
def State.countNear (s : State) (w : Nat) : State :=
  let check := fun (s : State) (type : BitVec 8) (unit n limit : Nat) =>
    if n = limit then s.machineCheck { kind := 0x0100, unitType := type, unit := BitVec.ofNat 16 unit, addr := 0, detail := word n } else s
  if w < padAddr 0 0 then
    let core := (w - operandAddr 0 0) / operandSize
    let n := (s.core core).corrected + 1
    check (s.modCore core fun c => { c with corrected := n }) 1 core n (s.core core).threshold
  else
    let cl := (w - padAddr 0 0) / padSize
    let n := (s.cluster cl).corrected + 1
    check (s.modCluster cl fun c => { c with corrected := n }) 2 cl n (s.cluster cl).threshold

/-- A read of n bytes of near memory corrects the errors that it meets, each of which is counted; it changes nothing a program sees
(11_memory_access.md R197). -/
def State.correct (s : State) (a n : Nat) : State :=
  if s.nearWeak.isEmpty then s
  else
    let hit := fun (w : Nat) => decide (w < a + n) && decide (a < w + 8)
    (s.nearWeak.filter hit).foldl State.countNear { s with nearWeak := s.nearWeak.filter fun w => !hit w }

/-- The same for a near target. -/
def State.corrected (s : State) (t : Near) (n : Nat) : State :=
  match t with
  | .operand a => s.correct a n
  | .pad a _ => s.correct a n
  | .hole => s

/-- The same for a virtual address of the issuing slot; a far one has no such word. -/
def State.correctedAt (s : State) (va : Word) (n : Nat) : State :=
  if isNear va.toNat then s.corrected (nearTarget s.curCore (fld va 0 44) n) n else s

/-- A store overwrites the words with errors that it covers whole. -/
def clearBad (bad : List Nat) (a n : Nat) : List Nat := bad.filter fun b => !(decide (a ≤ b) && decide (b + 8 ≤ a + n))

/-- The stride of A tiles under a format payload: 2,048 bytes, and 512 more where SCALE is not `none` (10_matrix.md R180). -/
def tileStride (p : BitVec 17) : Nat := if bitsOf p.toNat 5 2 = 0 then 2048 else 2560

/-- A slot's accepted `mma` still has to read bytes of a range of the operand store (10_matrix.md R189). -/
def Slot.reads (sl : Slot) (core a n : Nat) : Bool :=
  match sl.wait with
  | .mma _ addr _ count fmt _ =>
    let lo := operandAddr core (addr + sl.kprog.toNat * tileStride fmt)
    let hi := operandAddr core (addr + count * tileStride fmt)
    decide (lo < a + n) && decide (a < hi)
  | _ => false

/-- A near store of n bytes can be made: the forwarding table of the slot has room for one to another stripe (14_ordering.md
R248), and no accepted `mma` of the core has still to read the bytes (10_matrix.md R189). -/
def State.storeReady (s : State) (k : Nat) (t : Near) (n : Nat) : Bool :=
  match t with
  | .pad _ cl => stripeOf cl == coreOf k % 8 || decide ((s.slot k).fwd.length < Config.fwdLimit)
  | .operand a =>
    let core := coreOf k
    let f := fun i => (s.slot (core * 4 + i)).reads core a n
    !(f 0 || f 1 || f 2 || f 3)
  | .hole => true

/-- A near store: to the operand store and to the own stripe at once, to another stripe through the forwarding table
(14_ordering.md R245, R248). -/
def State.nearStore (s : State) (k : Nat) (t : Near) (bs : List Byte) : State :=
  match t with
  | .operand a => { s.storeBytes a bs with nearBad := clearBad s.nearBad a bs.length, nearWeak := clearBad s.nearWeak a bs.length }
  | .pad a cl =>
    if stripeOf cl == coreOf k % 8 then { s.storeBytes a bs with nearBad := clearBad s.nearBad a bs.length, nearWeak := clearBad s.nearWeak a bs.length }
    else (s.modSlot k fun sl => { sl with fwd := sl.fwd ++ [{ addr := cl, bytes := bs }] }).post (.forwardingEntryWrite k)
  | .hole => s

/-! ### Addresses of an access (R198) -/

/-- What an access does with its bytes. -/
inductive Access where
  | read
  | write
  deriving DecidableEq, Repr

/-- Where an access goes: the near window, or a global address with its home unit and chip. -/
inductive Target where
  | near (t : Near)
  | far (ga : Word) (unit : Nat) (chip : BitVec 20) (leaf : Nat)
  deriving DecidableEq, Repr

/-- The far checks of R198 for a translated leaf: 0x51, then 0x5C, then 0x71. The management path may access tensed and barrier
pages (03_language.md R52, 15_sync.md R277). -/
def checkLeafAccess (mgmt : Bool) (acc : Access) (leaf : Nat) (va : Word) : Res Unit :=
  (require (match acc with | .read => leafR leaf | .write => leafW leaf) 0x51 va).bind fun _ =>
  (require (mgmt || !leafTensed leaf) 0x5C va).bind fun _ =>
  require (mgmt || !(acc == .write && leafSync leaf)) 0x71 va

/-- The translation of a far address by a slot: the global address, home, chip and leaf, or the cause. -/
def State.translate (s : State) (k : Nat) (va : Word) : Res (Word × Nat × BitVec 20 × Nat) :=
  match s.leafFor (coreOf k) (s.asid k) va.toNat with
  | .fail c => .trap c va
  | .ok leaf ps =>
    let ga := s.globalOf leaf ps va.toNat
    .ok (ga, homeOf (leafPlacement leaf) (devOf ga), chipOf ga, leaf)

/-- The engine owns a tile that n bytes of the scratchpad touch (R196). -/
def State.ownedByEngine (s : State) (k cl n : Nat) : Bool :=
  let o := (s.cluster (clusterOf (coreOf k))).owner
  o.get (tileOf cl) false || o.get (tileOf (cl + n - 1)) false

/-- The address checks of R198 after the access-size check: 0x53; 0x54 and 0xA0 for a near address; translation and
permissions for a far one. -/
def State.access (s : State) (k : Nat) (acc : Access) (va : Word) (n : Nat) : Res Target :=
  if fld va 48 16 ≠ 0 then .trap 0x53 va
  else if isNear va.toNat then
    let off := fld va 0 44
    match nearTarget (coreOf k) off n with
    | .hole => .trap 0x54 (word (0xF * 2 ^ 44 + (if coreOf k < Config.firstMgmtCore then holeByte off else off)))
    | .operand a => .ok (.near (.operand a))
    | .pad a cl =>
      (require (!s.ownedByEngine k cl n) 0xA0 va).bind fun _ => .ok (.near (.pad a cl))
  else
    (s.translate k va).bind fun (ga, unit, chip, leaf) =>
    (checkLeafAccess (decide (Config.firstMgmtCore ≤ coreOf k)) acc leaf va).bind fun _ => .ok (.far ga unit chip leaf)

/-! ### Far requests (R199 to R202) -/

/-- The far requests of the bound clause that are out. -/
def Slot.farNow (sl : Slot) : List Far := sl.far.filter fun f => f.gen == sl.gen

/-- A slot may send one more far request (R201). -/
def Slot.farRoom (sl : Slot) (n : Nat) : Bool := decide (sl.far.length + n ≤ Config.farLimit)

/-- The unit number of an estimator context: 32 and the context's number, die · 16 + context. -/
def estUnit (e : Nat) : Nat := 32 + e

/-- The die of a stack or of an estimator context (22_launch_estimate.md R392); the tier controller and the hub have none. -/
def unitDie (unit : Nat) : Option Nat := if unit < 16 then some (unit / 4) else if 32 ≤ unit then some ((unit - 32) / 16) else none

/-- A request counts as local: its home is a stack on the core's own die of this chip (R200). -/
def State.isLocal (s : State) (core unit : Nat) (chip : BitVec 20) : Bool :=
  chip == s.hub.chipId && unitDie unit == some (core / 1024)

/-- Counts a request in `kreql` or `kreqx` (R200). -/
def State.countReq (s : State) (core unit : Nat) (chip : BitVec 20) : State :=
  if s.isLocal core unit chip then s.modCore core fun c => { c with kreql := c.kreql + 1 }
  else s.modCore core fun c => { c with kreqx := c.kreqx + 1 }

/-- The message a clause sends: its digest, sequence, chip and function (R118), with the delivery window it belongs to. -/
def State.clauseMsg (s : State) (k : Nat) : Msg :=
  let sl := s.slot k
  { srcChip := s.hub.chipId, srcVf := BitVec.ofNat 7 (s.ctx (coreOf k) sl.clause.ctx).vf, key := sl.kpath,
    seq := sl.kseq.setWidth 32, stamp := s.stamp, ctx := BitVec.ofNat 2 sl.clause.ctx, launch := sl.clause.launch,
    window := (s.launch sl.clause.launch).window }

/-- Sends one far request of a slot: the request message, its entry among those out, the counts of R200 and the sequence
number (R118). The reply tag names the slot and its generation. -/
def State.sendFar (s : State) (k kind unit : Nat) (chip : BitVec 20) (va ga : Word) (use : FarUse) (units : Nat)
    (payload : List Word) (name : Option (BitVec 128) := none) (attr : BitVec 4 := 0) : State :=
  let sl := s.slot k
  let core := coreOf k
  let vec := match use with | .fillV _ => true | _ => false
  let reg := match use with | .fillX rd _ _ _ => rd | .fillV rd => rd | _ => 0
  let m := { s.clauseMsg k with
    dstChip := chip, kind := BitVec.ofNat 8 kind, units := BitVec.ofNat 3 units, unit := unit,
    tag := if Config.firstMgmtCore ≤ core then mgmtTag sl.gen k else regTag sl.gen vec reg (k % 4) core,
    rstat := attr, payload := payload }
  let f : Far := { gen := sl.gen, seq := m.seq, kind := kind, va := va, ga := ga, unit := unit, chip := chip, use := use, name := name,
                   ctx := sl.clause.ctx, launch := m.launch, window := m.window }
  let sl' := { sl with far := sl.far ++ [f], kseq := sl.kseq + 1, owed := sl.owed.set sl.gen (sl.owed.get sl.gen 0 + 1) }
  ((s.setSlot k sl').countReq core unit chip).route m

/-- A read request for n bytes (kind 0x20). -/
def State.sendRead (s : State) (k : Nat) (va ga : Word) (unit : Nat) (chip : BitVec 20) (n : Nat) (use : FarUse)
    (name : Option (BitVec 128) := none) : State :=
  s.sendFar k 0x20 unit chip va ga use 1 [ga, word n] name

/-- A write request (kinds 0x21 to 0x23): the address and size, then the data in whole 16-byte units. -/
def State.sendWrite (s : State) (k kind : Nat) (va ga : Word) (unit : Nat) (chip : BitVec 20) (bs : List Byte) (use : FarUse)
    (name : Option (BitVec 128) := none) (attr : BitVec 4 := 0) : State :=
  let units := (bs.length + 15) / 16
  s.sendFar k kind unit chip va ga use (1 + units) ([ga, word bs.length] ++ wordsOf (2 * units) bs) name attr

/-- A masked line write (size 0, R199): the whole line and a byte mask. -/
def State.sendMasked (s : State) (k : Nat) (va ga : Word) (unit : Nat) (chip : BitVec 20) (line : List Byte) (mask : Nat) : State :=
  s.sendFar k 0x21 unit chip va ga .blocking 6 ([ga, 0] ++ wordsOf 8 line ++ [word mask, 0])

/-! ### Wait sets (14_ordering.md R246) -/

/-- A far request is a read. -/
def Far.isRead (f : Far) : Bool := f.kind == 0x20

/-- A far request that is no read is in the wait set of a scope: 0 cluster, 1 die, 2 package, 3 fabric (R246). -/
def Far.inScope (f : Far) (scope core : Nat) (own : BitVec 20) : Bool :=
  match scope with
  | 0 => false
  | 1 => f.chip == own && unitDie f.unit == some (core / 1024)
  | 2 => f.chip == own
  | _ => true

/-- The far requests that a release at a scope waits for. -/
def State.waitSet (s : State) (k scope : Nat) : List Far :=
  (s.slot k).farNow.filter fun f => f.isRead || f.inScope scope (coreOf k) s.hub.chipId

/-- The wait set of a scope is complete, the near stores and near loads included. -/
def State.released (s : State) (k scope : Nat) : Bool :=
  (s.waitSet k scope).isEmpty && (s.slot k).fwd.isEmpty && (s.slot k).nearFills.isEmpty

/-- A far request is a write or a near-memory operation that an end or a suspension waits for (11_memory_access.md R203): no read,
no hub request, and no blocking request to a name unit or an estimator. -/
def Far.isWrite (f : Far) : Bool :=
  !f.isRead && f.kind != 0x36 && !((f.kind == 0x38 || f.kind == 0x3F) && f.use == .blocking)

/-- Every far write and near-memory operation of the clause is acknowledged (11_memory_access.md R203). -/
def Slot.acked (sl : Slot) : Bool := sl.farNow.all fun f => !f.isWrite

/-! ### Pending fences (14_ordering.md R250, 11_memory_access.md R208)

`Slot.fence` holds what the next access waits for: bit 0 an acquire, bit 1 a release with its scope, bit 2 the
acknowledgement of a sequentially consistent store. -/

/-- No read of the clause is outstanding, far or near. -/
def Slot.readsFilled (sl : Slot) : Bool := (sl.farNow.all fun f => !f.isRead) && sl.nearFills.isEmpty

/-- The pending fences let the next access of the issuing slot pass; a release holds only write-class instructions. -/
def State.fenceReady (s : State) (write : Bool) : Bool :=
  match s.sl.fence with
  | none => true
  | some (b, scope) =>
    (!bitOf b 0 || s.sl.readsFilled) && (!bitOf b 2 || (s.sl.acked && s.sl.fwd.isEmpty)) && (!(write && bitOf b 1) || s.released s.cur scope)

/-- The fences that an access has passed are over. -/
def State.passFence (s : State) (write : Bool) : State :=
  match s.sl.fence with
  | none => s
  | some (b, scope) => s.modCur fun sl => { sl with fence := if !write && bitOf b 1 then some (2, scope) else none }

/-- An access of the issuing slot waits for the pending fences. -/
def State.ordered (s : State) (write : Bool) (f : State → Res State) : Res State :=
  (stallUnless (s.fenceReady write)).bind fun _ => f (s.passFence write)

/-- A fence of a kind and scope joins those pending. -/
def Slot.addFence (sl : Slot) (bits scope : Nat) : Slot :=
  match sl.fence with
  | none => { sl with fence := some (bits, scope) }
  | some (b, t) =>
    { sl with fence := some (b ||| bits, if bitOf bits 1 && (!bitOf b 1 || decide (t < scope)) then scope else t) }

/-- What a full fence at a scope leaves of the pending fences: a release of a wider scope, and the wait for a store's
acknowledgement. -/
def fenceLeft (b t scope : Nat) : Option (Nat × Nat) :=
  match bitOf b 1 && decide (scope < t), bitOf b 2 with
  | true, true => some (6, t)
  | true, false => some (2, t)
  | false, true => some (4, t)
  | false, false => none

/-- The pending fences that a full fence at a scope has met are over. -/
def State.passFull (s : State) (scope : Nat) : State :=
  match s.sl.fence with
  | none => s
  | some (b, t) => s.modCur fun sl => { sl with fence := fenceLeft b t scope }

/-- The package-scope or other full fence `.sc`: the slot stands at it until its wait set is complete and every earlier read
has filled its destination. -/
def State.fullFence (s : State) (scope : Nat) : Res State :=
  (stallUnless (s.released s.cur scope && s.sl.readsFilled)).bind fun _ => .ok ((s.passFull scope).complete)

/-! ### Waiting at a blocking instruction -/

/-- The issuing slot waits for n replies. -/
def State.block (s : State) (b : Block) (n : Nat) : State := s.modCur fun sl => { sl with wait := .blocked b n [] }

/-- The core has translated an address for the issuing slot: its translation cache is filled (R198). -/
def State.touched (s : State) (va : Word) : State := s.fillTlb s.curCore (s.asid s.cur) va.toNat

end Sys2Proof.Machine
end

