-- ==== Sys2Proof/Machine/Home.lean ====
section
/-!
DEFINITION. What every home does with a request (12_main_memory.md R226 to R238, 24_system.md R428): the look-up of the
indirection entry, the access table, holds of a page that moves, poison, reading and writing a line, and the watches of
11_memory_access.md R213 and R214. Homes 0 to 15 are the stack controllers, 16 the tier controller.
-/
namespace Sys2Proof.Machine

/-- The event by which a request arrives at its home or unit (06_messages.md R102, 11_memory_access.md R199). -/
def requestEvent (m : Msg) : Option Instr :=
  match m.kind.toNat with
  | 0x20 => some (.readRequest m)
  | 0x21 => some (.writeRequest m)
  | 0x22 => some (.writeRelease m)
  | 0x23 => some (.writeSc m)
  | 0x24 => some (.prefetchRequest m)
  | 0x25 => some (.watchRequest m)
  | 0x30 => some (.atomicRequest m)
  | 0x31 => some (.reductionRequest m)
  | 0x32 => some (.barrierOperation m)
  | 0x34 => some (.tensedRequest m)
  | 0x36 => some (.hubRequest m)
  | 0x38 => some (.nameRequest m)
  | 0x3A => some (.shootDown m)
  | 0x3C => some (.hintRequest m)
  | 0x3D => some (.queryRequest m)
  | 0x3F => some (.estimatorRequest m)
  | _ => none

/-- A reply to a request: to the core its tag names, with what the request carries of its context and window. -/
def replyTo (m : Msg) (kind : Nat) (payload : List Word) : Msg :=
  { m with dstChip := m.srcChip, dstCore := m.tag.setWidth 12, chan := 0, kind := BitVec.ofNat 8 kind,
           units := BitVec.ofNat 3 (payload.length / 2), rpay := false, payload := payload, arrival := none, ingress := none, order := 0 }

/-- Sends a reply of this chip. -/
def State.sendReply (s : State) (m : Msg) (kind : Nat) (payload : List Word) : State :=
  s.route { replyTo m kind payload with stamp := s.stamp }

/-- A reply tag of the hub for a read, and of an estimator context for the write of its record: bit 18 marks them. -/
def hubTag : BitVec 32 := 0x40000
def estTag (e : Nat) : BitVec 32 := BitVec.ofNat 32 (0x60000 + e * 2 ^ 20)
def tagHub (t : BitVec 32) : Bool := tagKind t == 0 && !tagVec t && bitOf t.toNat 18
def tagEst (t : BitVec 32) : Option Nat := if tagHub t && bitOf t.toNat 17 then some (bitsOf t.toNat 20 6) else none

/-! ### Requests that a moving page holds (R227, R228) -/

/-- The line a request is for. -/
def reqLine (m : Msg) : Nat := devOf (m.payload.getD 0 0) / 64

/-- The requests that a home has held for a move. -/
def Move.atHome (v : Move) (unit : Nat) : List Msg := v.held.filter fun m => m.unit == unit

/-- A move holds a request at its home: the home has taken the begin notice, and the request is not a read of a line with no
held request. -/
def Move.holds (v : Move) (page : Nat) (m : Msg) : Bool :=
  v.taken.contains m.unit && reqLine m / 1024 == page && (m.kind != 0x20 || (v.atHome m.unit).any fun h => reqLine h == reqLine m)

/-- The requests that a home holds, over all moves: at most 256 before it accepts no more for any page (R228). -/
def State.heldAt (s : State) (unit : Nat) : Nat := (s.hub.moves.map fun (e : Nat × Move) => (e.2.atHome unit).length).foldl (· + ·) 0

/-- The move that holds a request, if one does; one that holds requests at a full home holds every other there. -/
def State.holder (s : State) (m : Msg) : Option Nat :=
  ((s.hub.moves.find? fun e => e.2.holds e.1 m).orElse fun _ =>
    if s.heldAt m.unit < 256 then none else s.hub.moves.find? fun e => !(e.2.atHome m.unit).isEmpty).map fun e => e.1

/-- A request is performed at its home, or held for a move in arrival order. -/
def State.atHome (s : State) (m : Msg) (f : State → State) : State :=
  match s.holder m with
  | some p => s.modHub fun h => { h with moves := h.moves.set p { h.moves.get p { entry := 0, homes := [] } with held := (h.moves.get p { entry := 0, homes := [] }).held ++ [m] } }
  | none => f s

/-! ### Look-up and admission (R226, 24_system.md R428) -/

/-- An entry of an access table admits a master's access to pages of an owner. -/
def admitsAccess (e : Word) (chip : BitVec 20) (vf owner : Nat) (read write : Bool) : Bool :=
  bit e 63 && (!read || bit e 62) && (!write || bit e 61) && (bit e 59 || fld e 0 20 == chip.toNat) && (bit e 58 || fld e 44 7 == vf)
    && fld e 51 7 == owner

/-- The chip whose access a request is: its sender's, or that on whose behalf a name unit sent it (19_names.md R335). -/
def Msg.master (m : Msg) : BitVec 20 := m.behalf.getD m.srcChip

/-- A home admits a request to a page with an entry. -/
def State.admitted (s : State) (m : Msg) (e : Nat) (read write : Bool) : Bool :=
  (Msg.master m == s.hub.chipId && m.srcVf.toNat == dpitOwner e)
    || (s.stack m.unit).access.any fun a => admitsAccess a.2 (Msg.master m) m.srcVf.toNat (dpitOwner e) read write

/-- What a home finds for a request: the media byte, or a status that is not 0. -/
inductive Found where
  | at (media : Nat) (entry : Nat)
  | refused (status : Nat) (record : Bool)
  deriving DecidableEq, Repr

/-- The look-up of R226 and the admission of 24_system.md R428. The management path is always admitted. -/
def State.findLine (s : State) (m : Msg) (ga : Word) (mgmt read write : Bool) : Found :=
  let a := devOf ga
  let e := s.dpit (pageOf a)
  if !dpitValid e || homeOf (dpitPlacement e) a != m.unit then .refused 2 true
  else if !mgmt && !s.admitted m e read write then .refused 2 false
  else .at (mediaOfEntry e a) e

/-- A request of the management path: of a management core, or of the hub for a table of the kernel. -/
def tagPath (t : BitVec 32) : Bool := tagMgmt t || t == tableTag

/-- The core of a requester in a record: 0xFFF for the management path. -/
def requestCore (m : Msg) : Nat := if tagPath m.tag then 0xFFF else m.tag.toNat % 4096

/-- The requester as a machine-check record names it (24_system.md R421). -/
def requester (m : Msg) : Word := word (requestCore m + m.srcChip.toNat * 2 ^ 12 + m.srcVf.toNat * 2 ^ 32)

/-- The type and number of a home in the management address space. -/
def homeType (unit : Nat) : BitVec 8 := if unit = 16 then 4 else 3
def homeNumber (unit : Nat) : BitVec 16 := if unit = 16 then 0 else BitVec.ofNat 16 unit

/-- The machine-check record of a request that met no entry or the wrong home. -/
def State.recordLost (s : State) (m : Msg) (ga : Word) (record : Bool) : State :=
  if record then
    s.machineCheck { kind := 0x0102, unitType := homeType m.unit, unit := homeNumber m.unit, addr := ga, detail := requester m }
  else s

/-- A record of main memory for an error ring (R236). -/
def memoryRecord (kind vf unit : Nat) (ga tick : Word) (core : Nat) : List Word :=
  [word (kind + vf * 2 ^ 16 + unit * 2 ^ 32), ga, tick, word core]

/-- The line of an address. -/
def lineOf (ga : Word) : Word := word (ga.toNat / 64 * 64)

/-- The error record of a request that met poison, for the requester's function, whose ring this chip holds, or for the kernel (R236). -/
def State.recordPoison (s : State) (m : Msg) (kind : Nat) (ga : Word) : State :=
  if Msg.master m ≠ s.hub.chipId then s
  else if tagPath m.tag then s.kernelRecord (memoryRecord kind 0xFFFF m.unit (lineOf ga) s.ktick (requestCore m))
  else s.errorRecord m.srcVf.toNat (memoryRecord kind m.srcVf.toNat m.unit (lineOf ga) s.ktick (requestCore m))

/-! ### Errors of HBM (R234, R237, R238) -/

/-- The channel of a stack that holds a media byte (R217). -/
def channelOf (media : Nat) : Nat := media % 2 ^ 36 / 4096 % 32

/-- An atom of HBM, by its number, is read with as many wrong bits as SEC-DED sees: one is corrected and counted; more lose the atom,
which is poisoned, with its whole granule where that is stored compressed, and a machine-check record is sent. -/
def State.scrub (s : State) (atom errors : Nat) : State :=
  let media := 32 * atom
  let stack := media / 2 ^ 36
  if errors = 0 || 2 ^ 40 ≤ media || s.poison.contains media then s
  else if errors = 1 then
    let c := channelOf media
    let n := (s.stack stack).corrected.get c 0 + 1
    let s := s.modStack stack fun k => { k with corrected := k.corrected.set c n }
    if n = (s.stack stack).threshold then
      s.machineCheck { kind := 0x0100, unitType := 3, unit := BitVec.ofNat 16 stack, addr := 0, detail := word n }
    else s
  else
    let g := media / 128 * 128
    let us := if s.sizeOf (media / 128) = 0 then [media] else [g, g + 32, g + 64, g + 96]
    { s.machineCheck { kind := 0x0101, unitType := 3, unit := BitVec.ofNat 16 stack, addr := 0, detail := word (atom % 4) } with
      poison := us.foldl insertNat s.poison }

/-- A read or a copy of n bytes of media meets the errors of its atoms, as a scrub does. -/
def State.detect (s : State) (media n : Nat) : State :=
  if s.weak.isEmpty then s
  else (s.weak.filter fun (e : Nat × Nat) => decide (e.1 < media + n) && decide (media < e.1 + 32)).foldl
    (fun s (e : Nat × Nat) => { s with weak := s.weak.del e.1 }.scrub (e.1 / 32) e.2) s

/-- A write of n bytes of media ends the errors of the atoms that it covers whole. -/
def State.overwrite (s : State) (media n : Nat) : State :=
  if s.weak.isEmpty then s else { s with weak := s.weak.keep fun a _ => !(decide (media ≤ a) && decide (a + 32 ≤ media + n)) }

/-- A performed request adds to the heat of its page (R229); its home writes the addition back within 65,536 ns. -/
def State.heated (s : State) (unit a : Nat) : State :=
  let h := (s.stack unit).heat
  let s := s.modStack unit fun k => { k with heat := h.set (pageOf a) (h.get (pageOf a) 0 + 1) }
  if h.isEmpty then { s with timers := s.timers ++ [(s.ktick.toNat + 65536, .heatWriteback unit)] }
  else if h.length < 512 then s else s.post (.heatWriteback unit)

/-! ### Reading -/

/-- A read of n bytes of a line: its status and the bytes. -/
def State.homeRead (s : State) (m : Msg) (ga : Word) (n : Nat) (mgmt : Bool) : State × Nat × List Byte :=
  match s.findLine m ga mgmt true false with
  | .refused st rec => (s.recordLost m ga rec, st, [])
  | .at media _ =>
    let s := (s.heated m.unit (devOf ga)).detect media n
    if s.poisoned media n then (s.recordPoison m 0x0001 ga, 1, []) else (s, 0, s.bytes media n)

/-! ### Writing -/

/-- The starts of the poison units that n bytes from a media byte touch: at most three. -/
def unitsOf (media n : Nat) : List Nat :=
  let u := poisonUnit media
  let w := if media < 2 ^ 40 then 32 else 64
  [u, u + w, u + 2 * w].filter fun x => x < media + n

/-- A mask of written bytes covers all bytes of a unit. -/
def coversUnit (media n mask : Nat) (u w : Nat) : Bool :=
  decide (media ≤ u) && decide (u + w ≤ media + n) && bitsOf mask (u - media) w == 2 ^ w - 1

/-- A mask of written bytes touches a byte of a unit. -/
def touchesUnit (media mask u w : Nat) : Bool :=
  if media ≤ u then bitsOf mask (u - media) w != 0 else bitsOf mask 0 (w - (media - u)) != 0

/-- A write meets a poisoned unit that it covers only in part (R235). -/
def State.partialPoison (s : State) (media n mask : Nat) : Bool :=
  let w := if media < 2 ^ 40 then 32 else 64
  (unitsOf media n).any fun u => s.poison.contains u && touchesUnit media mask u w && !coversUnit media n mask u w

/-- Poison that a write clears: units it covers whole. -/
def State.clearPoison (s : State) (media n mask : Nat) : List Nat :=
  let w := if media < 2 ^ 40 then 32 else 64
  s.poison.filter fun u => !((unitsOf media n).contains u && coversUnit media n mask u w)

/-- The word a watch is for, and its comparand. -/
def watchWord (m : Msg) : Word := m.payload.getD 0 0
def watchValue (m : Msg) : Word := m.payload.getD 2 0

/-- The resume of a watch or of a barrier wait (R213, 15_sync.md R283): from the home, in a delivery window. -/
def State.homeResumes (s : State) (m : Msg) (window : Nat) (status : BitVec 4) (w0 w1 : Word) : State :=
  s.route { replyTo m 0x02 [w0, w1] with
    stamp := s.stamp, unit := homeResume, rstat := status, srcChip := s.hub.chipId, window := window }

/-- The value of a watched word. -/
def State.watched (s : State) (m : Msg) : Word := word (s.devLoad (devOf (watchWord m)) 8)

/-- Watches that fire are resumed; those of a reproducible launch, whose watches are compared as a window closes, in the window
that has closed (R204). -/
def State.fireAll (s : State) (ws : List Msg) : State :=
  ws.foldl (fun s m => s.homeResumes m ((s.launch m.launch).window - 1) 0 (s.watched m) 0) s

/-- A watch's word differs from its comparand. -/
def State.fires (s : State) (m : Msg) : Bool := s.watched m != watchValue m

/-- A watch belongs to a reproducible launch, which compares it at window closes (R204). -/
def State.windowed (s : State) (m : Msg) : Bool := (s.launch m.launch).repro

/-- After a write to a line, the watches on its words are compared (R213). -/
def State.checkWatches (s : State) (unit line : Nat) : State :=
  let hit := fun (s : State) (m : Msg) => devOf (watchWord m) / 64 == line && !s.windowed m && s.fires m
  let s' := s.modStack unit fun k => { k with watches := k.watches.filter fun m => !hit s m }
  s'.fireAll ((s.stack unit).watches.filter (hit s))

/-- A write of n bytes of a line under a byte mask: its status. A write that meets poison it does not cover is not performed. -/
def State.homeWrite (s : State) (m : Msg) (ga : Word) (mask : Nat) (bs : List Byte) (mgmt : Bool) : State × Nat :=
  match s.findLine m ga mgmt false true with
  | .refused st rec => (s.recordLost m ga rec, st)
  | .at media _ =>
    let s := s.heated m.unit (devOf ga)
    let s := if mask = 2 ^ bs.length - 1 then s.overwrite media bs.length else s
    let s := s.detect media bs.length
    if s.partialPoison media bs.length mask then (s.recordPoison m 0x0003 ga, 1)
    else
      let s := { s with mem := memWriteMasked s.mem media mask bs, poison := s.clearPoison media bs.length mask,
                        stored := s.noteStored media bs.length }
      (s.checkWatches m.unit (devOf ga / 64), 0)

/-! ### Writes of the device -/

/-- The home of a device address by its page's entry. -/
def State.homeUnit (s : State) (a : Nat) : Nat := homeOf (dpitPlacement (s.dpit (pageOf a))) a

/-- The watches on n lines from one on are compared. -/
def State.checkLines (s : State) (line : Nat) : Nat → State
  | 0 => s
  | n + 1 => (s.checkWatches (s.homeUnit (64 * line)) line).checkLines (line + 1) n

/-- Bytes that a unit of the device writes from a device address; the watches on their lines are compared. -/
def State.devStore (s : State) (a : Nat) (bs : List Byte) : State :=
  (s.devWrite a bs).checkLines (a / 64) ((a + bs.length + 63) / 64 - a / 64)

/-! ### Tensed pages (17_tensed.md R299) -/

/-- The nanoseconds between two touches of a page's sweep: each of its 4,096 units is touched once in 2^30 ns. -/
def sweepStep : Nat := 2 ^ 18

/-- The law units begin to sweep a `TENSED` page of this chip. With the first page a pass begins. -/
def State.sweepPage (s : State) (page : Nat) (via : Option (Nat × Word)) : State :=
  if (s.hub.tensed.find page).isSome then s
  else
    let s := if s.hub.tensed.isEmpty then s.modHub fun h =>
        { h with passStart := s.ktick.toNat, vfs := h.vfs.map fun v => (v.1, { v.2 with swept := v.2.bases, passing := v.2.bases }) }
      else s
    let s := s.modHub fun h => { h with tensed := h.tensed.set page via }
    { s with timers := s.timers ++ [(s.ktick.toNat + sweepStep, .sweepTouch (word (s.hub.chipId.toNat * 2 ^ 44 + page * 65536)))] }

/-! ### Requests of the management path (24_system.md R404) -/

/-- The cause that a status raises at a blocking instruction, or that its marker raises (R202). -/
def statusCause (status : Nat) : Nat := if status = 1 then 0x60 else if status = 2 then 0x5A else 0x92

/-- The barrier object that a device address lies in is LIVE (15_sync.md R277). -/
def State.objectLive (s : State) (a : Nat) : Bool := s.devLoad (a / 256 * 256 + 18) 1 == 1

/-- The issuing core is a management core. -/
def State.isMgmt (s : State) : Bool := decide (Config.firstMgmtCore ≤ s.curCore)

end Sys2Proof.Machine
end

