-- ==== Sys2Proof/Machine/Flags.lean ====
section
/-!
DEFINITION. The floating-point flags (08_numbers.md R162): NV invalid, DZ divide by zero, OF overflow, UF underflow and NX
inexact, as the five bits of kstat[20:16] (05_scalar.md R82), and how the flags of many lanes join. Which operation raises
which flag stands with the operation in Machine/Number.lean.
-/
namespace Sys2Proof.Machine

/-- The five flags: NV is bit 4, then DZ, OF, UF, and NX is bit 0. -/
abbrev Flags := BitVec 5

def flagNV : Flags := 0b10000
def flagDZ : Flags := 0b01000
def flagOF : Flags := 0b00100
def flagUF : Flags := 0b00010
def flagNX : Flags := 0b00001

/-- The flag when a condition holds. -/
def flagIf (c : Bool) (f : Flags) : Flags := if c then f else 0

/-- The union of the flags of a row of lanes (R162). -/
def joinFlags : List (Nat × Flags) → Flags
  | [] => 0
  | x :: t => x.2 ||| joinFlags t

end Sys2Proof.Machine
end

