-- ==== Sys2Proof/Machine/Number.lean ====
section
/-!
DEFINITION. The number formats of the Brixbin and the one rounding rule (08_numbers.md R152 to R162): exact values as
fractions, reading a code, rounding into a format with overflow, NaN and flag rules, and the exact operations of the
floating-point instructions. Every definition computes on natural numbers, so the kernel can evaluate it.
-/
namespace Sys2Proof.Machine

/-! ### Formats -/

/-- The rounding modes of R158. -/
inductive Rounding where
  | rne | rtz | rdn | rup
  deriving DecidableEq, Repr

/-- The rounding field of a prefix payload (R163). -/
def Rounding.ofCode (n : Nat) : Rounding :=
  match n with
  | 0 => .rne
  | 1 => .rtz
  | 2 => .rdn
  | _ => .rup

/-- A floating-point element format (R152). `infinity` says whether all-ones exponents hold infinity and NaN as in IEEE 754;
`nanCode` is the canonical NaN (R160), absent in the formats without NaN; `signalling` says that a NaN with a clear top
mantissa bit signals; `maxCode` is the code of the largest finite value. -/
structure Fmt where
  expBits    : Nat
  manBits    : Nat
  bias       : Nat
  infinity   : Bool
  nanCode    : Option Nat
  signalling : Bool
  maxCode    : Nat
  deriving DecidableEq, Repr

def fp64 : Fmt := ⟨11, 52, 1023, true, some 0x7FF8000000000000, true, 0x7FEFFFFFFFFFFFFF⟩
def fp32 : Fmt := ⟨8, 23, 127, true, some 0x7FC00000, true, 0x7F7FFFFF⟩
def fp16 : Fmt := ⟨5, 10, 15, true, some 0x7E00, true, 0x7BFF⟩
def bf16 : Fmt := ⟨8, 7, 127, true, some 0x7FC0, true, 0x7F7F⟩
def e4m3 : Fmt := ⟨4, 3, 7, false, some 0x7F, false, 0x7E⟩
def e5m2 : Fmt := ⟨5, 2, 15, true, some 0x7E, false, 0x7B⟩
def e3m2 : Fmt := ⟨3, 2, 3, false, none, false, 0x1F⟩
def e2m3 : Fmt := ⟨2, 3, 1, false, none, false, 0x1F⟩
def e2m1 : Fmt := ⟨2, 1, 1, false, none, false, 0x7⟩

/-- The width of a code in bits. -/
def Fmt.width (f : Fmt) : Nat := 1 + f.expBits + f.manBits

/-- The sign bit of a code, as a number. -/
def Fmt.signBit (f : Fmt) : Nat := 2 ^ (f.expBits + f.manBits)

/-- The code of infinity, in the formats that have one. -/
def Fmt.infCode (f : Fmt) : Nat := (2 ^ f.expBits - 1) * 2 ^ f.manBits

/-- A code with a sign. -/
def Fmt.signed (f : Fmt) (neg : Bool) (mag : Nat) : Nat := if neg then mag + f.signBit else mag

/-! ### Values -/

/-- A value a code stands for, or an operation gives before rounding: a NaN (`nv`: reading it raises NV), an infinity, or
the exact fraction n / d with a sign (zero keeps its sign; d is never 0). -/
inductive Val where
  | nan (nv : Bool)
  | inf (neg : Bool)
  | fin (neg : Bool) (n d : Nat)
  deriving DecidableEq, Repr

/-- The value is a NaN. -/
def Val.isNan : Val → Bool
  | .nan _ => true
  | _ => false

/-- Reading the value raises NV (R160). -/
def Val.signals : Val → Bool
  | .nan nv => nv
  | _ => false

/-- The value is a zero. -/
def Val.isZero : Val → Bool
  | .fin _ n _ => n == 0
  | _ => false

/-- The sign of a value; a NaN counts as positive. -/
def Val.neg : Val → Bool
  | .nan _ => false
  | .inf s => s
  | .fin s _ _ => s

/-- The value with the sign given. -/
def Val.withSign (s : Bool) : Val → Val
  | .nan q => .nan q
  | .inf _ => .inf s
  | .fin _ n d => .fin s n d

/-- The negated value. -/
def Val.negate (v : Val) : Val := v.withSign (!v.neg)

/-- An integer as a value. -/
def Val.ofInt (i : Int) : Val := .fin (i < 0) i.natAbs 1

/-- The magnitude m · 2^e as a fraction. -/
def pow2Frac (m : Nat) (e : Int) : Nat × Nat :=
  if 0 ≤ e then (m * 2 ^ e.toNat, 1) else (m, 2 ^ (-e).toNat)

/-- The value of a code (R152, R153), with the reserved codes of R160. -/
def Fmt.decode (f : Fmt) (code : Nat) : Val :=
  let s := code / f.signBit % 2 == 1
  let e := code / 2 ^ f.manBits % 2 ^ f.expBits
  let m := code % 2 ^ f.manBits
  if f.infinity && e == 2 ^ f.expBits - 1 then
    if m == 0 then .inf s
    else .nan (!f.signalling || m < 2 ^ (f.manBits - 1))
  else if !f.infinity && f.nanCode == some (code % f.signBit) then .nan true
  else
    let q := if e == 0 then pow2Frac m (1 - (f.bias : Int) - f.manBits)
             else pow2Frac (2 ^ f.manBits + m) ((e : Int) - f.bias - f.manBits)
    .fin s q.1 q.2

/-! ### Rounding (R158, R159, R162) -/

/-- The quotient of two naturals rounded by a mode, and whether it was inexact. -/
def roundDiv (mode : Rounding) (neg : Bool) (n d : Nat) : Nat × Bool :=
  let q := n / d
  let r := n % d
  let up := match mode with
    | .rne => decide (2 * r > d) || (2 * r == d && q % 2 == 1)
    | .rtz => false
    | .rdn => neg && r != 0
    | .rup => !neg && r != 0
  (if up then q + 1 else q, r != 0)

/-- Rounds n / d to a multiple of 2^k. -/
def roundScaled (mode : Rounding) (neg : Bool) (n d : Nat) (k : Int) : Nat × Bool :=
  if 0 ≤ k then roundDiv mode neg n (d * 2 ^ k.toNat) else roundDiv mode neg (n * 2 ^ (-k).toNat) d

/-- floor(log2 (n / d)) for positive n and d. -/
def floorLog2 (n d : Nat) : Int :=
  let e : Int := (Nat.log2 n : Int) - Nat.log2 d
  let fits := if 0 ≤ e then decide (d * 2 ^ e.toNat ≤ n) else decide (d ≤ n * 2 ^ (-e).toNat)
  if fits then e else e - 1

/-- The canonical NaN of a format and its flags: +0 with NV in the formats that have none (R160). -/
def Fmt.nanResult (f : Fmt) : Nat × Flags :=
  match f.nanCode with
  | some c => (c, 0)
  | none => (0, flagNV)

/-- The result of an overflow with a sign (R159). -/
def Fmt.overflow (f : Fmt) (mode : Rounding) (sat neg : Bool) : Nat :=
  let toMax := !f.infinity || sat || (match mode with
    | .rne => false
    | .rtz => true
    | .rdn => !neg
    | .rup => neg)
  f.signed neg (if toMax then f.maxCode else f.infCode)

/-- A nonzero magnitude n / d with a sign is tiny (R162): below the smallest normal after rounding with the exponent unbounded
below. -/
def Fmt.isTiny (f : Fmt) (mode : Rounding) (neg : Bool) (n d : Nat) : Bool :=
  let emin : Int := 1 - f.bias
  let e := floorLog2 n d
  e < emin && !(e == emin - 1 && (roundScaled mode neg n d (e - f.manBits)).1 == 2 ^ (f.manBits + 1))

/-- `round_to(fmt, exact, mode)` on a nonzero magnitude n / d (R158), with overflow (R159) and flags (R162). -/
def Fmt.roundMag (f : Fmt) (mode : Rounding) (sat neg : Bool) (n d : Nat) : Nat × Flags :=
  let emin : Int := 1 - f.bias
  let e := floorLog2 n d
  let le := if e < emin then emin else e
  let r := roundScaled mode neg n d (le - f.manBits)
  let mag := (le - emin).toNat * 2 ^ f.manBits + r.1
  if mag > f.maxCode then (f.overflow mode sat neg, flagOF ||| flagNX)
  else
    (f.signed neg mag, flagIf r.2 flagNX ||| flagIf (r.2 && f.isTiny mode neg n d) flagUF)

/-- `round_to` on any value: NaN and infinity by R160 and R159. Reading flags are the caller's. -/
def Fmt.round (f : Fmt) (mode : Rounding) (sat : Bool) (v : Val) : Nat × Flags :=
  match v with
  | .nan _ => f.nanResult
  | .inf s => if f.infinity then (f.signed s f.infCode, 0) else (f.signed s f.maxCode, flagNV)
  | .fin s n d => if n == 0 then (f.signed s 0, 0) else f.roundMag mode sat s n d

/-- Conversion into an integer range (R161): the integer and the flags. -/
def roundToInt (mode : Rounding) (lo hi : Int) (v : Val) : Int × Flags :=
  match v with
  | .nan _ => (0, flagNV)
  | .inf s => (if s then lo else hi, flagNV)
  | .fin s n d =>
    let r := roundDiv mode s n d
    let i : Int := if s then -(r.1 : Int) else r.1
    if i < lo then (lo, flagNV)
    else if hi < i then (hi, flagNV)
    else (i, flagIf r.2 flagNX)

/-! ### Exact operations. Each gives the exact value and the flags it raises before rounding. -/

/-- The sign of an exact zero sum (IEEE 754-2019): that of the operands where they agree, else positive unless the mode is
`rdn`. -/
def zeroSumSign (mode : Rounding) (s t : Bool) : Bool := if s == t then s else mode == .rdn

/-- The exact sum of two fractions with signs. -/
def addFrac (mode : Rounding) (s : Bool) (n d : Nat) (t : Bool) (m e : Nat) : Val :=
  let a : Int := (if s then -1 else 1) * ((n * e : Nat) : Int)
  let b : Int := (if t then -1 else 1) * ((m * d : Nat) : Int)
  let c := a + b
  if c == 0 then .fin (zeroSumSign mode s t) 0 1 else .fin (c < 0) c.natAbs (d * e)

/-- a + b. -/
def Val.add (mode : Rounding) (a b : Val) : Val × Flags :=
  let sig := flagIf (a.signals || b.signals) flagNV
  match a, b with
  | .nan _, _ => (.nan false, sig)
  | _, .nan _ => (.nan false, sig)
  | .inf s, .inf t => if s == t then (.inf s, 0) else (.nan false, flagNV)
  | .inf s, .fin _ _ _ => (.inf s, 0)
  | .fin _ _ _, .inf t => (.inf t, 0)
  | .fin s n d, .fin t m e => (addFrac mode s n d t m e, 0)

/-- a · b. -/
def Val.mul (a b : Val) : Val × Flags :=
  let sig := flagIf (a.signals || b.signals) flagNV
  match a, b with
  | .nan _, _ => (.nan false, sig)
  | _, .nan _ => (.nan false, sig)
  | .inf s, .inf t => (.inf (s != t), 0)
  | .inf s, .fin t m _ => if m == 0 then (.nan false, flagNV) else (.inf (s != t), 0)
  | .fin s n _, .inf t => if n == 0 then (.nan false, flagNV) else (.inf (s != t), 0)
  | .fin s n d, .fin t m e => (.fin (s != t) (n * m) (d * e), 0)

/-- The product is an infinity times a zero. -/
def infTimesZero (a b : Val) : Bool :=
  match a, b with
  | .inf _, .fin _ m _ => m == 0
  | .fin _ n _, .inf _ => n == 0
  | _, _ => false

/-- a · b + c, fused. An infinity times a zero raises NV and gives NaN whatever the addend is (R90). -/
def Val.fma (mode : Rounding) (a b c : Val) : Val × Flags :=
  let sig := flagIf (a.signals || b.signals || c.signals) flagNV
  if infTimesZero a b then (.nan false, flagNV)
  else
    let p := a.mul b
    let r := p.1.add mode c
    (r.1, sig ||| p.2 ||| r.2)

/-- a / b. -/
def Val.div (a b : Val) : Val × Flags :=
  let sig := flagIf (a.signals || b.signals) flagNV
  match a, b with
  | .nan _, _ => (.nan false, sig)
  | _, .nan _ => (.nan false, sig)
  | .inf _, .inf _ => (.nan false, flagNV)
  | .inf s, .fin t _ _ => (.inf (s != t), 0)
  | .fin s _ _, .inf t => (.fin (s != t) 0 1, 0)
  | .fin s n d, .fin t m e =>
    if m == 0 then (if n == 0 then (.nan false, flagNV) else (.inf (s != t), flagDZ))
    else (.fin (s != t) (n * e) (d * m), 0)

/-- The largest natural whose square is at most n, found bit by bit from bit k - 1 down. -/
def isqrtBits (n : Nat) : Nat → Nat → Nat
  | 0, r => r
  | k + 1, r => if (r + 2 ^ k) * (r + 2 ^ k) ≤ n then isqrtBits n k (r + 2 ^ k) else isqrtBits n k r

/-- floor(sqrt n). -/
def isqrt (n : Nat) : Nat := isqrtBits n (Nat.log2 n / 2 + 1) 0

/-- A fraction that every rounding of a format with at most 53 significant bits treats as sqrt(n / d): the root cut to 80 or
more significant bits, with a sticky bit below them when it was cut. -/
def rootFrac (n d : Nat) : Nat × Nat :=
  let e := floorLog2 n d
  let p : Nat := (160 - e).toNat / 2
  let s := n * 2 ^ (2 * p) / d
  let r := isqrt s
  let exact := r * r * d == n * 2 ^ (2 * p)
  (2 * r + (if exact then 0 else 1), 2 ^ (p + 1))

/-- sqrt a. -/
def Val.sqrt (a : Val) : Val × Flags :=
  match a with
  | .nan nv => (.nan false, flagIf nv flagNV)
  | .inf s => if s then (.nan false, flagNV) else (.inf false, 0)
  | .fin s n d =>
    if n == 0 then (.fin s 0 1, 0)
    else if s then (.nan false, flagNV)
    else
      let r := rootFrac n d
      (.fin false r.1 r.2, 0)

/-- 1 / a (07_vector.md R139). -/
def Val.rcp (a : Val) : Val × Flags := (Val.fin false 1 1).div a

/-- 1 / sqrt a (R139). -/
def Val.rsq (a : Val) : Val × Flags :=
  match a with
  | .nan nv => (.nan false, flagIf nv flagNV)
  | .inf s => if s then (.nan false, flagNV) else (.fin false 0 1, 0)
  | .fin s n d =>
    if n == 0 then (.inf s, flagDZ)
    else if s then (.nan false, flagNV)
    else
      let r := rootFrac d n
      (.fin false r.1 r.2, 0)

/-! ### 2^a and log2 a (R139), for formats of at most 24 significant bits -/

/-- The fraction bits of the fixed-point work below. -/
def fixBits : Nat := 256

/-- The terms 1 / ((2k+1) · z^-(2k+1)) of the series of atanh, for z = num / den in fixed point: `t` is the current power of
z, `z2` is z squared. Structural on the number of terms left. -/
def atanhSum (z2 : Nat) : Nat → Nat → Nat → Nat
  | 0, _, _ => 0
  | n + 1, k, t => t / (2 * k + 1) + atanhSum z2 n (k + 1) (t * z2 / 2 ^ fixBits)

/-- ln((1+z)/(1-z)) = 2 · atanh z in fixed point, for 0 ≤ z ≤ 1/3. -/
def lnFix (z : Nat) : Nat := 2 * atanhSum (z * z / 2 ^ fixBits) 84 0 z

/-- ln 2 in fixed point (z = 1/3). -/
def ln2Fix : Nat := lnFix (2 ^ fixBits / 3)

/-- The terms y^k / k! of the series of exp in fixed point. -/
def expSum (y : Nat) : Nat → Nat → Nat → Nat
  | 0, _, _ => 0
  | n + 1, k, t => t + expSum y n (k + 1) (t * y / 2 ^ fixBits / (k + 1))

/-- 2^(n/d) for 0 ≤ n/d < 1 in fixed point, cut below. -/
def exp2Fix (n d : Nat) : Nat := expSum (n * ln2Fix / d) 64 0 (2 ^ fixBits)

/-- 2^a. A 2^a of a non-integer a is irrational, so it is never a value of a format nor a tie: the fixed-point value is cut
16 bits above its error and a sticky bit set. DEDUCED, log 9. -/
def Val.exp2 (a : Val) : Val × Flags :=
  match a with
  | .nan nv => (.nan false, flagIf nv flagNV)
  | .inf s => if s then (.fin false 0 1, 0) else (.inf false, 0)
  | .fin s n d =>
    let q := n / d
    let r := n % d
    let clamp := min q 1000
    let i : Int := if s then -((if r == 0 then clamp else clamp + 1 : Nat) : Int) else clamp
    let f := if q > 1000 then (0, 1) else if s && r != 0 then (d - r, d) else (r, d)
    if r == 0 || q > 1000 then
      let p := pow2Frac 1 i
      (.fin false p.1 p.2, 0)
    else
      let p := pow2Frac (2 * (exp2Fix f.1 f.2 / 2 ^ 16) + 1) (i - (fixBits - 16 : Nat) - 1)
      (.fin false p.1 p.2, 0)

/-- log2 a. The log2 of a value that is no power of two is irrational; it is cut in the same way. DEDUCED, log 9. -/
def Val.log2 (a : Val) : Val × Flags :=
  match a with
  | .nan nv => (.nan false, flagIf nv flagNV)
  | .inf s => if s then (.nan false, flagNV) else (.inf false, 0)
  | .fin s n d =>
    if n == 0 then (.inf true, flagDZ)
    else if s then (.nan false, flagNV)
    else
      let e := floorLog2 n d
      let m := if 0 ≤ e then (n, d * 2 ^ e.toNat) else (n * 2 ^ (-e).toNat, d)
      if m.1 == m.2 then (Val.ofInt e, 0)
      else
        let z := (m.1 - m.2) * 2 ^ fixBits / (m.1 + m.2)
        let frac : Nat := lnFix z * 2 ^ fixBits / ln2Fix / 2 ^ 16
        let scaled : Int := e * ((2 ^ (fixBits - 16) : Nat) : Int) + (frac : Int)
        (.fin (scaled < 0) (if scaled < 0 then 2 * scaled.natAbs - 1 else 2 * scaled.natAbs + 1) (2 ^ (fixBits - 15)), 0)

/-! ### Comparison -/

/-- The relation of two values: less, equal, greater or unordered. -/
inductive Rel where
  | lt | eq | gt | un
  deriving DecidableEq, Repr

/-- A finite value as a signed numerator over d. -/
def signedNum (s : Bool) (n : Nat) : Int := if s then -(n : Int) else n

/-- Compares two values; +0 equals -0, and a NaN is unordered (R91, R141). -/
def Val.rel (a b : Val) : Rel :=
  match a, b with
  | .nan _, _ => .un
  | _, .nan _ => .un
  | .inf s, .inf t => if s == t then .eq else if s then .lt else .gt
  | .inf s, .fin _ _ _ => if s then .lt else .gt
  | .fin _ _ _, .inf t => if t then .gt else .lt
  | .fin s n d, .fin t m e =>
    let x := signedNum s n * e
    let y := signedNum t m * d
    if x < y then .lt else if x == y then .eq else .gt

/-- minimumNumber (`least`) or maximumNumber of IEEE 754-2019, with -0 below +0 (R90): the value and its flags. A single
NaN yields the other operand; a signalling NaN raises NV. -/
def Val.pick (least : Bool) (a b : Val) : Val × Flags :=
  let sig := flagIf (a.signals || b.signals) flagNV
  if a.isNan then (if b.isNan then (.nan false, sig) else (b, sig))
  else if b.isNan then (a, sig)
  else match a.rel b with
    | .lt => (if least then a else b, sig)
    | .gt => (if least then b else a, sig)
    | _ => (if a.neg == least then a else b, sig)

end Sys2Proof.Machine
end

