-- ==== Sys2Proof/Machine/Operands.lean ====
section
/-!
DEFINITION. The operand forms of the custom instructions (04_encoding.md R62 to R65): which fields are sources, with which
empty action, register groups, lanes of vector registers (07_vector.md R135), and the format payload in force
(08_numbers.md R163, R164).
-/
namespace Sys2Proof.Machine

/-- The group size that `w` selects (R63). -/
def groupSize (w : BitVec 2) : Nat := 2 ^ w.toNat

/-! ### Sources and destinations of a K-format word -/

def x1 (k : KOps) (n : Nat := 1) : Src := ⟨false, k.rs1.toNat, n, k.e1, 1⟩
def x2 (k : KOps) (n : Nat := 1) : Src := ⟨false, k.rs2.toNat, n, k.e2, 2⟩
def v1 (k : KOps) (n : Nat := 1) : Src := ⟨true, k.rs1.toNat, n, k.e1, 1⟩
def v2 (k : KOps) (n : Nat := 1) : Src := ⟨true, k.rs2.toNat, n, k.e2, 2⟩

/-- The old `rd` read as a source, which has no empty action (R65). -/
def xd (k : KOps) (n : Nat := 1) : Src := ⟨false, k.rd.toNat, n, false, 0⟩
def vd (k : KOps) (n : Nat := 1) : Src := ⟨true, k.rd.toNat, n, false, 0⟩

def toX (k : KOps) (n : Nat := 1) : Dst := ⟨false, k.rd.toNat, n, 0⟩
def toV (k : KOps) (n : Nat := 1) : Dst := ⟨true, k.rd.toNat, n, 0⟩

/-- A base source: it stalls while empty (R65). -/
def baseSrc (r : Reg) (field : Nat) : Src := ⟨false, r.toNat, 1, false, field⟩

/-! ### Lanes (07_vector.md R135) -/

/-- n lanes of e bits of a number, from lane i up. -/
def lanesFrom (e v i : Nat) : Nat → List Nat
  | 0 => []
  | n + 1 => bitsOf v (e * i) e :: lanesFrom e v (i + 1) n

/-- The lanes of e bits of a 512-bit register. -/
def lanes (e : Nat) (v : VWord) : List Nat := lanesFrom e v.toNat 0 (512 / e)

/-- The number whose lanes of e bits are a list, lane 0 lowest. -/
def packLanes (e : Nat) : List Nat → Nat
  | [] => 0
  | a :: t => a % 2 ^ e + 2 ^ e * packLanes e t

/-- The register whose lanes are a list. -/
def ofLanes (e : Nat) (l : List Nat) : VWord := BitVec.ofNat 512 (packLanes e l)

/-- The registers of a group as one number, the first register lowest. -/
def groupNum : List VWord → Nat
  | [] => 0
  | v :: t => v.toNat + 2 ^ 512 * groupNum t

/-- A number as a group of registers. -/
def groupOf : Nat → Nat → List VWord
  | 0, _ => []
  | n + 1, v => BitVec.ofNat 512 v :: groupOf n (v / 2 ^ 512)

/-- The lane width of a T_I type code (R63). -/
def intWidth (w : BitVec 2) : Nat := 8 * 2 ^ w.toNat

/-- The format of a T_F type code (R63). -/
def laneFmt (w : BitVec 2) : Fmt :=
  match w.toNat with
  | 0 => fp32
  | 1 => fp16
  | 2 => bf16
  | _ => fp64

/-- Applies an operation to the lanes of two rows. -/
def zipLanes {α : Type} (f : Nat → Nat → α) : List Nat → List Nat → List α
  | a :: s, b :: t => f a b :: zipLanes f s t
  | _, _ => []

/-- Applies an operation to the lanes of three rows. -/
def zipLanes3 {α : Type} (f : Nat → Nat → Nat → α) : List Nat → List Nat → List Nat → List α
  | a :: s, b :: t, c :: u => f a b c :: zipLanes3 f s t u
  | _, _, _ => []

/-! ### The format payload (08_numbers.md R163) -/

/-- The payload in force: `kpfx` while a prefix is pending, else the all-zero payload (R164). -/
def Slot.payload (sl : Slot) : BitVec 17 := if sl.pp then sl.kpfx else 0

def payA (p : BitVec 17) : Nat := bitsOf p.toNat 13 4
def payB (p : BitVec 17) : Nat := bitsOf p.toNat 9 4
def payAcc (p : BitVec 17) : Nat := bitsOf p.toNat 7 2
def payScale (p : BitVec 17) : Nat := bitsOf p.toNat 5 2
def payG (p : BitVec 17) : Nat := bitsOf p.toNat 3 2
def payMode (p : BitVec 17) : Rounding := Rounding.ofCode (bitsOf p.toNat 1 2)
def paySat (p : BitVec 17) : Bool := bitOf p.toNat 0

/-- `kaddr` of 0x28 FORMAT_UNSUPPORTED (R175). -/
def formatAddr (p : BitVec 17) (w : BitVec 32) : Word := word (p.toNat + w.toNat * 2 ^ 32)

/-- The payloads of the FP arithmetic forms: only RM and SAT may be set (R164). -/
def payPlain (p : BitVec 17) : Bool := payA p == 0 && payB p == 0 && payAcc p == 0 && payScale p == 0 && payG p == 0

/-- Rounds the exact result of an operation into a format and joins the flags (07_vector.md R138, 05_scalar.md R90). -/
def finishFp (f : Fmt) (p : BitVec 17) (r : Val × Flags) : Nat × Flags :=
  let q := f.round (payMode p) (paySat p) r.1
  (q.1, r.2 ||| q.2)

/-- The element formats that are floating-point, by code (R163). -/
def floatFmt (code : Nat) : Option Fmt :=
  match code with
  | 0 => some bf16
  | 1 => some fp16
  | 2 => some e4m3
  | 3 => some e5m2
  | 4 => some e3m2
  | 5 => some e2m3
  | 6 => some e2m1
  | _ => none

/-- The integer element formats, by code: width, signed, and asymmetric (R156, R157, R163). -/
def intFmt (code : Nat) : Option (Nat × Bool × Bool) :=
  match code with
  | 8 => some (8, true, false)
  | 9 => some (8, false, false)
  | 10 => some (8, false, true)
  | 12 => some (4, true, false)
  | 13 => some (4, false, false)
  | 14 => some (4, false, true)
  | _ => none

/-- The width of an element format by code. -/
def elemWidth (code : Nat) : Nat :=
  match floatFmt code with
  | some f => f.width
  | none =>
    match intFmt code with
    | some i => i.1
    | none => 8

/-! ### Number types of a conversion (05_scalar.md R91, 08_numbers.md R168) -/

/-- A source or destination type of `fcvt`, `vcvt`, `vpack` or `vunpk`. -/
inductive NumType where
  | fp (f : Fmt)
  | int (width : Nat) (signed : Bool)
  deriving DecidableEq, Repr

/-- The width of a type in bits. -/
def NumType.width : NumType → Nat
  | .fp f => f.width
  | .int w _ => w

/-- The value of a code (R152, R156). -/
def NumType.value (t : NumType) (code : Nat) : Val :=
  match t with
  | .fp f => f.decode code
  | .int w s => if s then .ofInt (sext code w) else .ofInt (code % 2 ^ w : Nat)

/-- The least and greatest integer of an integer type. -/
def intRange (w : Nat) (signed : Bool) : Int × Int :=
  if signed then (-(2 ^ (w - 1) : Nat), (2 ^ (w - 1) - 1 : Nat)) else (0, (2 ^ w - 1 : Nat))

/-- The code of a value rounded into a type, with the flags of reading and of rounding (R158 to R161). -/
def NumType.encode (t : NumType) (mode : Rounding) (sat : Bool) (v : Val) : Nat × Flags :=
  match t with
  | .fp f =>
    let r := f.round mode sat v
    (r.1, r.2 ||| flagIf v.signals flagNV)
  | .int w s =>
    let b := intRange w s
    let r := roundToInt mode b.1 b.2 v
    (lowBits r.1 w, r.2)

/-- The type of an element format code (R163); an asymmetric code is its natural code. -/
def elemType (code : Nat) : NumType :=
  match floatFmt code with
  | some f => .fp f
  | none =>
    match intFmt code with
    | some (w, s, _) => .int w s
    | none => .int 8 false

/-- A value times 2^e, exactly. -/
def Val.scale (v : Val) (e : Int) : Val :=
  match v with
  | .fin s n d => if 0 ≤ e then .fin s (n * 2 ^ e.toNat) d else .fin s n (d * 2 ^ (-e).toNat)
  | x => x

end Sys2Proof.Machine
end

