-- ==== Sys2Proof/Machine/Ordering.lean ====
section
/-!
DEFINITION. The ordering instructions of 14_ordering.md: `fen` (R249, R250), `own` and `ownw` (R251 to R253), and the event
that writes a forwarding entry to its stripe (R248).
-/
namespace Sys2Proof.Machine

/-- `fen`: `.sc` stands until its wait set is complete; `.rl` and `.aq` complete at once and hold the next access. -/
def execFen (k : KOps) (s : State) : Host.Outcome State Fault Refusal :=
  let kind := bitsOf k.rs2.toNat 0 2
  let scope := bitsOf k.rs2.toNat 2 2
  .next (s.run { word := wordOf (.fen k) }
    (if kind = 3 then s.fullFence scope else .ok (s.modCur fun sl => (sl.addFence kind scope).complete)))

/-- The tile that an `own` or `ownw` address names, or the cause it raises (R252). -/
def ownTile (a : Word) : Res Nat :=
  (require (fld a 48 16 == 0) 0x53 a).bind fun _ =>
  let off := fld a 0 44
  (require (isNear a.toNat && decide (padBase ≤ off) && decide (off < padBase + padSize)) 0x72 a).bind fun _ =>
  .ok ((off - padBase) / 4096)

/-- A forwarding entry touches a tile. -/
def Fwd.inTile (f : Fwd) (t : Nat) : Bool := decide (f.addr < (t + 1) * 4096) && decide (t * 4096 < f.addr + f.bytes.length)

/-- Some slot of a cluster still has a near store to a tile in its forwarding table. -/
def State.tileBusy (s : State) (cl t : Nat) : Bool :=
  s.slots.any fun e => clusterOf (coreOf e.1) == cl && e.2.fwd.any fun f => f.inTile t

/-- `own`: gives a tile to the engines once every near store to it is in its stripe (R252). -/
def execOwn (k : KOps) (s : State) : Host.Outcome State Fault Refusal :=
  .next (s.run { word := wordOf (.own k), srcs := [x1 k] }
    (let a := s.sl.xr k.rs1.toNat
     let cl := clusterOf s.curCore
     (ownTile a).bind fun t =>
     (require (!(s.cluster cl).owner.get t false) 0xA0 a).bind fun _ =>
     s.ordered true fun s =>
     (stallUnless (!s.tileBusy cl t)).bind fun _ =>
     .ok ((s.modCluster cl fun c => { c with owner := c.owner.set t true }).complete)))

/-- `ownw`: stands until the tile is THREAD (R253). -/
def execOwnw (k : KOps) (s : State) : Host.Outcome State Fault Refusal :=
  .next (s.run { word := wordOf (.ownw k), srcs := [x1 k] }
    ((ownTile (s.sl.xr k.rs1.toNat)).bind fun t =>
     (stallUnless (!(s.cluster (clusterOf s.curCore)).owner.get t false)).bind fun _ => .ok s.complete))

/-- What waits for a slot to have no near store or request out is looked at again: a suspension or an end of its clause. -/
def State.nudge (s : State) (k : Nat) : State :=
  match (s.slot k).phase with
  | .suspending _ => s.post (.suspensionCommit k)
  | .exiting _ _ => s.post (.exitCommit k)
  | _ => s

/-- The oldest entry of a slot's forwarding table is written into its stripe (R248). A release in the core's outbound queue
that waits for the entry waits for one entry less. -/
def State.drainOne (s : State) (k : Nat) : State :=
  let sl := s.slot k
  let core := coreOf k
  match sl.fwd with
  | [] => s
  | f :: rest =>
    let a := padAddr (clusterOf core) f.addr
    let s := { s.storeBytes a f.bytes with nearBad := clearBad s.nearBad a f.bytes.length, nearWeak := clearBad s.nearWeak a f.bytes.length }
    let s := s.setSlot k { sl with fwd := rest }
    let s := s.modCore core fun c =>
      { c with outq := c.outq.map fun o => if o.slot = k then { o with fwd := o.fwd - 1 } else o }
    (s.post (.messageDeparture core)).nudge k

/-- All entries of a slot's forwarding table are written. -/
def State.drainAll (s : State) (k : Nat) : Nat → State
  | 0 => s
  | n + 1 => (s.drainOne k).drainAll k n

/-- The stripe write queues of a cluster are drained (11_memory_access.md R213, 15_sync.md R285). -/
def State.drainCluster (s : State) (cl : Nat) : State :=
  (s.slots.filter fun e => clusterOf (coreOf e.1) == cl).foldl (fun s e => s.drainAll e.1 e.2.fwd.length) s

/-- FORWARDING_ENTRY_WRITE: the oldest entry of a slot's forwarding table reaches its stripe. -/
def execForwardingEntryWrite (slot : Nat) (s : State) : Host.Outcome State Fault Refusal := .next (s.drainOne slot)

end Sys2Proof.Machine
end

