-- ==== Sys2Proof/Machine/Clause.lean ====
section
/-!
DEFINITION. Clauses (06_messages.md R105 to R122): partitions and placement (R115, R116, 24_system.md R415), clause records
and their indices (R110, R111), suspension and resumption (R112 to R114), the runnable pool and dispatch (R108, R109),
binding a clause to a slot (02_idioms.md R18, R103), pre-emption (R119), and the end of a clause (R132).
-/
namespace Sys2Proof.Machine

/-! ### Partitions (24_system.md R415, R418) -/

/-- The first package cluster of a node of the partition tree, and the number of clusters it covers. -/
def nodeFirst (n : Nat) : Nat := (n - 2 ^ n.log2) * 2 ^ (9 - n.log2)
def nodeSize (n : Nat) : Nat := 2 ^ (9 - n.log2)

/-- A node covers a package cluster. -/
def nodeHas (n cl : Nat) : Bool := decide (nodeFirst n ≤ cl) && decide (cl < nodeFirst n + nodeSize n)

/-- The enabled clusters of each die of a part (00_scope.md R1). -/
def perDie (harvest : Nat) : Nat := match harvest with | 1 => 112 | 2 => 96 | _ => 128

/-- The clusters of a die that are disabled: as many as the part lacks, those that its fuses name first; were they fewer, the highest of the
die beside them (R2). DESIGN CHOICE, log 117. -/
def Hub.disabledIn (h : Hub) (die : Nat) : List Nat :=
  let want := 128 - perDie h.harvest
  let named := ((h.fused.filter fun c => c / 128 == die).foldl insertNat []).take want
  named ++ ((((List.range 128).map fun i => die * 128 + 127 - i).filter fun c => !named.contains c).take (want - named.length))

/-- The disabled clusters of the package: CMAP bits that are 0 (26_platform.md R447). -/
def Hub.disabled (h : Hub) : List Nat := if perDie h.harvest = 128 then [] else (List.range 4).flatMap h.disabledIn

/-- The enabled clusters among n from one on. -/
def clustersFrom (fused : List Nat) (first : Nat) : Nat → List Nat
  | 0 => []
  | n + 1 => if fused.contains first then clustersFrom fused (first + 1) n else first :: clustersFrom fused (first + 1) n

/-- The enabled clusters of a node, ascending. -/
def State.nodeClusters (s : State) (n : Nat) : List Nat := clustersFrom s.hub.disabled (nodeFirst n) (nodeSize n)

/-- The partition that holds a core. -/
def State.partOf (s : State) (core : Nat) : Option Nat :=
  if s.hub.disabled.contains (clusterOf core) then none
  else (s.hub.parts.find? fun e => nodeHas e.1 (clusterOf core)).map fun e => e.1

/-- The core that serves a core number: the proxy of a core that a SHRINK removed (R418), else the core itself. -/
def State.served (s : State) (core : Nat) : Nat := s.hub.proxies.get core core

/-- The logical core count of a node. -/
def State.logicalCount (s : State) (n : Nat) : Nat := 8 * (s.nodeClusters n).length

/-- The physical core at a position among the cores of a list of clusters. -/
def coreIn (cls : List Nat) (i : Nat) : Nat := cls.getD (i / 8) 0 * 8 + i % 8

/-- The physical core of a logical core of a node. -/
def State.coreAt (s : State) (n i : Nat) : Nat := coreIn (s.nodeClusters n) i

/-- The logical number of a physical core of a node. -/
def State.logicalOf (s : State) (n core : Nat) : Nat := 8 * (s.nodeClusters n).idxOf (clusterOf core) + core % 8

/-- The context of a core that holds a function, if it has one. -/
def State.ctxOfVf (s : State) (core vf : Nat) : Option Nat :=
  [0, 1, 2, 3].find? fun c => let x := s.ctx core c; x.assigned && x.vf == vf

/-! ### Digests and placement (R115, R116) -/

/-- The mixing function of R115. -/
def mix (d : Word) (n : Nat) : Word :=
  let z := d ^^^ (word (n + 1) * 0x9E3779B97F4A7C15)
  let z := (z ^^^ (z >>> 30)) * 0xBF58476D1CE4E5B9
  let z := (z ^^^ (z >>> 27)) * 0x94D049BB133111EB
  z ^^^ (z >>> 31)

/-- The position of a digest among n cores. -/
def hashRank (d : Word) (n : Nat) : Nat := d.toNat * n / 2 ^ 64

/-- Placement by hash on a partition. -/
def State.hashCore (s : State) (node : Nat) (d : Word) : Nat := s.coreAt node (hashRank d (s.logicalCount node))

/-- Affine placement on the partition's cores of a die; by hash where it has none. -/
def State.affineCore (s : State) (node : Nat) (d : Word) (die : Nat) : Nat :=
  let cls := (s.nodeClusters node).filter fun c => c / 128 == die
  if cls.isEmpty then s.hashCore node d else coreIn cls (hashRank d (8 * cls.length))

/-! ### Records (R110, R111, R117) -/

/-- A clause record. -/
def State.record (s : State) (core c i : Nat) : Rec := (s.ctx core c).recs.get i {}
def State.setRecord (s : State) (core c i : Nat) (r : Rec) : State := s.modCtx core c fun x => { x with recs := x.recs.set i r }
def State.modRecord (s : State) (core c i : Nat) (f : Rec → Rec) : State := s.setRecord core c i (f (s.record core c i))

/-! ### The tables of a context in memory (R110, R111, R117, 15_sync.md R278, 24_system.md R422)

`Rec` holds a clause's record, family entry and registrations; each change is written through to the entry in the context's table, under
the context's `kasid`. A clause that resumes starts from `Rec`: log 13. -/

/-- An entry's address in a table: by core and index. -/
def entryVa (base : Word) (core i size : Nat) : Word := base + word ((core * 2 ^ 18 + i) * size)
def State.recordVa (s : State) (core c i : Nat) : Word := entryVa (s.ctx core c).recBase core i 64
def State.familyVa (s : State) (core c i : Nat) : Word := entryVa (s.ctx core c).famBase core i 1024
def State.regsVa (s : State) (core c i : Nat) : Word := entryVa (s.ctx core c).regBase core i 128

/-- The request by which a core writes a line of an entry. Its acknowledgement finds nothing that waits. -/
def State.tableMsg (s : State) (core c : Nat) (ga : Word) (unit : Nat) : Msg :=
  { dstChip := chipOf ga, kind := 0x21, units := 6, tag := chanTag 0 core, srcChip := s.hub.chipId,
    srcVf := BitVec.ofNat 7 (s.ctx (s.served core) c).vf, stamp := s.stamp, ctx := BitVec.ofNat 2 c, unit := unit }

/-- The global address and home of a line of an entry, or the cause of a fault (11_memory_access.md R198). -/
def State.tableLine (s : State) (core c : Nat) (va : Word) : Res (Word × Nat) :=
  if fld va 48 16 ≠ 0 then .trap 0x53 va
  else match s.leafFor core (s.ctx (s.served core) c).kasid.toNat va.toNat with
    | .fail f => .trap f va
    | .ok leaf ps =>
      let ga := s.globalOf leaf ps va.toNat
      let unit := homeOf (leafPlacement leaf) (devOf ga)
      (checkLeafAccess false .write leaf va).bind fun _ =>
      if chipOf ga ≠ s.hub.chipId then (require (!s.chipDown (chipOf ga).toNat) 0x92 va).bind fun _ => .ok (ga, unit)
      else match s.findLine (s.tableMsg core c ga unit) ga false false true with
        | .refused _ _ => .trap 0x5A va
        | .at _ _ => .ok (ga, unit)

/-- The first fault among n lines of an entry: its cause and address. -/
def State.tableFault (s : State) (core c : Nat) (va : Word) : Nat → Option (Nat × Word)
  | 0 => none
  | n + 1 =>
    match s.tableLine core c va with
    | .trap f a => some (f, a)
    | _ => s.tableFault core c (va + 64) n

/-- Lines of an entry written, at their homes on this chip or by requests to another. -/
def State.writeTable (s : State) (core c : Nat) (va : Word) : List (List Byte) → State
  | [] => s
  | line :: t =>
    (match s.tableLine core c va with
      | .ok (ga, unit) =>
        let m := s.tableMsg core c ga unit
        if chipOf ga = s.hub.chipId then (s.homeWrite m ga (2 ^ 64 - 1) line false).1
        else s.route { m with payload := [ga, 0] ++ wordsOf 8 line ++ [word (2 ^ 64 - 1), 0] }
      | _ => s).writeTable core c (va + 64) t

/-- The report of a fault at an entry that no slot writes: to the trap ring, in the name of the record's core. A full ring leaves it at the
hub, so that nothing is lost (24_system.md R406). DESIGN CHOICE, log 13. -/
def State.tableReport (s : State) (core c i cause : Nat) (va : Word) : State :=
  let r := s.record core c i
  let p := [word cause, va, r.clause.codeBase + r.pc, slotWord (core * 4) 0 0, r.digest, 0, 0, word (c + (s.ctx (s.served core) c).vf * 2 ^ 8)]
  if ringFull s.hub.ktrapHead s.hub.ktrapTail 4096 || !s.hub.heldReports.isEmpty then s.modHub fun h => { h with heldReports := h.heldReports ++ [p] }
  else s.trapRingWrite p

/-- Lines of an entry are written, or the kernel has the report of the fault (R111). -/
def State.putTable (s : State) (core c i : Nat) (va : Word) (lines : List (List Byte)) : State :=
  match s.tableFault core c va lines.length with
  | some (f, a) => s.tableReport core c i f a
  | none => s.writeTable core c va lines

/-- The 64 bytes of a record (R110). -/
def Rec.image (r : Rec) : List Byte :=
  toBytes 4 r.pc.toNat ++ toBytes 4 r.seq.toNat ++ toBytes 8 r.digest.toNat ++ toBytes 2 r.status
    ++ toBytes 1 (r.clause.prio % 8 + r.clause.homed.toNat * 8) ++ toBytes 1 r.clause.chan.toNat ++ toBytes 4 0
    ++ bytesOfWords ((r.carried ++ List.replicate 5 0).take 5)

/-- The first 64 bytes of a family entry (R117). -/
def Family.head (f : Family) : List Byte :=
  toBytes 8 f.parent.toNat ++ toBytes 4 f.spawned.toNat ++ toBytes 4 f.joinBase.toNat ++ toBytes 8 f.arrived.toNat ++ toBytes 8 f.lost.toNat
    ++ List.replicate 32 0

/-- A line of results of a family entry: results 8·j to 8·j + 7. -/
def Family.line (f : Family) (j : Nat) : List Byte := bytesOfWords ((List.range 8).map fun i => f.results.get (8 * j + i) 0)

/-- A VALID slot of a registration entry (15_sync.md R278). -/
def Registration.image (g : Registration) : List Byte := toBytes 16 g.name.toNat ++ toBytes 2 g.number ++ [1] ++ List.replicate 13 0

/-- The two lines of a registration entry. -/
def regLines (gs : List Registration) : List (List Byte) :=
  let bs := (gs.map Registration.image).flatten ++ List.replicate 128 0
  [bs.take 64, (bs.drop 64).take 64]

def State.putRecord (s : State) (core c i : Nat) : State := s.putTable core c i (s.recordVa core c i) [(s.record core c i).image]
def State.putFamily (s : State) (core c i : Nat) : State := s.putTable core c i (s.familyVa core c i) [(s.record core c i).family.head]
def State.putResult (s : State) (core c i j : Nat) : State :=
  s.putTable core c i (s.familyVa core c i + word (64 + 64 * j)) [(s.record core c i).family.line j]

/-- The registrations of the clause at a slot are written to its entry. -/
def State.putRegs (s : State) (k : Nat) : State :=
  let cl := (s.slot k).clause
  match cl.recIdx with
  | some i => s.putTable cl.recCore cl.ctx i (s.regsVa cl.recCore cl.ctx i) (regLines cl.regs)
  | none => s

/-- The least free index among the first n. -/
def lowestFree (t : Tab Rec) (i : Nat) : Nat → Nat
  | 0 => i
  | n + 1 => if (t.get i {}).state = .free then i else lowestFree t (i + 1) n

/-- A free index: the one drawn where it is free, else the least. Which free index a clause receives is open (R111). -/
def pickIndex (t : Tab Rec) (draw : Nat) : Nat :=
  let h := Config.recordIndex draw % 2 ^ 18
  if (t.get h {}).state = .free then h else lowestFree t 0 t.length

/-- The clause of a slot receives a record index on its core, if it has none (R111). -/
def State.giveIndex (s : State) (k : Nat) : State :=
  let sl := s.slot k
  let core := coreOf k
  match sl.clause.recIdx with
  | some _ => s
  | none =>
    let i := pickIndex (s.ctx core sl.clause.ctx).recs s.draws
    let cl := { sl.clause with recCore := core, recIdx := some i }
    let s := { s with draws := s.draws + 1 }
    let s := s.setSlot k { sl with clause := cl }
    (s.setRecord core cl.ctx i { state := .running, clause := cl, family := { parent := cl.parent } }).putFamily core cl.ctx i

/-- The index of a clause that has one. -/
def Clause.idx (c : Clause) : Nat := c.recIdx.getD 0

/-- The core and index of the record of a slot's clause, or of the one it would receive. -/
def State.indexOf (s : State) (k : Nat) : Nat × Nat :=
  let cl := (s.slot k).clause
  match cl.recIdx with
  | some i => (cl.recCore, i)
  | none => (coreOf k, pickIndex (s.ctx (coreOf k) cl.ctx).recs s.draws)

/-- The fault of a write to the family entry of a slot's clause. -/
def State.familyFault (s : State) (k : Nat) : Option (Nat × Word) :=
  let x := s.indexOf k
  let c := (s.slot k).clause.ctx
  s.tableFault x.1 c (s.familyVa x.1 c x.2) 1

/-- The fault of giving the clause of a slot an index: none where it has one. -/
def State.indexFault (s : State) (k : Nat) : Option (Nat × Word) :=
  match (s.slot k).clause.recIdx with
  | some _ => none
  | none => s.familyFault k

/-- The fault of a write to the record of a slot's clause. -/
def State.recordFault (s : State) (k : Nat) : Option (Nat × Word) :=
  let x := s.indexOf k
  let c := (s.slot k).clause.ctx
  s.tableFault x.1 c (s.recordVa x.1 c x.2) 1

/-- The fault of a write to the registration entry of a slot's clause. -/
def State.regsFault (s : State) (k : Nat) : Option (Nat × Word) :=
  let x := s.indexOf k
  let c := (s.slot k).clause.ctx
  s.tableFault x.1 c (s.regsVa x.1 c x.2) 2

/-- An instruction goes on where no table faults; a fault takes its trap to the kernel (R111). -/
def State.unlessFault (s : State) (fault : Option (Nat × Word)) (f : Res State) : Res State :=
  match fault with
  | some (c, a) => .ok (s.kernelTrap s.cur c a)
  | none => f

/-- The number of bits set among the first n of a word. -/
def countBits (v : Nat) : Nat → Nat
  | 0 => 0
  | n + 1 => v % 2 + countBits (v / 2) n

/-- The children of a family entry that have not reported. -/
def Family.outstanding (f : Family) : Nat :=
  (f.spawned - f.joinBase).toNat - countBits (f.arrived ||| f.lost).toNat 64

/-- A message of the clause of a digest waits in a core's outbound queue. -/
def State.outWaits (s : State) (core : Nat) (digest : Word) : Bool := (s.core core).outq.any fun o => o.msg.key == digest

/-- The index returns to the free list once the clause has ended, no child is outstanding and no record reply is owed. -/
def State.freeRecord (s : State) (core c i : Nat) : State :=
  let r := s.record core c i
  if r.ended && r.family.outstanding == 0 && r.owed == 0 && r.drops == 0 then
    s.modCtx core c fun x => { x with recs := x.recs.del i }
  else s

/-! ### Slots and streams that a clause leaves (11_memory_access.md R209) -/

/-- Some stream register of a cluster is bound to a stream. -/
def State.streamBound (s : State) (cl : Nat) (id : Nat) : Bool :=
  s.slots.any fun e => clusterOf (coreOf e.1) == cl && e.2.q.any fun b => b.2.toNat == id

/-- The stream's state is kept no longer: it is ended and delivered, and a binding has been removed with none left. -/
def State.streamOver (s : State) (cl id : Nat) : State :=
  match (s.cluster cl).streams.find id with
  | none => s
  | some t =>
    if t.ended && t.released && decide (t.count ≤ t.next) && !s.streamBound cl id then
      s.modCluster cl fun c => { c with streams := c.streams.del id }
    else s

/-- A binding to a stream has been removed. -/
def State.unbound (s : State) (cl id : Nat) : State :=
  (s.modCluster cl fun c =>
    match c.streams.find id with
    | none => c
    | some t => { c with streams := c.streams.set id { t with released := true } }).streamOver cl id

/-- The next binding generation under which no reply is owed. Structural on the number of values tried. -/
def nextGen (owed : Tab Nat) (g : Nat) : Nat → Option Nat
  | 0 => none
  | n + 1 => let g := (g + 1) % 1024; if owed.get g 0 = 0 then some g else nextGen owed g n

/-- A slot can bind a clause: it is free, holds no report for the trap ring (24_system.md R406), and has a generation under which no
reply is owed (R103). -/
def Slot.canBind (sl : Slot) : Bool := sl.phase == .free && sl.ringReport.isNone && (nextGen sl.owed sl.gen 1024).isSome

/-- The first slot of a core that can bind a clause. DESIGN CHOICE, log 102. -/
def State.idleSlot (s : State) (core : Nat) : Option Nat :=
  [core * 4, core * 4 + 1, core * 4 + 2, core * 4 + 3].find? fun k => (s.slot k).canBind

/-- A core may have something to dispatch: its dispatch is looked at. -/
def State.wake (s : State) (core : Nat) : State :=
  match s.idleSlot core with
  | some k => s.post (.handlerDispatch k)
  | none => s

/-! ### Pre-emption (R119, 24_system.md R422) -/

/-- The bits of a list as bytes, 8 to a byte. -/
def bitBytes (p : Nat → Bool) (i : Nat) : Nat → List Byte
  | 0 => []
  | n + 1 =>
    BitVec.ofNat 8 ((p i).toNat + (p (i + 1)).toNat * 2 + (p (i + 2)).toNat * 4 + (p (i + 3)).toNat * 8 + (p (i + 4)).toNat * 16
      + (p (i + 5)).toNat * 32 + (p (i + 6)).toNat * 64 + (p (i + 7)).toNat * 128) :: bitBytes p (i + 8) n

/-- A message as it stands in a save area: the header, then the payload, 128 bytes. -/
def msgImage (m : Msg) : List Byte := bytesOfWords ((msgHeader m ++ m.payload ++ List.replicate 12 0).take 16)

/-- A pool entry as it stands in a save area. -/
def poolImage (p : PoolItem) : List Byte :=
  match p.kind with
  | .resumed core i => toBytes 8 (core % 4096 + i % 2 ^ 18 * 2 ^ 12 + p.prio % 8 * 2 ^ 30)
  | _ => toBytes 8 0

/-- The save area of a saved context (R422). -/
def Ctx.image (x : Ctx) : List Byte :=
  bitBytes (fun i => (x.chans.get i {}).pending) 0 32 ++ bitBytes (fun i => (x.chans.get i {}).enable) 0 32
    ++ toBytes 8 (x.savedMsgs.length % 2 ^ 16 + x.savedPool.length % 2 ^ 32 * 2 ^ 16) ++ List.replicate 56 0
    ++ (x.savedMsgs.map msgImage).flatten

/-- The save area of a context is written as its saved state stands. -/
def State.writeSaved (s : State) (core c : Nat) : State :=
  let x := s.ctx core c
  let a := x.saveBase.toNat % 2 ^ 44
  if x.saveBase = 0 then s
  else (s.devWrite a x.image).devWrite (a + 65536) (x.savedPool.map poolImage).flatten

/-- A child that must wait in a saved pool receives its record index, so that its pool entry names a record (R422). -/
def State.indexChild (s : State) (core c : Nat) (p : PoolItem) : State × PoolItem :=
  match p.kind with
  | .child =>
    let i := pickIndex (s.ctx core c).recs s.draws
    let w2 := p.msg.payload.getD 2 0
    let cl : Clause := { ctx := c, launch := p.msg.launch, chan := BitVec.ofNat 8 (fld w2 40 8), prio := p.prio,
                         homed := bit w2 48, recCore := core, recIdx := some i, parent := p.msg.payload.getD 3 0,
                         ordinal := BitVec.ofNat 32 (fld w2 0 32) }
    let x := s.ctx core c
    let r : Rec :=
      { state := .runnable, clause := cl, family := { parent := cl.parent }, pc := p.msg.payload.getD 0 0 - x.codeBase,
        digest := p.msg.payload.getD 1 0, status := x.repro.toNat * 8, carried := (p.msg.payload.drop 4 ++ List.replicate 5 0).take 5 }
    let s := ({ s with draws := s.draws + 1 }.setRecord core c i r)
    ((s.putFamily core c i).putRecord core c i, { p with kind := .resumed core i })
  | _ => (s, p)

/-- The entries of a pool, each child with an index. -/
def State.indexChildren (s : State) (core c : Nat) : List PoolItem → State × List PoolItem
  | [] => (s, [])
  | p :: t =>
    let a := s.indexChild core c p
    let b := a.1.indexChildren core c t
    (b.1, a.2 :: b.2)

/-- The messages of the channels of a context, by channel, each with its channel in the header. -/
def queuedMsgs : Tab Chan → List Msg
  | [] => []
  | (_, ch) :: t => ch.queue ++ queuedMsgs t

/-- A message joins a list in the order of arrival. -/
def insertArrived (m : Msg) : List Msg → List Msg
  | [] => [m]
  | x :: t => if m.order < x.order then m :: x :: t else x :: insertArrived m t

/-- Messages in the order in which they arrived at their context. -/
def byArrival (ms : List Msg) : List Msg := ms.foldl (fun l m => insertArrived m l) []

/-- The messages that stand in the list of a reproducible context; an entry for a channel pended without a message is none. -/
def listMsgs : List PoolItem → List Msg
  | [] => []
  | p :: t => match p.kind with | .channel _ => (if p.msg.kind = 0xFF then listMsgs t else p.msg :: listMsgs t) | _ => listMsgs t

/-- A pool entry that is no handler message of a channel. -/
def PoolItem.isClause (p : PoolItem) : Bool := match p.kind with | .channel _ => false | _ => true

/-- The handler messages of a context that has not been saved, in the order of arrival. -/
def Ctx.waiting (x : Ctx) : List Msg := byArrival (queuedMsgs x.chans ++ listMsgs x.pool)

/-- No slot of a core is bound to a clause of a context, except frozen slots. -/
def State.ctxIdle (s : State) (core c : Nat) : Bool :=
  [core * 4, core * 4 + 1, core * 4 + 2, core * 4 + 3].all fun k =>
    let sl := s.slot k
    sl.phase == .free || sl.phase == .frozen || sl.clause.ctx != c

/-- CONTEXT_SAVE: a pre-empted context with no slot bound is copied to its save area (R119 step 2): its queues, its runnable
pool, and its enable and pending bits, which stay as they are. -/
def State.saveContext (s : State) (core c : Nat) : State :=
  let x := s.ctx core c
  if x.preempted && !x.saved && s.ctxIdle core c then
    let (s, pool) := s.indexChildren core c (x.pool.filter PoolItem.isClause)
    let s := s.modCtx core c fun y =>
      { y with saved := true, savedPool := pool, pool := [], savedMsgs := x.waiting,
               chans := y.chans.map fun e => (e.1, { e.2 with queue := [] }) }
    s.writeSaved core c
  else s

/-- The contexts of a core that are pre-empted and have no slot bound any more are saved. -/
def State.saveIdle (s : State) (core : Nat) : State :=
  if (List.range 4).any fun c => (s.ctx core c).preempted then (List.range 4).foldl (fun s c => s.saveContext core c) s else s

/-- A message in the queue of its channel, and the channel's pending bit (R108). -/
def Ctx.enqueue (x : Ctx) (m : Msg) : Ctx :=
  let i := m.chan.toNat
  let ch := x.chans.get i {}
  { x with chans := x.chans.set i { ch with queue := ch.queue ++ [m], pending := true } }

/-- The requests that fill a context's share of its core's inbound store (R104). -/
def Ctx.inbound (x : Ctx) : Nat :=
  (queuedMsgs x.chans).length + x.savedMsgs.length + (x.pool.filter fun p => match p.kind with | .resumed _ _ => false | _ => true).length

/-- What the list of a reproducible window is sorted by (R121): sender key, sender sequence, bytes 12–15 of the header, and the
payload as a number. -/
def sortKey (m : Msg) : List Nat :=
  [m.key.toNat, m.seq.toNat, m.srcChip.toNat + m.srcVf.toNat * 2 ^ 20, ofBytes (bytesOfWords m.payload)]

/-- One list of numbers stands before another. -/
def before : List Nat → List Nat → Bool
  | a :: s, b :: t => decide (a < b) || (a == b && before s t)
  | _, _ => false

/-- A pool entry joins the sorted list of a reproducible context (R121). -/
def insertItem (p : PoolItem) : List PoolItem → List PoolItem
  | [] => [p]
  | q :: t => if before (sortKey p.msg) (sortKey q.msg) then p :: q :: t else q :: insertItem p t

/-- A handler message reaches its channel: in a saved context its saved queue, under REPRO the list of its window (R122). -/
def State.deliver (s : State) (core c : Nat) (m : Msg) : State :=
  let x := s.ctx core c
  let i := m.chan.toNat
  if x.saved then
    (s.modCtx core c fun x =>
      let ch := x.chans.get i {}
      { x with savedMsgs := x.savedMsgs ++ [m], chans := x.chans.set i { ch with pending := true, seenPending := ch.seenPending || x.repro } }).writeSaved core c
  else if x.repro then
    (s.modCtx core c fun x =>
      { x with pool := insertItem { kind := .channel i, msg := m, prio := 0 } x.pool,
               chans := x.chans.set i { x.chans.get i {} with pending := true, seenPending := true } }).wake core
  else (s.modCtx core c fun x => x.enqueue m).wake core

/-- An entry joins the runnable pool of a context, or its saved pool. -/
def State.poolAdd (s : State) (core c : Nat) (p : PoolItem) : State :=
  if (s.ctx core c).saved then
    let (s, p) := s.indexChild core c p
    (s.modCtx core c fun x => { x with savedPool := x.savedPool ++ [p] }).writeSaved core c
  else (s.modCtx core c fun x => { x with pool := if x.repro then insertItem p x.pool else x.pool ++ [p] }).wake core

/-- A message has arrived at its core, unless it had arrived and was parked there (25_debug.md R438). -/
def cameAt (m : Msg) (now : BitVec 32) : Msg := { m with arrival := m.arrival.orElse fun _ => some now }

/-- Requests held in the network enter a context while its share has room, in arrival order. Structural on their number. -/
def State.takeIn (s : State) (core c : Nat) : Nat → State
  | 0 => s
  | n + 1 =>
    let x := s.ctx core c
    match x.held with
    | [] => s
    | m :: t =>
      if Config.shareLimit ≤ x.inbound then s
      else
        let s := s.modCtx core c fun x => { x with held := t }
        let m := cameAt m s.stamp
        (if m.kind = 0x03 then s.poolAdd core c { kind := .child, msg := m, prio := fld (m.payload.getD 2 0) 32 8 }
         else s.deliver core c m).takeIn core c n

/-- A request for a context arrives, numbered in the order of arrival: it waits behind others that wait, or where the share is full
(R104). -/
def State.arrive (s : State) (core c : Nat) (m : Msg) : State :=
  let s := s.modCtx core c fun x => { x with held := x.held ++ [{ m with order := x.arrivals }], arrivals := x.arrivals + 1 }
  s.takeIn core c (s.ctx core c).held.length

/-! ### Resumption (R113, R114) -/

/-- The core on which a clause resumes: its record's core if it is HOMED, else the core of its digest. -/
def State.resumeCore (s : State) (r : Rec) : Nat :=
  let home := s.served r.clause.recCore
  if r.clause.homed then home
  else
    let n := (s.launch r.clause.launch).node
    if (s.hub.parts.find n).isSome then s.hashCore n r.digest
    else match s.partOf home with
      | some n => s.hashCore n r.digest
      | none => home

/-- A suspended clause becomes RUNNABLE with a resume, whose status its record takes (R113): it joins the pool of its resume core. While the record core's
context is saved, a clause that resumes elsewhere waits at its record (R114, 24_system.md R422). -/
def State.makeRunnable (s : State) (core c i : Nat) (m : Msg) : State :=
  let r := s.record core c i
  let dest := s.resumeCore r
  if (s.ctx (s.served core) c).saved && dest != s.served core then s.setRecord core c i { r with resumes := r.resumes ++ [m] }
  else
    ((s.setRecord core c i { r with state := .runnable, status := r.status % 16 + m.rstat.toNat * 16 }).putRecord core c i).poolAdd dest c
      { kind := .resumed core i, msg := m, prio := r.clause.prio }

/-- A resume reaches a record (R113). -/
def State.resumeRecord (s : State) (core c i : Nat) (m : Msg) : State :=
  let m := cameAt m s.stamp
  let r := s.record core c i
  if r.state = .free then s.modCtx core c fun x => x.countErr 0
  else
    let r := if m.rpay && decide (0 < r.owed) then { r with owed := r.owed - 1, owedBy := r.owedBy.erase m.srcChip } else r
    let s := s.setRecord core c i r
    if r.ended then s.freeRecord core c i
    else if r.state = .suspended && r.resumes.isEmpty then s.makeRunnable core c i m
    else s.setRecord core c i { r with resumes := r.resumes ++ [m] }

/-! ### The fold of a join (R131) -/

/-- One step of a fold: the operation in [2:0] and the type in [4:3] of the code, 0 `i64`, 1 `n64`, 2 `f64`, 3 `f32`. -/
def foldStep (code : Nat) (a b : Word) : Word :=
  let op := code % 8
  let typ := code / 8
  if 2 ≤ typ then
    let f := if typ = 2 then fp64 else fp32
    let x := lowBits a.toNat f.width
    let y := lowBits b.toNat f.width
    let r := if op = 0 then Val.add Rounding.rne (f.decode x) (f.decode y) else Val.pick (op == 1) (f.decode x) (f.decode y)
    word (finishFp f 0 r).1
  else if op = 0 then a + b
  else if op = 1 then (if typ = 0 then (if a.sle b then a else b) else if a.ule b then a else b)
  else if op = 2 then (if typ = 0 then (if a.sle b then b else a) else if a.ule b then b else a)
  else if op = 3 then a &&& b
  else if op = 4 then a ||| b
  else a ^^^ b

/-- The results of the children that arrived, folded in ascending spawn ordinal. -/
def Family.fold (f : Family) (code : Nat) (acc : Word) (i : Nat) : Nat → Word
  | 0 => acc
  | n + 1 => f.fold code (if bit f.arrived i then foldStep code acc (f.results.get i 0) else acc) (i + 1) n

/-- The record after a join's last child has reported: the fold is in its register, the family entry is empty again, and the
resume status says whether a child was lost. -/
def Rec.joined (r : Rec) (rd code : Nat) : Rec × BitVec 4 :=
  let f := r.family
  let acc := f.fold code (r.carried.getD (rd - 11) 0) 0 (f.spawned - f.joinBase).toNat
  let carried := if rd = 0 then r.carried else r.carried.set (rd - 11) acc
  ({ r with carried := carried, family := { f with joinBase := f.spawned, arrived := 0, lost := 0, results := [] } },
   if f.lost = 0 then 0 else 1)

/-- The message of a wake-up that no message brings: its header is zero except for its kind (R128). -/
def ownWake (launch : Nat) (status : BitVec 4) : Msg := { kind := 0x02, launch := launch, rstat := status }

/-- A suspended join whose last child has reported becomes RUNNABLE. -/
def State.joinDone (s : State) (core c i : Nat) : State :=
  let r := s.record core c i
  match r.susp with
  | .join rd code =>
    if r.state = .suspended && r.family.outstanding == 0 then
      let (r, status) := r.joined rd code
      ((s.setRecord core c i r).putFamily core c i).makeRunnable core c i (ownWake r.clause.launch status)
    else s
  | _ => s

/-! ### Suspension (R112) -/

/-- The first empty register or claimed tile of a slot in the order of R112, as `kaddr` names it. -/
def State.heldState (s : State) (k : Nat) : Option Word :=
  let sl := s.slot k
  match sl.firstEmpty false 1 31 with
  | some r => some (regId false r 0)
  | none =>
    match sl.firstEmpty true 0 32 with
    | some r => some (regId true r 0)
    | none => ((s.core (coreOf k)).claim.find? fun e => e.2 == (k, sl.gen)).map fun e => word (0x100 + e.1)

/-- The check of R21 at a suspension. -/
def State.mayLeave (s : State) (k : Nat) : Res Unit :=
  match s.heldState k with
  | some a => .trap 0x42 a
  | none => .ok ()

/-- The slot is left by its clause: stream bindings die (11_memory_access.md R209), and the core looks for other work. -/
def State.freeSlot (s : State) (k : Nat) : State :=
  let sl := s.slot k
  let core := coreOf k
  let s := s.setSlot k { sl with phase := .free, wait := .none, q := [], fence := none, clause := {}, cycles := 0, nearFills := [] }
  let s := sl.q.foldl (fun s b => if b.2 = 0 then s else s.unbound (clusterOf core) b.2.toNat) s
  (s.saveContext core sl.clause.ctx).wake core

/-- The status field of a record (R110) without RSTAT, from `kstat`. -/
def recStatus (kstat : Word) : Nat :=
  (bit kstat 4).toNat + (bit kstat 6).toNat * 2 + (bit kstat 7).toNat * 4 + (bit kstat 5).toNat * 8

/-- The payload of a barrier request (15_sync.md R267). -/
def barrierPayload (ga : Word) (op number : Nat) (operand : Word) : List Word := [ga, word (op + number * 2 ^ 8), operand, 0]

/-- The scope of a barrier (15_sync.md R280, R285): of an object of this chip the one it holds, of another chip's the one that
`barinit` recorded here, else fabric. DEDUCED, log 46. -/
def State.barrierScope (s : State) (n : BitVec 128) (b : Word) : Nat :=
  if chipOf b = s.hub.chipId then s.devLoad (devOf b + 19) 1 % 4
  else match s.hub.scopes.find? fun e => e.1 == n with
    | some e => e.2
    | none => 3

/-- The request that a suspended wait sends to its home (11_memory_access.md R213, 15_sync.md R283): it names the record. -/
def State.sendWait (s : State) (k core i : Nat) (kind : BitVec 8) (unit : Nat) (chip : BitVec 20)
    (payload : List Word) : State :=
  let m := { s.clauseMsg k with
    dstChip := chip, kind := kind, units := BitVec.ofNat 3 (payload.length / 2), unit := unit, tag := recTag i core, payload := payload }
  ((s.modSlot k fun sl => { sl with kseq := sl.kseq + 1 }).countReq (coreOf k) unit chip).route m

/-- A clause of a reproducible launch that is RUNNABLE at once: its wake-up is parked until the window closes (R120). Channel 1 marks
it. -/
def State.parkWake (s : State) (core c i : Nat) (r : Rec) (status : BitVec 4) : State :=
  ((s.setRecord core c i { r with state := .runnable, status := r.status % 16 + status.toNat * 16 }).putRecord core c i).modLaunch
    r.clause.launch fun l =>
      { l with parked := l.parked ++ [{ ownWake r.clause.launch status with dstCore := BitVec.ofNat 12 core, tag := recTag i core, chan := 1,
                                                                            ctx := BitVec.ofNat 2 c, key := r.digest, seq := r.seq.setWidth 32 }] }

/-- A suspension writes the record and frees the slot, once every write and near-memory operation is acknowledged and the
forwarding table is empty (R112, R203). The request of a wait leaves with it. -/
def State.commitSuspension (s : State) (k : Nat) (kind : SuspKind) : State :=
  let s := s.giveIndex k
  let cl := (s.slot k).clause
  let core := cl.recCore
  let c := cl.ctx
  let i := cl.idx
  let s := match kind with
    | .waitv _ _ _ ga unit chip comparand => s.sendWait k core i 0x25 unit chip [ga, 0, comparand, 0]
    | .barrier _ _ _ ga unit chip operand => s.sendWait k core i 0x32 unit chip (barrierPayload ga 3 0 operand)
    | _ => s
  let sl := s.slot k
  let r := s.record core c i
  let r := { r with state := .suspended, clause := { sl.clause with account := none }, pc := sl.pc + 4 - cl.codeBase, seq := word (fld sl.kseq 0 32),
                    digest := sl.kpath, status := recStatus sl.kstat, carried := sl.xs 11 5, susp := kind }
  let s := (((s.setRecord core c i r).putRecord core c i).boundary k).freeSlot k
  match r.resumes with
  | m :: t => (s.setRecord core c i { r with resumes := t }).makeRunnable core c i m
  | [] =>
    let l := s.launch cl.launch
    match kind with
    | .yield => if l.repro then s.parkWake core c i r 0 else s.makeRunnable core c i (ownWake cl.launch 0)
    | .join rd code =>
      if l.repro && r.family.outstanding == 0 then
        let (r, status) := r.joined rd code
        (s.setRecord core c i r).putFamily core c i |>.parkWake core c i r status
      else if r.family.spawned = r.family.joinBase then s.makeRunnable core c i (ownWake cl.launch 0)
      else s.joinDone core c i
    | _ => s

/-- A wait that sends a request has room for it among those of its slot (11_memory_access.md R201). Nothing but its resume
acknowledges a watch, which no longer counts once its clause has left the slot: log 103. -/
def SuspKind.room (kind : SuspKind) (sl : Slot) : Bool :=
  match kind with
  | .waitv _ _ _ _ _ _ _ => sl.farRoom 1
  | .barrier _ _ _ _ _ _ _ => sl.farRoom 1
  | _ => true

/-- The suspension at a slot commits if it may, and once the clause's earlier messages have left. A fault at the record or the family
entry takes its trap to the kernel (R111). -/
def State.trySuspend (s : State) (k : Nat) : State :=
  let sl := s.slot k
  match sl.phase with
  | .suspending kind =>
    if sl.acked && sl.fwd.isEmpty && kind.room sl && !s.outWaits (coreOf k) sl.kpath then
      match (s.indexFault k).or (s.recordFault k) with
      | some (f, a) => s.kernelTrap k f a
      | none => s.commitSuspension k kind
    else s
  | _ => s

/-- An instruction suspends the issuing slot: after the check of R21 it issues nothing more. -/
def State.suspend (s : State) (kind : SuspKind) : Res State :=
  (s.mayLeave s.cur).bind fun _ =>
  .ok ((s.modCur fun sl => { sl.setPP false with phase := .suspending kind, wait := .none, skipBreak := false }).trySuspend s.cur)

/-! ### The end of a clause (R132) -/

/-- A clause of a launch has ended: the launch may complete (22_launch_estimate.md R376). -/
def State.clauseGone (s : State) (launch : Nat) (lost : Bool) : State :=
  (s.modLaunch launch fun l => { l with live := l.live - 1, kills := l.kills + lost.toNat }).post (.launchCompletion launch)

/-- A message that nothing holds back leaves a core behind those of its clause that still wait in the outbound queue (R104). -/
def State.sendAfter (s : State) (core : Nat) (m : Msg) : State :=
  if s.outWaits core m.key then s.modCore core fun c => { c with outq := c.outq ++ [{ msg := m, slot := 0, gen := 0, seqs := [], fwd := 0 }] }
  else s.route m

/-- Where the result of a clause goes (R132, R117): a spawned clause reports to its parent, start clause 0 gives the launch's
result, and any other result is discarded. -/
def State.sendResult (s : State) (core : Nat) (cl : Clause) (vf : Nat) (digest : Word) (seq : BitVec 32) (result : Word) (lost : Bool) : State :=
  if cl.parent ≠ 0 then
    s.sendAfter core
      { dstChip := BitVec.ofNat 20 (fld cl.parent 32 20), dstCore := BitVec.ofNat 12 (fld cl.parent 0 12), kind := 0x04, units := 1,
        tag := cl.parent.setWidth 32, srcChip := s.hub.chipId, srcVf := BitVec.ofNat 7 vf, key := digest, seq := seq,
        stamp := s.stamp, ctx := BitVec.ofNat 2 cl.ctx, launch := cl.launch, window := (s.launch cl.launch).window,
        payload := [if lost then 0 else result, word (cl.ordinal.toNat + lost.toNat * 2 ^ 32)] }
  else if cl.start = some 0 && !lost then s.modLaunch cl.launch fun l => { l with result := result }
  else s

/-- Claimed tiles of a slot's clause are released without storing (10_matrix.md R177). -/
def State.dropTiles (s : State) (k : Nat) : State :=
  let gen := (s.slot k).gen
  s.modCore (coreOf k) fun c => { c with claim := c.claim.keep fun _ o => o != (k, gen) }

/-- The code of an implicit drop in a barrier request (15_sync.md R286). -/
def implicitDropCode : Nat := 7

/-- A slot's implicit drops leave, one for each registration, and the registration entry is cleared (15_sync.md R286). -/
def State.sendDrops (s : State) (k : Nat) : State :=
  let regs := (s.slot k).clause.regs
  let s := (s.modSlot k fun sl => { sl with clause := { sl.clause with regs := [] } }).putRegs k
  regs.foldl (fun s g => s.sendFar k 0x32 g.unit (chipOf g.ga) g.ga g.ga .posted 2 (barrierPayload g.ga implicitDropCode g.number 0)) s

/-- The clause of a slot has ended: its result goes where it belongs, the slot is free, and its record is kept as R111
says. -/
def State.endSlot (s : State) (k : Nat) (result : Word) (lost : Bool) : State :=
  let sl := s.slot k
  let cl := sl.clause
  let vf := (s.ctx (coreOf k) cl.ctx).vf
  let s := (s.boundary k).sendResult (coreOf k) cl vf sl.kpath (sl.kseq.setWidth 32) result lost
  let s := s.freeSlot k
  let s := match cl.recIdx with
    | some i => (s.modRecord cl.recCore cl.ctx i fun r => { r with ended := true }).freeRecord cl.recCore cl.ctx i
    | none => s
  (s.clauseGone cl.launch lost).wake (coreOf k)

/-- The clause of a slot has a barrier request out, an implicit drop included. -/
def Slot.barrierOut (sl : Slot) : Bool := sl.farNow.any fun f => f.kind == 0x32

/-- What an end waits for before it goes on: `exit` for every write and near-memory operation and for the forwarding table (R203,
14_ordering.md R248), a kill for barrier requests alone, as it neither waits for stores that have issued nor withdraws them (R132,
15_sync.md R286, 22_launch_estimate.md). -/
def Slot.mayEnd (sl : Slot) (lost : Bool) : Bool := if lost then !sl.barrierOut else sl.acked && sl.fwd.isEmpty

/-- The end at a slot goes on if it may: then its implicit drops leave, each once the wait set of its barrier's scope is complete, as
an arrival does (15_sync.md R282), and are acknowledged, then the clause has ended. -/
def State.tryExit (s : State) (k : Nat) : State :=
  let sl := s.slot k
  match sl.phase with
  | .exiting result lost =>
    if !sl.mayEnd lost then s
    else if sl.clause.regs.isEmpty then s.endSlot k result lost
    else if sl.clause.regs.all fun g => s.released k (s.barrierScope g.name g.ga) then s.sendDrops k
    else s
  | _ => s

/-- A kill of the clause bound to a slot, by `skill`, a launch kill or the watchdog (R132). A barrier request that is out is still
waited for, and its reply still changes the clause's registrations (15_sync.md R286). -/
def State.killSlot (s : State) (k : Nat) : State :=
  let sl := s.slot k
  match sl.phase with
  | .free => s
  | _ =>
    let s := match sl.wait with
      | .mma _ _ latch _ _ _ => s.post (.shadowApply (coreOf k) sl.clause.ctx latch)
      | _ => s
    let wait := match sl.wait with
      | .blocked (.barrier op rd n v) l g => Wait.blocked (.barrier op rd n v) l g
      | _ => .none
    (((s.dropHeld k).modSlot k fun sl => { sl with phase := .exiting 0 true, heldTiles := [], wait := wait, fetching := false, fetchFar := none, fetchDropped := false, nearFills := [] }).leaveStreams k |>.wakeRing (coreOf k) |>.dropTiles k).tryExit k

/-- A killed clause without a slot has ended. -/
def State.endRecord (s : State) (core c i : Nat) : State :=
  let r := s.record core c i
  let s := s.sendResult core r.clause (s.launch r.clause.launch).vf r.digest (r.seq.setWidth 32) 0 true
  let s := s.setRecord core c i { r with ended := true, state := .ending }
  (s.freeRecord core c i).clauseGone r.clause.launch true

/-- A kill of a suspended or runnable clause: its implicit drops leave under its record's tag, and it ends when they are
acknowledged. -/
def State.killRecord (s : State) (core c i : Nat) : State :=
  let r := s.record core c i
  if r.ended || r.state = .ending || r.state = .running || r.state = .free then s
  else
    let s := s.setRecord core c i { r with state := .ending, drops := r.clause.regs.length }
    if r.clause.regs.isEmpty then s.endRecord core c i
    else
      let s := s.putTable core c i (s.regsVa core c i) (regLines [])
      (r.clause.regs.zipIdx).foldl (fun s g =>
        (s.countReq core g.1.unit (chipOf g.1.ga)).route
          { dstChip := chipOf g.1.ga, kind := 0x32, units := 2, tag := recTag i core, srcChip := s.hub.chipId,
            srcVf := BitVec.ofNat 7 (s.launch r.clause.launch).vf, key := r.digest, seq := r.seq.setWidth 32 + BitVec.ofNat 32 g.2, stamp := s.stamp,
            ctx := BitVec.ofNat 2 c, launch := r.clause.launch, window := (s.launch r.clause.launch).window, unit := g.1.unit,
            payload := barrierPayload g.1.ga implicitDropCode g.1.number 0 }) s

/-- An implicit drop of a killed record is acknowledged. -/
def State.dropAcked (s : State) (core c i : Nat) : State :=
  let r := s.record core c i
  let s := s.setRecord core c i { r with drops := r.drops - 1 }
  if r.state = .ending && r.drops == 1 then s.endRecord core c i else s

/-! ### Binding (02_idioms.md R18, R103) -/

/-- How a clause starts: its registers, `kstat`, digest and sequence, and program counter. -/
structure Start where
  clause : Clause
  pc     : Word
  digest : Word
  seq    : Word
  kstat  : Word
  low    : List Word
  high   : List Word

/-- A slot with a clause bound: `x11` up hold the carried values, `x16` up the payload, and every other register is 0 and
full; stream bindings and loops are gone (R18, R20, R88). What outlives a clause stays: the fetch line, the forwarding table,
requests not yet answered, and the record of the last trap. -/
def Slot.bound (sl : Slot) (gen : Nat) (wdog : Word) (now : BitVec 32) (b : Start) : Slot :=
  let fresh : Slot :=
    { kcause := sl.kcause, kaddr := sl.kaddr, kepc := sl.kepc, kwdog := wdog, kpath := b.digest, kseq := b.seq, kstat := b.kstat,
      pc := b.pc, phase := .running, clause := { b.clause with bound := now }, gen := gen, owed := sl.owed, trapNo := sl.trapNo, line := sl.line,
      fwd := sl.fwd, far := sl.far, asks := sl.asks }
  (fresh.setXs 11 b.low).setXs 16 (b.high.take 12)

/-- `kstat` of a clause that starts: RSTAT, RESIZED, PINNED, REPRO, AP and PRIV (05_scalar.md R82). -/
def startKstat (rstat : Nat) (resized pinned repro ap handler : Bool) : Word :=
  word (rstat * 2 ^ 12 + resized.toNat * 2 ^ 7 + pinned.toNat * 2 ^ 6 + repro.toNat * 2 ^ 5 + ap.toNat * 2 ^ 4 + handler.toNat)

/-- What the loss table accounts of the message that bound a clause (25_debug.md R438): the transit of one from another package runs from
its ingress at this package's fabric port. -/
def State.accountOf (s : State) (m : Msg) : Option (BitVec 32 × Bool × Bool × BitVec 32 × BitVec 32) :=
  let device := m.key.extractLsb' 48 16 == 0xFFFF
  some (if device then m.key.extractLsb' 32 32 else BitVec.ofNat 32 (m.srcChip.toNat + m.srcVf.toNat * 2 ^ 20), device,
        m.srcChip != s.hub.chipId, m.ingress.getD m.stamp, m.arrival.getD s.stamp)

/-- The slot binds a clause. -/
def State.bindSlot (s : State) (k : Nat) (b : Start) : State :=
  let sl := s.slot k
  match nextGen sl.owed sl.gen 1024 with
  | none => s
  | some g => s.setSlot k (sl.bound g (s.ctx (coreOf k) b.clause.ctx).wdog s.stamp b)

/-- A spawned child starts (R130). -/
def State.bindChild (s : State) (k c : Nat) (m : Msg) (rec : Option (Nat × Nat)) : State :=
  let x := s.ctx (coreOf k) c
  let w2 := m.payload.getD 2 0
  let resized := match rec with | some (a, i) => bitOf (s.record a c i).status 2 | none => false
  let cl : Clause := { ctx := c, launch := m.launch, chan := BitVec.ofNat 8 (fld w2 40 8), prio := fld w2 32 8, homed := bit w2 48,
                       recCore := (rec.getD (0, 0)).1, recIdx := rec.map fun e => e.2, parent := m.payload.getD 3 0,
                       ordinal := BitVec.ofNat 32 (fld w2 0 32), header := [word (3 * 2 ^ 40), 0, 0, 0], codeBase := x.codeBase,
                       codeSize := x.codeSize, account := s.accountOf m }
  s.bindSlot k { clause := cl, pc := m.payload.getD 0 0, digest := m.payload.getD 1 0, seq := 0,
                 kstat := startKstat 0 resized false x.repro false false, low := m.payload.drop 4, high := [] }

/-- What the bind of a resumed wait writes into its destination (11_memory_access.md R213, 15_sync.md R283). -/
def Slot.waitResult (sl : Slot) (kind : SuspKind) (m : Msg) : Slot :=
  let w0 := m.payload.getD 0 0
  let w1 := (m.payload.getD 1 0).toNat
  let fromHome := m.unit == homeResume
  match kind with
  | .waitv rd va _ _ _ _ _ =>
    if fromHome && w1 == 1 then sl.markReg false rd 0x60 va
    else if fromHome && w1 == 2 then sl.markReg false rd 0x5A va
    else if fromHome && w1 == 3 then sl.markReg false rd 0x92 va
    else sl.setX rd w0
  | .barrier op rd _ ga _ _ _ =>
    let sl := if op = 4 then sl.setAP false else sl
    if fromHome && w1 == 16 then sl.markReg false rd 0x75 ga
    else if fromHome && w1 == 1 then sl.markReg false rd 0x60 ga
    else if fromHome && w1 == 2 then sl.markReg false rd 0x5A ga
    else if fromHome && w1 == 3 then sl.markReg false rd 0x92 ga
    else sl.setX rd w0
  | _ => sl

/-- A suspension whose resumed clause first sees the stripe write queues of its cluster drained. -/
def SuspKind.drains : SuspKind → Bool
  | .waitv _ _ acquire _ _ _ _ => acquire
  | .barrier _ _ _ _ _ _ _ => true
  | _ => false

/-- A resumed clause starts from its record (R113). The completion of a `baraw` clears AP in the record too (15_sync.md R284). A message
that is the clause's own wake-up is not accounted, and its
header is zero except for the kind. -/
def State.bindRecord (s : State) (k c core i : Nat) (m : Msg) : State :=
  let r := s.record core c i
  let x := s.ctx (coreOf k) c
  let st := r.status
  let own := m == ownWake m.launch m.rstat
  let cl := { r.clause with header := if own then [word (2 * 2 ^ 40), 0, 0, 0] else msgHeader m, codeBase := x.codeBase,
                            codeSize := x.codeSize, account := if own then none else s.accountOf m }
  let b : Start := { clause := cl, pc := x.codeBase + r.pc, digest := r.digest, seq := r.seq,
                     kstat := startKstat m.rstat.toNat (bitOf st 2) (bitOf st 1) (bitOf st 3) (bitOf st 0) (cl.chan == 255 && cl.parent == 0),
                     low := r.carried, high := m.payload }
  let arrived := match r.susp with | .barrier op _ _ _ _ _ _ => op == 4 | _ => false
  let s := s.setRecord core c i { r with state := .running, status := (if arrived then st - st % 2 else st) % 16 + m.rstat.toNat * 16 }
  let s := if arrived then s.putRecord core c i else s
  let s := (s.bindSlot k b).modSlot k fun sl => sl.waitResult r.susp m
  if r.susp.drains then s.drainCluster (clusterOf (coreOf k)) else s

/-- An error notice of code 0x0001 for a message on a channel that is not VALID: to channel 254, or to the kernel (R106). -/
def State.invalidNotice (s : State) (core c chan : Nat) (m : Option Msg) : State :=
  let h := match m with | some m => msgHeader m | none => [0, 0, 0, 0]
  let ws := [word chan, h.getD 1 0, h.getD 2 0]
  let x := s.ctx core c
  if entryValid (x.chans.get 254 {}).entry then
    s.coreNotice core c x.launch 0x0001 0 0 (word chan) (h.getD 1 0) (h.getD 2 0)
  else (s.modCtx core c fun x => x.countErr 48).kernelRecord (noticeWord 0x0001 0 0 :: ws)

/-- A start message has become a clause, or was discarded. -/
def State.startTaken (s : State) (launch : Nat) : State := s.modLaunch launch fun l => { l with pending := l.pending - 1 }

/-- A channel is dispatched with its oldest message, or with none (R106, R108). -/
def State.bindChannel (s : State) (k c chan : Nat) (m : Option Msg) : State :=
  let core := coreOf k
  let x := s.ctx core c
  let ch := x.chans.get chan {}
  let start := match m with | some m => m.kind == 0x08 | none => false
  let s := if start then s.startTaken x.launch else s
  if !entryValid ch.entry then ((s.invalidNotice core c chan m).post (.launchCompletion x.launch)).wake core
  else
    let s := if bit ch.entry 38 then s.modCtx core c fun x => { x with chans := x.chans.set chan { x.chans.get chan {} with enable := false, seen := false } } else s
    let idx := match m with | some m => (m.payload.getD 1 0).toNat | none => 0
    let digest := match m with
      | some m => if start then mix 0 idx else mix m.key m.seq.toNat
      | none => mix 0 chan
    let pinned := start && bit ((s.launch x.launch).packet.getD 0 0) 9
    let cl : Clause := { ctx := c, launch := x.launch, chan := BitVec.ofNat 8 chan, prio := fld ch.entry 32 3, homed := true,
                         header := match m with | some m => msgHeader m | none => [word (chan * 2 ^ 32), 0, 0, 0],
                         codeBase := x.codeBase, codeSize := x.codeSize, start := if start then some idx else none,
                         account := match m with | some m => s.accountOf m | none => none }
    let s := s.modLaunch x.launch fun l => { l with live := l.live + 1 }
    s.bindSlot k { clause := cl, pc := x.codeBase + word (fld ch.entry 0 32), digest := digest, seq := 0,
                   kstat := startKstat 0 false pinned x.repro false (chan == 255), low := [],
                   high := match m with | some m => m.payload | none => [] }

/-! ### Dispatch (R109, R122) -/

/-- A SERIAL channel is held: a clause that it fired is bound or suspended on this core (R106). -/
def State.serialHeld (s : State) (core c chan : Nat) : Bool :=
  let mine := fun (cl : Clause) => cl.ctx == c && cl.chan.toNat == chan && cl.parent == 0
  [core * 4, core * 4 + 1, core * 4 + 2, core * 4 + 3].any (fun k => let sl := s.slot k; sl.phase != .free && mine sl.clause)
    || (s.ctx core c).recs.any fun e => e.2.state != .free && !e.2.ended && e.2.state != .ending && mine e.2.clause

/-- A channel can be dispatched: enabled, pending, and not held. -/
def State.chanReady (s : State) (core c chan : Nat) (ch : Chan) : Bool :=
  ch.enable && ch.pending && !(bit ch.entry 37 && entryValid ch.entry && s.serialHeld core c chan)

/-- The priority that selection compares. -/
def effective (base boost : Nat) : Nat := least 7 (base + boost)

/-- One more dispatch passes over an item: its age, boost and place among the aged (R109). -/
def passOver (base age boost : Nat) (aged : Option Nat) (stamp : Nat) : Nat × Nat × Option Nat × Nat :=
  if age + 1 < 16 then (age + 1, boost, aged, stamp)
  else if effective base boost < 7 then (0, boost + 1, aged, stamp)
  else match aged with
    | some a => (0, boost, some a, stamp)
    | none => (0, boost, some stamp, stamp + 1)

/-- A choice of dispatch: a pool entry by its place, or a channel. -/
inductive Pick where
  | pool (i : Nat)
  | chan (c : Nat)
  deriving DecidableEq, Repr

/-- A candidate of dispatch: its effective priority, and its place among the aged. -/
structure Cand where
  pick : Pick
  eff  : Nat
  aged : Option Nat

/-- The candidate that aged first. -/
def firstAged : List Cand → Option (Nat × Pick)
  | [] => none
  | x :: t =>
    match x.aged, firstAged t with
    | some a, some (b, p) => if a ≤ b then some (a, x.pick) else some (b, p)
    | some a, none => some (a, x.pick)
    | none, r => r

/-- The highest effective priority. -/
def topEff : List Cand → Nat
  | [] => 0
  | x :: t => greatest x.eff (topEff t)

/-- The first channel after the last dispatched one, else the first. -/
def roundRobin (last : Nat) (cs : List Nat) : Option Nat := (cs.find? fun c => last < c).orElse fun _ => cs.head?

/-- The channels that a list of candidates names. -/
def chansOf : List Cand → List Nat
  | [] => []
  | x :: t => match x.pick with | .chan c => c :: chansOf t | .pool _ => chansOf t

/-- The choice of R109 among the candidates: pool entries in arrival order, then channels ascending. -/
def choose (last : Nat) (cands : List Cand) : Option Pick :=
  match firstAged cands with
  | some (_, p) => some p
  | none =>
    let top := cands.filter fun x => x.eff == topEff cands
    match top.find? fun x => match x.pick with | .pool _ => true | .chan _ => false with
    | some x => some x.pick
    | none => (roundRobin last (chansOf top)).map fun c => .chan c

/-- The channels of a context that can be dispatched. -/
def State.readyChans (s : State) (core c : Nat) : List (Nat × Chan) :=
  (s.ctx core c).chans.filter fun e => s.chanReady core c e.1 e.2

/-- The candidates of a context. -/
def State.candidates (s : State) (core c : Nat) : List Cand :=
  (s.ctx core c).pool.zipIdx.map (fun e => { pick := .pool e.2, eff := effective e.1.prio e.1.boost, aged := e.1.aged })
    ++ (s.readyChans core c).map fun e =>
      { pick := .chan e.1, eff := effective (fld e.2.entry 32 3) e.2.boost, aged := e.2.aged }

/-- The place of the first entry of a reproducible window's list that can be dispatched (R122). -/
def State.listReady (s : State) (core c : Nat) : Option Pick :=
  ((s.ctx core c).pool.zipIdx.find? fun e =>
    match e.1.kind with
    | .channel i => let ch := (s.ctx core c).chans.get i {}; s.chanReady core c i { ch with enable := ch.seen, pending := ch.seenPending }
    | _ => true).map fun e => .pool e.2

/-- A SHRINK in progress removes a core: dispatch on it has stopped (24_system.md R418). -/
def State.leaving (s : State) (core : Nat) : Bool :=
  match s.hub.ops with
  | .part 4 cmd :: _ => s.hub.begun && nodeHas (fld cmd 32 16) (clusterOf core) && !nodeHas (fld cmd 16 16) (clusterOf core)
  | _ => false

/-- The item that a context would dispatch. -/
def State.pickOf (s : State) (core c : Nat) : Option Pick :=
  let x := s.ctx core c
  let l := s.launch x.launch
  if !x.assigned || x.preempted || x.saved || s.leaving core || l.killing || (l.repro && l.opening) then none
  else if x.repro then s.listReady core c
  else choose x.lastChan (s.candidates core c)

/-- The pool entries that a dispatch passes over, aged. -/
def agePool (pick : Pick) (i stamp : Nat) : List PoolItem → List PoolItem × Nat
  | [] => ([], stamp)
  | p :: t =>
    if pick = .pool i then
      let r := agePool pick (i + 1) stamp t
      (p :: r.1, r.2)
    else
      let (a, b, g, stamp) := passOver p.prio p.age p.boost p.aged stamp
      let r := agePool pick (i + 1) stamp t
      ({ p with age := a, boost := b, aged := g } :: r.1, r.2)

/-- The channels that a dispatch passes over, aged; the dispatched one has its age reset. -/
def ageChans (pick : Pick) (ready : List Nat) (stamp : Nat) : Tab Chan → Tab Chan × Nat
  | [] => ([], stamp)
  | (i, ch) :: t =>
    if pick = .chan i then
      let r := ageChans pick ready stamp t
      ((i, { ch with age := 0, boost := 0, aged := none }) :: r.1, r.2)
    else if ready.contains i then
      let (a, b, g, stamp) := passOver (fld ch.entry 32 3) ch.age ch.boost ch.aged stamp
      let r := ageChans pick ready stamp t
      ((i, { ch with age := a, boost := b, aged := g }) :: r.1, r.2)
    else
      let r := ageChans pick ready stamp t
      ((i, ch) :: r.1, r.2)

/-- The context after a dispatch has passed over its other items; of items that become aged at one dispatch, pool entries come first,
then channels, ascending. DESIGN CHOICE, log 96. -/
def Ctx.aging (x : Ctx) (pick : Pick) (ready : List Nat) : Ctx :=
  let p := agePool pick 0 x.agedCount x.pool
  let q := ageChans pick ready p.2 x.chans
  { x with pool := p.1, chans := q.1, agedCount := q.2 }

/-- A pool entry leaves the pool and is bound. -/
def State.bindPool (s : State) (k c : Nat) (p : PoolItem) : State :=
  match p.kind with
  | .resumed core i =>
    if p.msg.kind = 0x03 then
      (s.modRecord core c i fun r => { r with state := .running }).bindChild k c p.msg (some (core, i))
    else s.bindRecord k c core i p.msg
  | .child => s.bindChild k c p.msg none
  | .channel i => s.bindChannel k c i (if p.msg.kind = 0xFF then none else some p.msg)

/-- An item of a context is dispatched to a slot. -/
def State.dispatchItem (s : State) (k c : Nat) (pick : Pick) : State :=
  let core := coreOf k
  let ready := (s.readyChans core c).map fun e => e.1
  let s := s.modCore core fun x => { x with lastCtx := c }
  let s := if (s.ctx core c).repro then s else s.modCtx core c fun x => x.aging pick ready
  match pick with
  | .pool i =>
    match (s.ctx core c).pool[i]? with
    | none => s
    | some p =>
      let s := s.modCtx core c fun x => { x with pool := x.pool.eraseIdx i }
      let s := match p.kind with
        | .channel j =>
          let left := (s.ctx core c).pool.any fun q => q.kind == PoolKind.channel j
          s.modCtx core c fun x => { x with chans := x.chans.set j { x.chans.get j {} with pending := left } }
        | _ => s
      (s.bindPool k c p).takeIn core c (s.ctx core c).held.length
  | .chan i =>
    let ch := (s.ctx core c).chans.get i {}
    let s := s.modCtx core c fun x =>
      { x with lastChan := i, chans := x.chans.set i { x.chans.get i {} with queue := ch.queue.drop 1, pending := !(ch.queue.drop 1).isEmpty } }
    (s.bindChannel k c i ch.queue.head?).takeIn core c (s.ctx core c).held.length

/-- HANDLER_DISPATCH: a free slot of a core binds the item that R109 picks, contexts taking turns. A halted cluster binds no
clause (25_debug.md R433), and neither does a slot with a reply owed under every generation (R103). -/
def State.dispatch (s : State) (slot : Nat) : State :=
  let core := coreOf slot
  if (s.debug (clusterOf core)).halted then s
  else
    let s := s.saveIdle core
    match s.idleSlot core with
    | none => s
    | some k =>
      let last := (s.core core).lastCtx
      let order := [(last + 1) % 4, (last + 2) % 4, (last + 3) % 4, last % 4]
      match order.findSome? fun c => (s.pickOf core c).map fun p => (c, p) with
      | none => s
      | some (c, p) => (s.dispatchItem k c p).wake core

/-- A message back in the queue of its channel, or in the list of its window, with the channel's bits as they stand. -/
def Ctx.takeBack (x : Ctx) (m : Msg) : Ctx :=
  let i := m.chan.toNat
  let ch := x.chans.get i {}
  if x.repro then { x with pool := insertItem { kind := .channel i, msg := m, prio := 0 } x.pool }
  else { x with chans := x.chans.set i { ch with queue := ch.queue ++ [m] } }

/-- The list of a reproducible context with an entry for each channel that its dispatch sees pending without a message (R122), under
the key 0: log 99. -/
def Ctx.withBare (x : Ctx) : Ctx :=
  let bare := fun (i : Nat) => !(x.pool.any fun p => p.kind == .channel i)
  let fresh := (x.chans.filter fun (e : Nat × Chan) => e.2.seenPending && bare e.1).map fun (e : Nat × Chan) =>
    ({ kind := .channel e.1, msg := { kind := 0xFF, chan := BitVec.ofNat 8 e.1 }, prio := 0 } : PoolItem)
  if x.repro then { x with pool := fresh.foldl (fun l p => insertItem p l) x.pool } else x

/-- Resumes kept at the records of a core's context are taken up (R114). -/
def State.takeUp (s : State) (core c : Nat) : State :=
  (s.ctx core c).recs.foldl (fun s e =>
    let r := s.record core c e.1
    match r.state, r.resumes with
    | .suspended, m :: t => (s.setRecord core c e.1 { r with resumes := t }).makeRunnable core c e.1 m
    | _, _ => s) s

/-- The removed cores that a core serves as their proxy (24_system.md R418). -/
def State.servedBy (s : State) (core : Nat) : List Nat := (s.hub.proxies.filter fun e => e.2 == core).map fun e => e.1

/-- The restore of a saved context (R119 step 4): saved items stand before items that arrive afterwards, and the bits of the channels
are as they were saved. Resumes kept at records of the core, or of cores it serves, go on. -/
def State.restoreContext (s : State) (core c : Nat) : State :=
  let x := s.ctx core c
  if !x.saved then (s.modCtx core c fun x => { x with preempted := false }).wake core
  else
    let s := s.modCtx core c fun x => { x with preempted := false, saved := false, pool := x.savedPool, savedPool := [], savedMsgs := [] }
    let s := s.modCtx core c fun y => (x.savedMsgs.foldl Ctx.takeBack y).withBare
    ((core :: s.servedBy core).foldl (fun s k => s.takeUp k c) s).wake core

end Sys2Proof.Machine
end

