-- ==== Sys2Proof/Machine/Access.lean ====
section
/-!
DEFINITION. The memory access instructions: `vld`, `vst`, `vgth` and `vsct` (07_vector.md R147 to R149), `gld`, `gvld`, `gst` and
`gvst` (11_memory_access.md R206 to R208), streams (R209 to R212), `waitv` (R213), `gpf` (R215), `mhint` and `mqry`
(12_main_memory.md R240).
-/
namespace Sys2Proof.Machine

/-- The address of a base register and a scaled signed offset. -/
def State.offsetAddr (s : State) (l : LOps) (scale : Nat) : Word := s.sl.xr l.rs1.toNat + wordInt ((sext l.imm8.toNat 8) * scale)

/-- The source that the base of an L-format word is. -/
def lBase (l : LOps) : Src := ⟨false, l.rs1.toNat, 1, l.e1, 1⟩

/-! ### Vector accesses (R147, R148) -/

/-- `vld` -/
def execVld (l : LOps) (s : State) : Host.Outcome State Fault Refusal :=
  let a := s.offsetAddr l 64
  .next (s.run { word := wordOf (.vld l), srcs := [lBase l], dsts := [⟨true, l.rd.toNat, 1, 0⟩] }
    ((require (a.toNat % 64 == 0) 0x20 a).bind fun _ =>
     (s.access s.cur .read a 64).bind fun t =>
     s.ordered false fun s =>
     match t with
     | .near t =>
       (require (s.nearError t 64).isNone 0x5B a).bind fun _ =>
       .ok ((s.finishV l.rd.toNat [BitVec.ofNat 512 (ofBytes (s.nearBytes s.cur t 64))] 0).corrected t 64)
     | .far ga unit chip _ =>
       (stallUnless (s.sl.farRoom 1)).bind fun _ =>
       .ok (((s.touched a).sendRead s.cur a ga unit chip 64 .blocking).block (.vload l.rd.toNat) 1)))

/-- `vst` -/
def execVst (l : LOps) (s : State) : Host.Outcome State Fault Refusal :=
  let a := s.offsetAddr l 64
  .next (s.run { word := wordOf (.vst l), srcs := [lBase l, ⟨true, l.rd.toNat, 1, false, 0⟩] }
    (let bs := toBytes 64 (s.sl.vr l.rd.toNat).toNat
     (require (a.toNat % 64 == 0) 0x20 a).bind fun _ =>
     (s.access s.cur .write a 64).bind fun t =>
     s.ordered true fun s =>
     match t with
     | .near t => (stallUnless (s.storeReady s.cur t 64)).bind fun _ => .ok ((s.nearStore s.cur t bs).complete)
     | .far ga unit chip _ =>
       (stallUnless (s.sl.farRoom 1)).bind fun _ =>
       .ok (((s.touched a).sendWrite s.cur 0x21 a ga unit chip bs .blocking).block .store 1)))

/-- The element addresses of a gather or scatter: base and signed offset lanes. -/
def State.elementAddrs (s : State) (k : KOps) : List Word :=
  let e := intWidth k.w
  let o := if e ≤ 32 then 32 else 64
  let m := if e ≤ 32 then 16 else 8
  ((lanes o (s.sl.vr k.rs2.toNat)).take m).map fun x => s.sl.xr k.rs1.toNat + wordInt (sext x o)

/-- The first address that fails a test raises a cause. -/
def requireAll (p : Word → Bool) (cause : Nat) : List Word → Res Unit
  | [] => .ok ()
  | a :: t => (require (p a) cause a).bind fun _ => requireAll p cause t

/-- The address checks of the elements, in lane order, before the SYNC_OBJECT check of stores. -/
def State.elementTargets (s : State) (acc : Access) (n : Nat) : List Word → Res (List Target)
  | [] => .ok []
  | a :: t =>
    (if isNear a.toNat || fld a 48 16 != 0 then s.access s.cur acc a n
     else
       (s.translate s.cur a).bind fun (ga, unit, chip, leaf) =>
       (require (match acc with | .read => leafR leaf | .write => leafW leaf) 0x51 a).bind fun _ =>
       (require (!leafTensed leaf) 0x5C a).bind fun _ => .ok (.far ga unit chip leaf)).bind fun x =>
    (s.elementTargets acc n t).bind fun xs => .ok (x :: xs)

/-- The SYNC_OBJECT check of a scatter, after all other address checks (R151). -/
def checkSync : List (Word × Target) → Res Unit
  | [] => .ok ()
  | (a, .far _ _ _ leaf) :: t => (require (!leafSync leaf) 0x71 a).bind fun _ => checkSync t
  | _ :: t => checkSync t

/-- All element checks of a gather or scatter (R148). -/
def State.elements (s : State) (acc : Access) (k : KOps) : Res (List (Word × Target)) :=
  let n := intWidth k.w / 8
  let as := s.elementAddrs k
  (requireAll (fun a => a.toNat % n == 0) 0x20 as).bind fun _ =>
  (if as.any fun a => isNear a.toNat then requireAll (fun a => isNear a.toNat) 0x22 as else .ok ()).bind fun _ =>
  (s.elementTargets acc n as).bind fun ts =>
  let r := as.zip ts
  (match acc with | .write => checkSync r | .read => .ok ()).bind fun _ => .ok r

/-- A distinct line of far elements: its global address, home and chip, and the virtual address of its first element. -/
structure ElemLine where
  ga   : Word
  unit : Nat
  chip : BitVec 20
  va   : Word

/-- The distinct lines of far elements, in the order of their first lanes. The address that a line's failure reports is that of its first
element, since the spec names no other where a line holds several (R148, R202): log 100. -/
def elemLines : List (Word × Target) → List ElemLine → List ElemLine
  | [], acc => acc.reverse
  | (a, .far ga unit chip _) :: t, acc =>
    elemLines t (if acc.any fun l => l.ga == lineOf ga then acc else { ga := lineOf ga, unit := unit, chip := chip, va := a } :: acc)
  | _ :: t, acc => elemLines t acc

/-- The near bytes of an element. -/
def State.elemBytes (s : State) (n : Nat) : Target → Nat
  | .near t => ofBytes (s.nearBytes s.cur t n)
  | .far _ _ _ _ => 0

/-- The first near element that meets an uncorrectable word raises 0x5B. -/
def State.elemErrors (s : State) (n : Nat) : List (Word × Target) → Res Unit
  | [] => .ok ()
  | (a, .near t) :: r => (require (s.nearError t n).isNone 0x5B a).bind fun _ => s.elemErrors n r
  | _ :: r => s.elemErrors n r

/-- The elements are near. -/
def allNear (es : List (Word × Target)) : Bool := es.all fun e => match e.2 with | .near _ => true | .far _ _ _ _ => false

/-- `vgth`: one 64-byte read for each distinct far line. -/
def execVgth (k : KOps) (s : State) : Host.Outcome State Fault Refusal :=
  let e := intWidth k.w
  .next (s.run { word := wordOf (.vgth k), srcs := [x1 k, v2 k], dsts := [toV k] }
    ((s.elements .read k).bind fun es =>
     s.ordered false fun s =>
     if allNear es then
       (s.elemErrors (e / 8) es).bind fun _ =>
       .ok (es.foldl (fun s x => s.correctedAt x.1 (e / 8)) (s.finishV k.rd.toNat [ofLanes e (es.map fun x => s.elemBytes (e / 8) x.2)] 0))
     else
       let ls := elemLines es []
       (stallUnless (s.sl.farRoom ls.length)).bind fun _ =>
       let s := es.foldl (fun s x => s.touched x.1) s
       let s := ls.foldl (fun s l => s.sendRead s.cur l.va l.ga l.unit l.chip 64 .blocking) s
       .ok (s.block (.gather k.rd.toNat (e / 8) (es.map fun x => match x.2 with | .far ga _ _ _ => ga.toNat | .near _ => 0)) ls.length)))

/-- Bytes laid into a line from an offset, with the byte mask they set. -/
def layBytes (line : List Byte) (mask off : Nat) : List Byte → List Byte × Nat
  | [] => (line, mask)
  | b :: t => layBytes (line.set off b) (mask ||| 2 ^ off) (off + 1) t

/-- The elements of a line laid into it, in ascending lane order. -/
def layElems (n : Nat) (ga : Word) : List ((Word × Target) × Nat) → List Byte × Nat → List Byte × Nat
  | [], acc => acc
  | ((_, .far g _ _ _), v) :: t, acc =>
    layElems n ga t (if lineOf g == ga then layBytes acc.1 acc.2 (g.toNat % 64) (toBytes n v) else acc)
  | _ :: t, acc => layElems n ga t acc

/-- The near stores of a scatter, in ascending lane order. -/
def State.scatterNear (s : State) (n : Nat) : List ((Word × Target) × Nat) → State
  | [] => s
  | ((_, .near t), v) :: r => (s.nearStore s.cur t (toBytes n v)).scatterNear n r
  | _ :: r => s.scatterNear n r

/-- The near elements that go to another stripe. -/
def State.crossStripe (s : State) (es : List (Word × Target)) : Nat :=
  (es.filter fun e => match e.2 with | .near (.pad _ cl) => stripeOf cl != s.curCore % 8 | _ => false).length

/-- The near elements of a scatter may be stored: no accepted `mma` has still to read them (10_matrix.md R189). -/
def State.elemsReady (s : State) (n : Nat) (es : List (Word × Target)) : Bool :=
  es.all fun e => match e.2 with | .near (.operand a) => s.storeReady s.cur (.operand a) n | _ => true

/-- `vsct`: one masked line write for each distinct far line. -/
def execVsct (k : KOps) (s : State) : Host.Outcome State Fault Refusal :=
  let e := intWidth k.w
  .next (s.run { word := wordOf (.vsct k), srcs := [x1 k, v2 k, vd k] }
    ((s.elements .write k).bind fun es =>
     let vs := es.zip (lanes e (s.sl.vr k.rd.toNat))
     s.ordered true fun s =>
     if allNear es then
       (stallUnless (decide (s.sl.fwd.length + s.crossStripe es ≤ Config.fwdLimit) && s.elemsReady (e / 8) es)).bind fun _ =>
       .ok ((s.scatterNear (e / 8) vs).complete)
     else
       let ls := elemLines es []
       (stallUnless (s.sl.farRoom ls.length)).bind fun _ =>
       let s := es.foldl (fun s x => s.touched x.1) s
       let s := ls.foldl (fun s l =>
         let r := layElems (e / 8) l.ga vs (List.replicate 64 0, 0)
         s.sendMasked s.cur l.va l.ga l.unit l.chip r.1 r.2) s
       .ok (s.block .store ls.length)))

/-! ### Non-blocking loads and stores (R206 to R208) -/

/-- The size of a `gld` sub and whether it extends the sign. -/
def gldShape (sub : BitVec 3) : Nat × Bool :=
  match sub.toNat with
  | 0 => (1, true)
  | 1 => (1, false)
  | 2 => (2, true)
  | 3 => (2, false)
  | 4 => (4, true)
  | 5 => (4, false)
  | _ => (8, false)

/-- A value of n bytes as an x register takes it. -/
def extendBytes (n : Nat) (signed : Bool) (v : Nat) : Word := if signed then wordInt (sext v (8 * n)) else word (v % 2 ^ (8 * n))

/-- `gld`: a near one fills its register after the near latency, a far one when the reply comes (02_idioms.md R19). -/
def execGld (sub : BitVec 3) (l : LOps) (s : State) : Host.Outcome State Fault Refusal :=
  let n := (gldShape sub).1
  let sg := (gldShape sub).2
  let a := s.offsetAddr l n
  .next (s.run { word := wordOf (.gld sub l), srcs := [lBase l], dsts := [⟨false, l.rd.toNat, 1, 0⟩] }
    ((require (a.toNat % n == 0) 0x55 a).bind fun _ =>
     (s.access s.cur .read a n).bind fun t =>
     s.ordered false fun s =>
     match t with
     | .near t =>
       (require (s.nearError t n).isNone 0x5B a).bind fun _ =>
       let v := (extendBytes n sg (ofBytes (s.nearBytes s.cur t n))).setWidth 512
       .ok ((s.modCur fun sl => (sl.fillLater false l.rd.toNat v (nearLatency s.curCore t)).complete).corrected t n)
     | .far ga unit chip _ =>
       (stallUnless (s.sl.farRoom 1)).bind fun _ =>
       let s := (s.touched a).sendRead s.cur a ga unit chip n (.fillX l.rd.toNat n 1 sg)
       .ok (s.modCur fun sl => (sl.emptyRegs false l.rd.toNat 1).complete)))

/-- `gvld` -/
def execGvld (l : LOps) (s : State) : Host.Outcome State Fault Refusal :=
  let a := s.offsetAddr l 64
  .next (s.run { word := wordOf (.gvld l), srcs := [lBase l], dsts := [⟨true, l.rd.toNat, 1, 0⟩] }
    ((require (a.toNat % 64 == 0) 0x55 a).bind fun _ =>
     (s.access s.cur .read a 64).bind fun t =>
     s.ordered false fun s =>
     match t with
     | .near t =>
       (require (s.nearError t 64).isNone 0x5B a).bind fun _ =>
       .ok ((s.modCur fun sl => (sl.fillLater true l.rd.toNat (BitVec.ofNat 512 (ofBytes (s.nearBytes s.cur t 64))) (nearLatency s.curCore t)).complete).corrected t 64)
     | .far ga unit chip _ =>
       (stallUnless (s.sl.farRoom 1)).bind fun _ =>
       let s := (s.touched a).sendRead s.cur a ga unit chip 64 (.fillV l.rd.toNat)
       .ok (s.modCur fun sl => (sl.emptyRegs true l.rd.toNat 1).complete)))

/-- What `gst` and `gvst` do with the bytes of their source (R208). -/
def State.postStore (s : State) (a : Word) (n : Nat) (bs : List Byte) (w : BitVec 2) : Res State :=
  (require (a.toNat % n == 0) 0x55 a).bind fun _ =>
  (s.access s.cur .write a n).bind fun t =>
  s.ordered true fun s =>
  (stallUnless (w == 0 || (s.sl.acked && s.sl.fwd.isEmpty))).bind fun _ =>
  let after := fun (s : State) => s.modCur fun sl => if w = 2 then sl.complete.addFence 4 0 else sl.complete
  match t with
  | .near t => (stallUnless (s.storeReady s.cur t n)).bind fun _ => .ok (after (s.nearStore s.cur t bs))
  | .far ga unit chip _ =>
    (stallUnless (s.sl.farRoom 1)).bind fun _ =>
    .ok (after ((s.touched a).sendWrite s.cur (0x21 + w.toNat) a ga unit chip bs .posted))

/-- The address of a W-format store. -/
def State.storeAddr (s : State) (o : WOps) (scale : Nat) : Word := s.sl.xr o.rs1.toNat + word (o.imm5.toNat * scale)

/-- `gst` -/
def execGst (sub : BitVec 2) (o : WOps) (s : State) : Host.Outcome State Fault Refusal :=
  let n := 2 ^ sub.toNat
  .next (s.run { word := wordOf (.gst sub o), srcs := [⟨false, o.rs1.toNat, 1, o.e1, 1⟩, ⟨false, o.rs2.toNat, 1, o.e2, 2⟩] }
    (s.postStore (s.storeAddr o n) n (toBytes n (s.sl.xr o.rs2.toNat).toNat) o.w))

/-- `gvst` -/
def execGvst (o : WOps) (s : State) : Host.Outcome State Fault Refusal :=
  .next (s.run { word := wordOf (.gvst o), srcs := [⟨false, o.rs1.toNat, 1, o.e1, 1⟩, ⟨true, o.rs2.toNat, 1, o.e2, 2⟩] }
    (s.postStore (s.storeAddr o 64) 64 (toBytes 64 (s.sl.vr o.rs2.toNat).toNat) o.w))

/-! ### Streams (R209 to R212) -/

/-- The stream registers of a slot. -/
def Slot.qr (sl : Slot) (n : Nat) : Word := sl.q.get n 0

/-- A live stream of the cluster that the issuing context started. -/
def State.ownStream (s : State) (id : Word) : Option Stream :=
  match (s.cluster (clusterOf s.curCore)).streams.find id.toNat with
  | none => none
  | some t => if t.ctx = s.sl.clause.ctx && (s.ctx t.core t.ctx).vf == s.curCtx.vf then some t else none

/-- Binds a stream register, or unbinds it with 0. -/
def State.bindStream (s : State) (n : Nat) (id : Word) : State :=
  let old := s.sl.qr n
  let s := s.modCur fun sl => { sl with q := sl.q.set n id }
  if old ≠ 0 && old ≠ id then s.unbound (clusterOf s.curCore) old.toNat else s

/-- `qbind` -/
def execQbind (k : KOps) (s : State) : Host.Outcome State Fault Refusal :=
  .next (s.run { word := wordOf (.qbind k), srcs := [x1 k] }
    (let id := s.sl.xr k.rs1.toNat
     (require (id == 0 || (s.ownStream id).isSome) 0x58 id).bind fun _ => .ok (s.bindStream k.rd.toNat id).complete))

/-- The position after a delivery. -/
def Stream.advance (t : Stream) (whole : Bool) : Stream :=
  if whole then { t with next := t.next + 1 }
  else if t.word = 7 then { t with word := 0, next := t.next + 1 } else { t with word := t.word + 1 }

/-- A slot may be served: its element has arrived or its stream has ended, and no other slot stalled on the stream before it. -/
def Stream.serves (t : Stream) (k : Nat) : Bool :=
  (decide (t.next < t.arrived) || t.ended) && (t.waiters.isEmpty || t.waiters.head? == some k)

/-- A stream of the issuing core's cluster. -/
def State.setStream (s : State) (id : Nat) (t : Stream) : State :=
  s.modCluster (clusterOf s.curCore) fun c => { c with streams := c.streams.set id t }

/-- A delivery of a stream register (R211): the checks 0x56 and, for `qrdv`, 0x59, the stall, 0x57, and the near read's 0x5B, then the
advanced stream and what the instruction does with the bytes. A slot that stalls joins those stalled on the stream, which are served
in that order. -/
def State.delivery (s : State) (q : Nat) (whole : Bool) (f : State → List Byte → State) : Res State :=
  let cl := clusterOf s.curCore
  let id := s.sl.qr q
  (require (id != 0) 0x56 (word q)).bind fun _ =>
  let t := (s.cluster cl).streams.get id.toNat {}
  (require (!(whole && t.word != 0)) 0x59 (word t.next)).bind fun _ =>
  if !t.serves s.cur then
    if t.waiters.contains s.cur then .stall else .ok (s.setStream id.toNat { t with waiters := t.waiters ++ [s.cur] })
  else
    (require (decide (t.next < t.arrived)) 0x57 (word t.next)).bind fun _ =>
    let n := if whole then 64 else 8
    let a := t.dest + 64 * t.next + 8 * t.word
    let near := Near.pad (padAddr cl a) a
    (require (s.nearError near n).isNone 0x5B (word (0xF * 2 ^ 44 + padBase + a))).bind fun _ =>
    let bs := s.nearBytes s.cur near n
    s.ordered false fun s => .ok ((f (s.setStream id.toNat { t.advance whole with waiters := t.waiters.filter (· != s.cur) }) bs).corrected near n)

/-- `qrd` -/
def execQrd (k : KOps) (s : State) : Host.Outcome State Fault Refusal :=
  .next (s.run { word := wordOf (.qrd k), dsts := [toX k] }
    (s.delivery k.rs1.toNat false fun s bs => s.finishX k.rd.toNat (word (ofBytes bs))))

/-- `qrdv` -/
def execQrdv (k : KOps) (s : State) : Host.Outcome State Fault Refusal :=
  .next (s.run { word := wordOf (.qrdv k), dsts := [toV k] }
    (s.delivery k.rs1.toNat true fun s bs => s.finishV k.rd.toNat [BitVec.ofNat 512 (ofBytes bs)] 0))

/-- The word that `qstat` writes for a bound stream. -/
def Stream.status (t : Stream) : Word :=
  BitVec.ofNat 64 (2 ^ 63 + (decide (t.count ≤ t.arrived)).toNat * 2 ^ 62 + t.ended.toNat * 2 ^ 61 + t.word % 8 * 2 ^ 48
    + least 65535 (t.arrived - t.next) * 2 ^ 32 + t.next % 2 ^ 32)

/-- `qstat`: the `rs1` field names the destination. -/
def execQstat (k : KOps) (s : State) : Host.Outcome State Fault Refusal :=
  .next (s.run { word := wordOf (.qstat k), dsts := [⟨false, k.rs1.toNat, 1, 1⟩] }
    (let id := s.sl.qr k.rd.toNat
     .ok (s.finishX k.rs1.toNat (if id = 0 then 0 else ((s.cluster (clusterOf s.curCore)).streams.get id.toNat {}).status))))

/-! ### `waitv`, `gpf`, `mhint`, `mqry` -/

/-- `waitv` -/
def execWaitv (k : KOps) (s : State) : Host.Outcome State Fault Refusal :=
  let a := s.sl.xr k.rs1.toNat
  .next (s.run { word := wordOf (.waitv k), srcs := [x1 k, x2 k], dsts := [toX k] }
    ((require (a.toNat % 8 == 0) 0x55 a).bind fun _ =>
     (s.access s.cur .read a 8).bind fun t =>
     match t with
     | .near _ => .trap 0x5D a
     | .far ga unit chip _ =>
       s.ordered false fun s =>
       (s.touched a).suspend (.waitv k.rd.toNat a (k.w == 1) ga unit chip (s.sl.xr k.rs2.toNat))))

/-- Sends a request of the issuing slot that has no answer: it counts and takes a sequence number. -/
def State.sendLoose (s : State) (kind : Nat) (unit : Nat) (chip : BitVec 20) (payload : List Word) : State :=
  let m := { s.clauseMsg s.cur with
    dstChip := chip, kind := BitVec.ofNat 8 kind, units := BitVec.ofNat 3 (payload.length / 2), unit := unit,
    tag := BitVec.ofNat 32 (s.curCore % 4096), payload := payload }
  ((s.modCur fun sl => { sl with kseq := sl.kseq + 1 }).countReq s.curCore unit chip).route m

/-- A near address of `gpf`: 0x54 outside both targets, else 0x5D. -/
def State.nearPrefetch (s : State) (a : Word) : Res State :=
  match nearTarget s.curCore (fld a 0 44) 1 with
  | .hole => .trap 0x54 a
  | _ => .trap 0x5D a

/-- The lines of a far address's page from its own line on. -/
def State.linesLeft (s : State) (va : Nat) : Nat :=
  match s.leafFor s.curCore (s.asid s.cur) va with
  | .ok _ ps => 2 ^ pageBits ps / 64 - va % 2 ^ pageBits ps / 64
  | .fail _ => 0

/-- `gpf`: a translation that fails drops the request. The lines asked for end with the address's page (log 110). -/
def execGpf (k : KOps) (s : State) : Host.Outcome State Fault Refusal :=
  let a := s.sl.xr k.rs1.toNat
  let n := least 64 (s.sl.xr k.rs2.toNat).toNat
  .next (s.run { word := wordOf (.gpf k), srcs := [x1 k, x2 k] }
    ((require (fld a 48 16 == 0) 0x53 a).bind fun _ =>
     if isNear a.toNat then s.nearPrefetch a
     else if n = 0 then .ok s.complete
     else match s.access s.cur .read a 1 with
       | .ok (.far ga unit chip _) =>
         s.ordered false fun s => .ok (((s.touched a).sendLoose 0x24 unit chip [lineOf ga, word (least n (s.linesLeft a.toNat))]).complete)
       | _ => .ok s.complete))

/-- `mhint` (R240) -/
def execMhint (k : KOps) (s : State) : Host.Outcome State Fault Refusal :=
  let a := s.sl.xr k.rs1.toNat
  let h := s.sl.xr k.rs2.toNat
  .next (s.run { word := wordOf (.mhint k), srcs := [x1 k, x2 k] }
    ((require (decide (h.toNat < 3)) 0x62 h).bind fun _ =>
     (require (fld a 48 16 == 0) 0x53 a).bind fun _ =>
     if isNear a.toNat then .ok s.complete
     else match s.translate s.cur a with
       | .ok (ga, unit, chip, _) => .ok (((s.touched a).sendLoose 0x3C unit chip [ga, h]).complete)
       | _ => .ok s.complete))

/-- `mqry` (R240) -/
def execMqry (k : KOps) (s : State) : Host.Outcome State Fault Refusal :=
  let a := s.sl.xr k.rs1.toNat
  .next (s.run { word := wordOf (.mqry k), srcs := [x1 k], dsts := [toX k] }
    ((require (fld a 48 16 == 0) 0x53 a).bind fun _ =>
     if isNear a.toNat then .ok (s.finishX k.rd.toNat 0)
     else
       (s.access s.cur .read a 1).bind fun t =>
       match t with
       | .near _ => .ok (s.finishX k.rd.toNat 0)
       | .far ga unit chip _ =>
         s.ordered false fun s =>
         (stallUnless (s.sl.farRoom 1)).bind fun _ =>
         let s := (s.touched a).sendFar s.cur 0x3D unit chip a ga (.fillX k.rd.toNat 8 1 false) 1 [ga, 0]
         .ok (s.modCur fun sl => (sl.emptyRegs false k.rd.toNat 1).complete)))

/-! ### What a home does with plain requests (R199, R213 to R215) -/

/-- A read arrives at its home. -/
def State.readAtHome (s : State) (m : Msg) : State :=
  s.atHome m fun s =>
    let ga := m.payload.getD 0 0
    let n := fld (m.payload.getD 1 0) 0 8
    let (s, st, bs) := s.homeRead m ga n (tagPath m.tag)
    s.sendReply m 0x28 ([word st, 0] ++ wordsOf (2 * ((n + 15) / 16)) bs)

/-- READ_REQUEST (kind 0x20) -/
def execReadRequest (m : Msg) (s : State) : Host.Outcome State Fault Refusal := .next (s.readAtHome m)

/-- A write of the management path to a LIVE barrier object, which its home refuses with a machine check (15_sync.md R277). -/
def State.refusesObject (s : State) (m : Msg) (ga : Word) : Bool := tagMgmt m.tag && bitOf m.rstat.toNat 0 && s.objectLive (devOf ga)

/-- A write of any kind arrives at its home: whole, or masked where its size is 0. -/
def State.writeAtHome (s : State) (m : Msg) : State :=
  s.atHome m fun s =>
    let ga := m.payload.getD 0 0
    let n := fld (m.payload.getD 1 0) 0 8
    let data := bytesOfWords (m.payload.drop 2)
    if s.refusesObject m ga then
      (s.machineCheck { kind := 0x0103, unitType := homeType m.unit, unit := homeNumber m.unit, addr := ga, detail := 0 }).sendReply m 0x29 [2, 0]
    else
      let s := if tagMgmt m.tag && bitOf m.rstat.toNat 1 then s.sweepPage (pageOf (devOf ga)) none else s
      let (s, st) :=
        if n = 0 then s.homeWrite m ga (m.payload.getD 10 0).toNat (data.take 64) false
        else s.homeWrite m ga (2 ^ n - 1) (data.take n) (tagMgmt m.tag)
      s.sendReply m 0x29 [word st, 0]

/-- WRITE_REQUEST (kind 0x21) -/
def execWriteRequest (m : Msg) (s : State) : Host.Outcome State Fault Refusal := .next (s.writeAtHome m)

/-- WRITE_RELEASE (kind 0x22): what the release waits for, its slot has waited for. -/
def execWriteRelease (m : Msg) (s : State) : Host.Outcome State Fault Refusal := .next (s.writeAtHome m)

/-- WRITE_SC (kind 0x23): the later wait is the slot's. -/
def execWriteSc (m : Msg) (s : State) : Host.Outcome State Fault Refusal := .next (s.writeAtHome m)

/-- PREFETCH_REQUEST (kind 0x24): lines are staged in the home's read buffers, those of the CXL tier in the hub's tier buffer also
(R215). It has no answer. A performed request adds to the heat of its page (12_main_memory.md R229). -/
def execPrefetchRequest (m : Msg) (s : State) : Host.Outcome State Fault Refusal :=
  .next (s.atHome m fun s =>
    let ga := m.payload.getD 0 0
    let n := fld (m.payload.getD 1 0) 0 8
    match s.findLine m ga false true false with
    | .refused _ rec => s.recordLost m ga rec
    | .at media _ =>
      let s := (s.heated m.unit (devOf ga)).modStack m.unit fun k => { k with readBuf := (List.range n).map fun i => devOf ga / 64 + i }
      if media < 2 ^ 40 then s else s.modHub fun h => { h with tierBuf := (List.range n).map fun i => media / 64 * 64 + 64 * i })

/-- A watch arrives: it resumes at once where its word is refused, poisoned or different, and is held otherwise. A watch of a
reproducible launch is compared at window closes (R204). -/
def State.watchAtHome (s : State) (m : Msg) : State :=
  s.atHome m fun s =>
    let ga := watchWord m
    let (s, st, _) := s.homeRead m ga 8 false
    let w := (s.launch m.launch).window
    if st ≠ 0 then s.homeResumes m w 0 0 (word st)
    else if !s.windowed m && s.fires m then s.homeResumes m w 0 (s.watched m) 0
    else
      let k := s.stack m.unit
      if k.watches.length < 16384 then s.modStack m.unit fun k => { k with watches := k.watches ++ [m] }
      else
        let s := s.modStack m.unit fun k => { k with spill := k.spill ++ [m] }
        if k.spill.isEmpty then { s with timers := s.timers ++ [(s.ktick.toNat + 4096, .watchSpillReread m.unit)] } else s

/-- WATCH_REQUEST (kind 0x25) -/
def execWatchRequest (m : Msg) (s : State) : Host.Outcome State Fault Refusal := .next (s.watchAtHome m)

/-- WATCH_SPILL_REREAD: the spilled words of a home are read again (R214). -/
def execWatchSpillReread (stack : Nat) (s : State) : Host.Outcome State Fault Refusal :=
  let k := s.stack stack
  let hit := fun (m : Msg) => !s.windowed m && s.fires m
  let s' := (s.modStack stack fun k => { k with spill := k.spill.filter fun m => !hit m }).fireAll (k.spill.filter hit)
  .next (if (s'.stack stack).spill.isEmpty then s'
    else { s' with timers := s'.timers ++ [(s'.ktick.toNat + 4096, .watchSpillReread stack)] })

end Sys2Proof.Machine
end

