-- ==== Sys2Proof/Machine/Base.lean ====
section
/-!
DEFINITION. The base instructions RV64I, M and Zicsr (05_scalar.md R76 to R82; 04_encoding.md R60, R61, R73).
-/
namespace Sys2Proof.Machine

/-! ### Register instructions (R76) -/

/-- The sign extension of the low n bits of a word. -/
def sextWord (v : Word) (n : Nat) : Word := wordInt (sext v.toNat n)

/-- The result of an OP operation. -/
def regOp (op : RegOp) (a b : Word) : Word :=
  match op with
  | .add => a + b
  | .sub => a - b
  | .sll => a <<< (fld b 0 6)
  | .slt => if a.slt b then 1 else 0
  | .sltu => if a.ult b then 1 else 0
  | .xor => a ^^^ b
  | .srl => a >>> (fld b 0 6)
  | .sra => a.sshiftRight (fld b 0 6)
  | .or => a ||| b
  | .and => a &&& b

/-- The result of an OP-IMM operation. -/
def immOp (op : ImmOp) (a b : Word) : Word :=
  match op with
  | .addi => a + b
  | .slti => if a.slt b then 1 else 0
  | .sltiu => if a.ult b then 1 else 0
  | .xori => a ^^^ b
  | .ori => a ||| b
  | .andi => a &&& b

/-- A shift of a word by an amount. -/
def shiftOp (op : ShiftOp) (a : Word) (n : Nat) : Word :=
  match op with
  | .sll => a <<< n
  | .srl => a >>> n
  | .sra => a.sshiftRight n

/-- A shift of the low 32 bits by an amount, sign-extended. -/
def shiftOpW (op : ShiftOp) (a : BitVec 32) (n : Nat) : Word :=
  match op with
  | .sll => (a <<< n).signExtend 64
  | .srl => (a >>> n).signExtend 64
  | .sra => (a.sshiftRight n).signExtend 64

/-- The result of an OP-32 operation. -/
def regOpW (op : RegOpW) (a b : BitVec 32) : Word :=
  match op with
  | .addw => (a + b).signExtend 64
  | .subw => (a - b).signExtend 64
  | .sllw => shiftOpW .sll a (b.toNat % 32)
  | .srlw => shiftOpW .srl a (b.toNat % 32)
  | .sraw => shiftOpW .sra a (b.toNat % 32)

/-- The destination register of an ALU word. -/
def aluRd : BaseAlu → Reg
  | .lui rd _ => rd
  | .auipc rd _ => rd
  | .opImm _ rd _ _ => rd
  | .shiftImm _ rd _ _ => rd
  | .op _ rd _ _ => rd
  | .addiw rd _ _ => rd
  | .shiftImmW _ rd _ _ => rd
  | .opW _ rd _ _ => rd

/-- The source registers of an ALU word, in order. -/
def aluSrcs : BaseAlu → List Reg
  | .lui _ _ => []
  | .auipc _ _ => []
  | .opImm _ _ a _ => [a]
  | .shiftImm _ _ a _ => [a]
  | .op _ _ a b => [a, b]
  | .addiw _ a _ => [a]
  | .shiftImmW _ _ a _ => [a]
  | .opW _ _ a b => [a, b]

/-- The result of an ALU word, from the registers of a slot. -/
def aluValue (op : BaseAlu) (sl : Slot) : Word :=
  let x := fun (r : Reg) => sl.xr r.toNat
  let lo := fun (r : Reg) => (sl.xr r.toNat).setWidth 32
  match op with
  | .lui _ imm => wordInt (sext imm.toNat 20 * 4096)
  | .auipc _ imm => sl.pc + wordInt (sext imm.toNat 20 * 4096)
  | .opImm o _ a imm => immOp o (x a) (imm.signExtend 64)
  | .shiftImm o _ a n => shiftOp o (x a) n.toNat
  | .op o _ a b => regOp o (x a) (x b)
  | .addiw _ a imm => (lo a + imm.signExtend 32).signExtend 64
  | .shiftImmW o _ a n => shiftOpW o (lo a) n.toNat
  | .opW o _ a b => regOpW o (lo a) (lo b)

/-- Sources named by register numbers, the first as `rs1`. -/
def baseSrcs : Nat → List Reg → List Src
  | _, [] => []
  | i, r :: t => baseSrc r i :: baseSrcs (i + 1) t

/-- LUI, AUIPC, OP-IMM, OP, OP-IMM-32 and OP-32. -/
def execBaseAlu (op : BaseAlu) (s : State) : Host.Outcome State Fault Refusal :=
  .next (s.run { word := wordOf (.baseAlu op), srcs := baseSrcs 1 (aluSrcs op), dsts := [⟨false, (aluRd op).toNat, 1, 0⟩] }
    (.ok (s.finishX (aluRd op).toNat (aluValue op s.sl))))

/-- The quotient and remainder of two integers, rounded toward 0, with the ratified results for division by 0. -/
def divInt (a b : Int) : Int := if b = 0 then -1 else Int.tdiv a b
def remInt (a b : Int) : Int := if b = 0 then a else Int.tmod a b

/-- The result of an M operation; division by 0 and overflow give the ratified results. -/
def mulDiv (op : MulDivOp) (a b : Word) : Word :=
  let la := (a.setWidth 32 : BitVec 32)
  let lb := (b.setWidth 32 : BitVec 32)
  match op with
  | .mul => a * b
  | .mulh => wordInt (a.toInt * b.toInt / 2 ^ 64)
  | .mulhsu => wordInt (a.toInt * b.toNat / 2 ^ 64)
  | .mulhu => word (a.toNat * b.toNat / 2 ^ 64)
  | .div => wordInt (divInt a.toInt b.toInt)
  | .divu => if b = 0 then -1 else word (a.toNat / b.toNat)
  | .rem => wordInt (remInt a.toInt b.toInt)
  | .remu => if b = 0 then a else word (a.toNat % b.toNat)
  | .mulw => (la * lb).signExtend 64
  | .divw => (BitVec.ofInt 32 (divInt la.toInt lb.toInt)).signExtend 64
  | .divuw => if lb = 0 then -1 else (BitVec.ofNat 32 (la.toNat / lb.toNat)).signExtend 64
  | .remw => (BitVec.ofInt 32 (remInt la.toInt lb.toInt)).signExtend 64
  | .remuw => if lb = 0 then la.signExtend 64 else (BitVec.ofNat 32 (la.toNat % lb.toNat)).signExtend 64

/-- The M instructions. -/
def execBaseMulDiv (op : MulDivOp) (rd rs1 rs2 : Reg) (s : State) : Host.Outcome State Fault Refusal :=
  .next (s.run { word := wordOf (.baseMulDiv op rd rs1 rs2), srcs := [baseSrc rs1 1, baseSrc rs2 2], dsts := [⟨false, rd.toNat, 1, 0⟩] }
    (.ok (s.finishX rd.toNat (mulDiv op (s.sl.xr rs1.toNat) (s.sl.xr rs2.toNat)))))

/-! ### Loads and stores (R77, R78) -/

/-- The size of a load in bytes, and whether it extends the sign. -/
def loadShape : LoadOp → Nat × Bool
  | .lb => (1, true)
  | .lh => (2, true)
  | .lw => (4, true)
  | .ld => (8, true)
  | .lbu => (1, false)
  | .lhu => (2, false)
  | .lwu => (4, false)

/-- A loaded number of n bytes as a register value. -/
def extendLoad (n : Nat) (signed : Bool) (v : Nat) : Word := if signed then wordInt (sext v (8 * n)) else word v

/-- The loads: near at once, far as a blocking request. -/
def execBaseLoad (op : LoadOp) (rd rs1 : Reg) (imm : BitVec 12) (s : State) : Host.Outcome State Fault Refusal :=
  let n := (loadShape op).1
  let sg := (loadShape op).2
  .next (s.run { word := wordOf (.baseLoad op rd rs1 imm), srcs := [baseSrc rs1 1], dsts := [⟨false, rd.toNat, 1, 0⟩] }
    (let a := s.sl.xr rs1.toNat + imm.signExtend 64
     (require (a.toNat % n == 0) 0x14 a).bind fun _ =>
     (s.access s.cur .read a n).bind fun t =>
     s.ordered false fun s =>
     match t with
     | .near t =>
       (require (s.nearError t n).isNone 0x5B a).bind fun _ =>
       .ok ((s.finishX rd.toNat (extendLoad n sg (ofBytes (s.nearBytes s.cur t n)))).corrected t n)
     | .far ga unit chip _ =>
       (stallUnless (s.sl.farRoom 1)).bind fun _ =>
       .ok (((s.touched a).sendRead s.cur a ga unit chip n .blocking).block (.load rd.toNat n sg) 1)))

/-- The size of a store in bytes. -/
def storeSize : StoreOp → Nat
  | .sb => 1
  | .sh => 2
  | .sw => 4
  | .sd => 8

/-- What a far store carries of its page for its home: nothing but for a management core, whose store may be to a barrier object (15_sync.md
R277) or a tensed word. -/
def State.storeAttr (s : State) (leaf : Nat) : BitVec 4 := if s.isMgmt then BitVec.ofNat 4 ((leafSync leaf).toNat + 2 * (leafTensed leaf).toNat) else 0

/-- The stores: near at once, far as a blocking request that its acknowledgement ends. -/
def execBaseStore (op : StoreOp) (rs1 rs2 : Reg) (imm : BitVec 12) (s : State) : Host.Outcome State Fault Refusal :=
  let n := storeSize op
  .next (s.run { word := wordOf (.baseStore op rs1 rs2 imm), srcs := [baseSrc rs1 1, baseSrc rs2 2] }
    (let a := s.sl.xr rs1.toNat + imm.signExtend 64
     let bs := toBytes n (s.sl.xr rs2.toNat).toNat
     (require (a.toNat % n == 0) 0x14 a).bind fun _ =>
     (s.access s.cur .write a n).bind fun t =>
     s.ordered true fun s =>
     match t with
     | .near t => (stallUnless (s.storeReady s.cur t n)).bind fun _ => .ok ((s.nearStore s.cur t bs).complete)
     | .far ga unit chip leaf =>
       (stallUnless (s.sl.farRoom 1)).bind fun _ =>
       let s := if s.isMgmt && leafTensed leaf && chip == s.hub.chipId then s.sweepPage (pageOf (devOf ga)) (some (s.asid s.cur, a)) else s
       .ok (((s.touched a).sendWrite s.cur 0x21 a ga unit chip bs .blocking none (s.storeAttr leaf)).block .store 1)))

/-! ### Control transfer (R79, R80) -/

/-- A branch is taken. -/
def branchTaken (op : BranchOp) (a b : Word) : Bool :=
  match op with
  | .beq => a == b
  | .bne => a != b
  | .blt => a.slt b
  | .bge => b.sle a
  | .bltu => a.ult b
  | .bgeu => b.ule a

/-- The conditional branches. A taken one whose target is not a multiple of 4 raises 0x15. -/
def execBaseBranch (op : BranchOp) (rs1 rs2 : Reg) (imm : BitVec 12) (s : State) : Host.Outcome State Fault Refusal :=
  .next (s.run { word := wordOf (.baseBranch op rs1 rs2 imm), srcs := [baseSrc rs1 1, baseSrc rs2 2] }
    (let t := s.sl.pc + wordInt (sext imm.toNat 12 * 2)
     if branchTaken op (s.sl.xr rs1.toNat) (s.sl.xr rs2.toNat) then
       (require (t.toNat % 4 == 0) 0x15 t).bind fun _ => .ok (s.modCur fun sl => sl.jump t)
     else .ok s.complete))

/-- `jal`. -/
def execJal (rd : Reg) (imm : BitVec 20) (s : State) : Host.Outcome State Fault Refusal :=
  .next (s.run { word := wordOf (.jal rd imm), dsts := [⟨false, rd.toNat, 1, 0⟩] }
    (let t := s.sl.pc + wordInt (sext imm.toNat 20 * 2)
     (require (t.toNat % 4 == 0) 0x15 t).bind fun _ =>
     .ok (s.modCur fun sl => (sl.setX rd.toNat (sl.pc + 4)).jump t)))

/-- `jalr`; bit 0 of the target is cleared. -/
def execJalr (rd rs1 : Reg) (imm : BitVec 12) (s : State) : Host.Outcome State Fault Refusal :=
  .next (s.run { word := wordOf (.jalr rd rs1 imm), srcs := [baseSrc rs1 1], dsts := [⟨false, rd.toNat, 1, 0⟩] }
    (let t := (s.sl.xr rs1.toNat + imm.signExtend 64) &&& ~~~(1 : Word)
     (require (t.toNat % 4 == 0) 0x15 t).bind fun _ =>
     .ok (s.modCur fun sl => (sl.setX rd.toNat (sl.pc + 4)).jump t)))

/-- The base fence: `fen.sc.pk`, whatever its fields hold (04_encoding.md R61). -/
def execBaseFence (rd rs1 : Reg) (imm : BitVec 12) (s : State) : Host.Outcome State Fault Refusal :=
  .next (s.run { word := wordOf (.baseFence rd rs1 imm) } (s.fullFence 2))

/-- `ecall` raises 0x12. -/
def execEcall (s : State) : Host.Outcome State Fault Refusal :=
  .next (s.run { word := wordOf .ecall } (.trap 0x12 0))

/-- `ebreak` raises 0x13, or halts the cluster where its debug module halts on break (25_debug.md R431): the slot then goes
on at the next word after the resume (R433). -/
def execEbreak (s : State) : Host.Outcome State Fault Refusal :=
  let cl := clusterOf s.curCore
  .next (s.run { word := wordOf .ebreak }
    (if bit (s.debug cl).ctl 8 then .ok (s.complete.haltCluster cl 2 s.curCore s.cur) else .trap 0x13 0))

/-- A word that is no instruction raises 0x00 with the word in `kaddr` (R74). -/
def execIllegalEncoding (w : BitVec 32) (s : State) : Host.Outcome State Fault Refusal :=
  .next (if s.sl.blocked then s else s.trap 0x00 (w.setWidth 64))

/-! ### Control and status registers (R81, R82) -/

/-- The value of a CSR of the issuing slot; none for a number that names no CSR. `krand` is read apart. -/
def State.csr (s : State) (n : Nat) : Option Word :=
  let sl := s.sl
  let c := s.core s.curCore
  match n with
  | 0x800 => some sl.kstat
  | 0x801 => some sl.kprog
  | 0x802 => some sl.kloop0
  | 0x803 => some sl.kls0
  | 0x804 => some sl.kle0
  | 0x805 => some sl.kloop1
  | 0x806 => some sl.kls1
  | 0x807 => some sl.kle1
  | 0xCC0 => some (sl.kpfx.setWidth 64)
  | 0xCC1 => some sl.kcause
  | 0xCC2 => some sl.kaddr
  | 0xCC3 => some sl.kepc
  | 0xCC4 => some sl.kwdog
  | 0xCC8 => some (c.kgeo.get 0 0)
  | 0xCC9 => some (c.kgeo.get 1 0)
  | 0xCCA => some (c.kgeo.get 2 0)
  | 0xCCB => some (c.kgeo.get 3 0)
  | 0xCCC => some sl.kpath
  | 0xCCD => some sl.kseq
  | 0xCD0 => some s.ktick
  | 0xCD1 => some ((s.vf s.curCtx.vf).bases.get 1 0)
  | 0xCD2 => some ((s.vf s.curCtx.vf).bases.get 2 0)
  | 0xCD3 => some ((s.vf s.curCtx.vf).bases.get 3 0)
  | 0xCD4 => some ((s.vf s.curCtx.vf).bases.get 4 0)
  | 0xCD5 => some ((s.vf s.curCtx.vf).bases.get 5 0)
  | 0xCD6 => some ((s.vf s.curCtx.vf).bases.get 6 0)
  | 0xCD7 => some ((s.vf s.curCtx.vf).bases.get 7 0)
  | 0xCD8 => some c.kreql
  | 0xCD9 => some c.kreqx
  | 0xCDA => some (word s.curCtx.vf)
  | 0xCDB => some s.curCtx.kasid
  | _ => none

/-- The numbers of `krand` and `ktick`. -/
def csrRand : Nat := 0xCDC
def csrTick : Nat := 0xCD0

/-- A CSR that a write may name. -/
def csrWritable (n : Nat) : Bool := decide (0x800 ≤ n) && decide (n ≤ 0x807)

/-- A slot with a CSR written. Of `kstat` only FLAGS can be written (R82). -/
def Slot.writeCsr (sl : Slot) (n : Nat) (v : Word) : Slot :=
  match n with
  | 0x800 => { sl with kstat := withFld sl.kstat 16 5 (fld v 16 5) }
  | 0x801 => { sl with kprog := v }
  | 0x802 => { sl with kloop0 := v }
  | 0x803 => { sl with kls0 := v }
  | 0x804 => { sl with kle0 := v }
  | 0x805 => { sl with kloop1 := v }
  | 0x806 => { sl with kls1 := v }
  | 0x807 => { sl with kle1 := v }
  | _ => sl

/-- The form takes its operand from the immediate in the `rs1` field. -/
def csrImmediate : CsrOp → Bool
  | .csrrwi => true
  | .csrrsi => true
  | .csrrci => true
  | _ => false

/-- The form writes its CSR: the exchange always, set and clear where the `rs1` field is not 0. -/
def csrWrites (op : CsrOp) (rs1 : Reg) : Bool :=
  match op with
  | .csrrw => true
  | .csrrwi => true
  | _ => rs1 != 0

/-- The value a form writes, from the old value and the operand. -/
def csrValue (op : CsrOp) (old v : Word) : Word :=
  match op with
  | .csrrw => v
  | .csrrwi => v
  | .csrrs => old ||| v
  | .csrrsi => old ||| v
  | .csrrc => old &&& ~~~v
  | .csrrci => old &&& ~~~v

/-- An input of the issuing slot (25_debug.md R442, R443): recorded under CAPTURE; in replay mode the next captured one, and with none
the replay has diverged, which raises 0xBE or halts a management core. -/
def State.input (s : State) (kind : Nat) (read : State → Res (State × Word)) (f : State → Word → Res State) : Res State :=
  let k := s.cur
  let cl := clusterOf s.curCore
  if s.hub.boot.mode = 2 then
    let n := s.hub.boot.inputs.get k 0
    match Config.captured k n with
    | some v => f (s.modHub fun h => { h with boot := { h.boot with inputs := h.boot.inputs.set k (n + 1) } }) v
    | none =>
      let s := s.modHub fun h => { h with boot := { h.boot with diverged := true } }
      .ok (if Config.firstMgmtCore ≤ s.curCore then s.modCur fun sl => { sl with phase := .frozen } else s.trap 0xBE (word n))
  else (read s).bind fun (s, v) => f (s.captureInput cl s.curCore (k % 4) kind [v] 1) v

/-- The six Zicsr forms. An undefined number and a write attempt on a read-only CSR raise 0x16. A read of `krand` draws fresh
entropy, and stalls while the source has failed (26_platform.md R452). The write to a loop register takes effect from the
next instruction (R87), so the loop-end test of this instruction comes first. -/
def execZicsr (op : CsrOp) (rd rs1 : Reg) (csr : BitVec 12) (s : State) : Host.Outcome State Fault Refusal :=
  let n := csr.toNat
  .next (s.run { word := wordOf (.zicsr op rd rs1 csr), srcs := if csrImmediate op then [] else [baseSrc rs1 1],
                 dsts := [⟨false, rd.toNat, 1, 0⟩] }
    (let v := if csrImmediate op then word rs1.toNat else s.sl.xr rs1.toNat
     if n = csrRand then
       (require (!csrWrites op rs1) 0x16 (word n)).bind fun _ =>
       s.input inRandom (fun s => (stallUnless (!s.hub.entropyBad)).bind fun _ =>
         .ok ({ s with draws := s.draws + 1 }, Config.entropy s.draws)) fun s v => .ok (s.finishX rd.toNat v)
     else if n = csrTick && !csrWrites op rs1 then
       s.input inTick (fun s => .ok (s, s.ktick)) fun s v => .ok (s.finishX rd.toNat v)
     else
       match s.csr n with
       | none => .trap 0x16 (word n)
       | some old =>
         if csrWrites op rs1 then
           (require (csrWritable n) 0x16 (word n)).bind fun _ =>
           .ok (s.modCur fun sl => ((sl.setX rd.toNat old).complete).writeCsr n (csrValue op old v))
         else .ok (s.finishX rd.toNat old)))

end Sys2Proof.Machine
end

