-- ==== Sys2Proof/Machine/Vector.lean ====
section
/-!
DEFINITION. The register instructions of 07_vector.md: floating-point and integer lane arithmetic, shifts, compare, logic,
select, lane moves, tree reductions and top-k ranking. Vector memory accesses stand in Machine/Access.lean.
-/
namespace Sys2Proof.Machine

/-! ### Shapes of lane instructions -/

/-- The payload check of an F instruction of the FP arithmetic row (08_numbers.md R164). -/
def plainPayload (w32 : BitVec 32) (s : State) : Res Unit :=
  require (payPlain s.sl.payload) 0x28 (formatAddr s.sl.payload w32)

/-- The register a row of lane results makes, with the flags of all lanes. -/
def State.finishLanes (s : State) (rd e : Nat) (r : List (Nat × Flags)) : State :=
  s.finishV rd [ofLanes e (r.map fun x => x.1)] (joinFlags r)

/-- The lanes of the source registers of an F instruction, under its type code. -/
def fpLanesRaw (w32 : BitVec 32) (k : KOps) (op : Fmt → Nat → Nat × Flags) (s : State) : State :=
  s.run { word := w32, format := true, srcs := [v1 k], dsts := [toV k] }
    ((plainPayload w32 s).bind fun _ =>
      let f := laneFmt k.w
      .ok (s.finishLanes k.rd.toNat f.width ((lanes f.width (s.sl.vr k.rs1.toNat)).map (op f))))

/-- A unary floating-point lane instruction, rounded once (R138). -/
def fpLanes1 (w32 : BitVec 32) (k : KOps) (op : Val → Val × Flags) (s : State) : State :=
  fpLanesRaw w32 k (fun f a => finishFp f s.sl.payload (op (f.decode a))) s

/-- A binary floating-point lane instruction, rounded once (R138). -/
def fpLanes2 (w32 : BitVec 32) (k : KOps) (op : Rounding → Val → Val → Val × Flags) (s : State) : State :=
  s.run { word := w32, format := true, srcs := [v1 k, v2 k], dsts := [toV k] }
    ((plainPayload w32 s).bind fun _ =>
      let f := laneFmt k.w
      let p := s.sl.payload
      .ok (s.finishLanes k.rd.toNat f.width
        (zipLanes (fun a b => finishFp f p (op (payMode p) (f.decode a) (f.decode b)))
          (lanes f.width (s.sl.vr k.rs1.toNat)) (lanes f.width (s.sl.vr k.rs2.toNat)))))

/-- A fused floating-point lane instruction with the old destination, rounded once (R138). -/
def fpLanes3 (w32 : BitVec 32) (k : KOps) (op : Rounding → Val → Val → Val → Val × Flags) (s : State) : State :=
  s.run { word := w32, format := true, srcs := [v1 k, v2 k, vd k], dsts := [toV k] }
    ((plainPayload w32 s).bind fun _ =>
      let f := laneFmt k.w
      let p := s.sl.payload
      .ok (s.finishLanes k.rd.toNat f.width
        (zipLanes3 (fun a b c => finishFp f p (op (payMode p) (f.decode a) (f.decode b) (f.decode c)))
          (lanes f.width (s.sl.vr k.rs1.toNat)) (lanes f.width (s.sl.vr k.rs2.toNat)) (lanes f.width (s.sl.vr k.rd.toNat)))))

/-- A floating-point lane compare (R141): only a signalling NaN raises NV. -/
def fpCompare (w32 : BitVec 32) (k : KOps) (holds : Rel → Bool) (s : State) : State :=
  s.run { word := w32, srcs := [v1 k, v2 k], dsts := [toV k] }
    (let f := laneFmt k.w
     .ok (s.finishLanes k.rd.toNat f.width
      (zipLanes (fun a b =>
          let x := f.decode a
          let y := f.decode b
          (if holds (x.rel y) then 2 ^ f.width - 1 else 0, flagIf (x.signals || y.signals) flagNV))
        (lanes f.width (s.sl.vr k.rs1.toNat)) (lanes f.width (s.sl.vr k.rs2.toNat)))))

/-- A unary integer lane instruction on lanes of e bits. -/
def intLanes1 (w32 : BitVec 32) (k : KOps) (op : Nat → Nat → Nat) (s : State) : State :=
  s.run { word := w32, srcs := [v1 k], dsts := [toV k] }
    (let e := intWidth k.w
     .ok (s.finishV k.rd.toNat [ofLanes e ((lanes e (s.sl.vr k.rs1.toNat)).map (op e))] 0))

/-- A binary integer lane instruction on lanes of e bits. -/
def intLanes2 (w32 : BitVec 32) (k : KOps) (op : Nat → Nat → Nat → Nat) (s : State) : State :=
  s.run { word := w32, srcs := [v1 k, v2 k], dsts := [toV k] }
    (let e := intWidth k.w
     .ok (s.finishV k.rd.toNat [ofLanes e (zipLanes (op e) (lanes e (s.sl.vr k.rs1.toNat)) (lanes e (s.sl.vr k.rs2.toNat)))] 0))

/-- Combines two groups register by register. -/
def zipRegs (op : VWord → VWord → VWord) : List VWord → List VWord → List VWord
  | a :: s, b :: t => op a b :: zipRegs op s t
  | _, _ => []

/-- The group form of a logic instruction (R142). -/
def groupLogic (w32 : BitVec 32) (k : KOps) (op : VWord → VWord → VWord) (s : State) : State :=
  let n := groupSize k.w
  s.run { word := w32, groups := [(k.rd.toNat, n), (k.rs1.toNat, n), (k.rs2.toNat, n)], srcs := [v1 k n, v2 k n], dsts := [toV k n] }
    (.ok (s.finishV k.rd.toNat (zipRegs op (s.sl.vs k.rs1.toNat n) (s.sl.vs k.rs2.toNat n)) 0))

/-! ### Arithmetic, compare and logic -/

/-- `vadd` of floating-point lanes: a + b (07_vector.md R138). -/
def execVaddF (k : KOps) (s : State) : Host.Outcome State Fault Refusal :=
  .next (fpLanes2 (wordOf (.vaddF k)) k (fun m a b => Val.add m a b) s)

/-- `vsub` of floating-point lanes: a - b (07_vector.md R138). -/
def execVsubF (k : KOps) (s : State) : Host.Outcome State Fault Refusal :=
  .next (fpLanes2 (wordOf (.vsubF k)) k (fun m a b => Val.add m a b.negate) s)

/-- `vmul` of floating-point lanes: a · b (07_vector.md R138). -/
def execVmulF (k : KOps) (s : State) : Host.Outcome State Fault Refusal :=
  .next (fpLanes2 (wordOf (.vmulF k)) k (fun _ a b => Val.mul a b) s)

/-- `vmin` of floating-point lanes: minimumNumber (07_vector.md R138). -/
def execVminF (k : KOps) (s : State) : Host.Outcome State Fault Refusal :=
  .next (fpLanes2 (wordOf (.vminF k)) k (fun _ a b => Val.pick true a b) s)

/-- `vmax` of floating-point lanes: maximumNumber (07_vector.md R138). -/
def execVmaxF (k : KOps) (s : State) : Host.Outcome State Fault Refusal :=
  .next (fpLanes2 (wordOf (.vmaxF k)) k (fun _ a b => Val.pick false a b) s)

/-- `vfma`: a · b + old rd, rounded once (R138). -/
def execVfma (k : KOps) (s : State) : Host.Outcome State Fault Refusal :=
  .next (fpLanes3 (wordOf (.vfma k)) k (fun m a b c => Val.fma m a b c) s)

/-- `vfms`: a · b - old rd, rounded once (R138). -/
def execVfms (k : KOps) (s : State) : Host.Outcome State Fault Refusal :=
  .next (fpLanes3 (wordOf (.vfms k)) k (fun m a b c => Val.fma m a b c.negate) s)

/-- `vabs` of floating-point lanes clears each sign bit, keeps NaN payloads and raises no flag (R138). -/
def execVabsF (k : KOps) (s : State) : Host.Outcome State Fault Refusal :=
  .next (fpLanesRaw (wordOf (.vabsF k)) k (fun f a => (a % f.signBit, 0)) s)

/-- `vrcp`: 1 / a, correctly rounded (R139). -/
def execVrcp (k : KOps) (s : State) : Host.Outcome State Fault Refusal :=
  .next (fpLanes1 (wordOf (.vrcp k)) k Val.rcp s)

/-- `vrsq`: 1 / sqrt a, correctly rounded (R139). -/
def execVrsq (k : KOps) (s : State) : Host.Outcome State Fault Refusal :=
  .next (fpLanes1 (wordOf (.vrsq k)) k Val.rsq s)

/-- `vexp2`: 2^a, correctly rounded (R139). -/
def execVexp2 (k : KOps) (s : State) : Host.Outcome State Fault Refusal :=
  .next (fpLanes1 (wordOf (.vexp2 k)) k Val.exp2 s)

/-- `vlog2`: log2 a, correctly rounded (R139). -/
def execVlog2 (k : KOps) (s : State) : Host.Outcome State Fault Refusal :=
  .next (fpLanes1 (wordOf (.vlog2 k)) k Val.log2 s)

/-- `vadd` of integer lanes: a + b mod 2^e (R140). -/
def execVaddI (k : KOps) (s : State) : Host.Outcome State Fault Refusal :=
  .next (intLanes2 (wordOf (.vaddI k)) k (fun _ a b => a + b) s)

/-- `vsub` of integer lanes: a - b mod 2^e (R140). -/
def execVsubI (k : KOps) (s : State) : Host.Outcome State Fault Refusal :=
  .next (intLanes2 (wordOf (.vsubI k)) k (fun e a b => a + 2 ^ e - b) s)

/-- `vmul` of integer lanes: the low e bits of a · b (R140). -/
def execVmulI (k : KOps) (s : State) : Host.Outcome State Fault Refusal :=
  .next (intLanes2 (wordOf (.vmulI k)) k (fun _ a b => a * b) s)

/-- `vmin` of integer lanes: the smaller, compared signed (R140). -/
def execVminI (k : KOps) (s : State) : Host.Outcome State Fault Refusal :=
  .next (intLanes2 (wordOf (.vminI k)) k (fun e a b => if sext a e ≤ sext b e then a else b) s)

/-- `vmax` of integer lanes: the larger, compared signed (R140). -/
def execVmaxI (k : KOps) (s : State) : Host.Outcome State Fault Refusal :=
  .next (intLanes2 (wordOf (.vmaxI k)) k (fun e a b => if sext a e ≤ sext b e then b else a) s)

/-- `vmin` of integer lanes: the smaller, compared natural (R140). -/
def execVminN (k : KOps) (s : State) : Host.Outcome State Fault Refusal :=
  .next (intLanes2 (wordOf (.vminN k)) k (fun _ a b => if a ≤ b then a else b) s)

/-- `vmax` of integer lanes: the larger, compared natural (R140). -/
def execVmaxN (k : KOps) (s : State) : Host.Outcome State Fault Refusal :=
  .next (intLanes2 (wordOf (.vmaxN k)) k (fun _ a b => if a ≤ b then b else a) s)

/-- `vshl` of integer lanes: a << (b mod e) (R140). -/
def execVshl (k : KOps) (s : State) : Host.Outcome State Fault Refusal :=
  .next (intLanes2 (wordOf (.vshl k)) k (fun e a b => a * 2 ^ (b % e)) s)

/-- `vshr` of integer lanes: a >> (b mod e), zeros in (R140). -/
def execVshr (k : KOps) (s : State) : Host.Outcome State Fault Refusal :=
  .next (intLanes2 (wordOf (.vshr k)) k (fun e a b => a / 2 ^ (b % e)) s)

/-- `vsra` of integer lanes: a >> (b mod e), copies of the sign in (R140). -/
def execVsra (k : KOps) (s : State) : Host.Outcome State Fault Refusal :=
  .next (intLanes2 (wordOf (.vsra k)) k (fun e a b => lowBits (sext a e / 2 ^ (b % e)) e) s)

/-- `vabs` of integer lanes: |a| mod 2^e (R140). -/
def execVabsI (k : KOps) (s : State) : Host.Outcome State Fault Refusal :=
  .next (intLanes1 (wordOf (.vabsI k)) k (fun e a => lowBits (sext a e).natAbs e) s)

/-- `vcmp` of floating-point lanes: all ones where a = b (R141). -/
def execVcmpEqF (k : KOps) (s : State) : Host.Outcome State Fault Refusal :=
  .next (fpCompare (wordOf (.vcmpEqF k)) k (fun r => r == .eq) s)

/-- `vcmp` of floating-point lanes: all ones where a ≠ b; true for a NaN (R141). -/
def execVcmpNeF (k : KOps) (s : State) : Host.Outcome State Fault Refusal :=
  .next (fpCompare (wordOf (.vcmpNeF k)) k (fun r => r != .eq) s)

/-- `vcmp` of floating-point lanes: all ones where a < b (R141). -/
def execVcmpLtF (k : KOps) (s : State) : Host.Outcome State Fault Refusal :=
  .next (fpCompare (wordOf (.vcmpLtF k)) k (fun r => r == .lt) s)

/-- `vcmp` of floating-point lanes: all ones where a ≤ b (R141). -/
def execVcmpLeF (k : KOps) (s : State) : Host.Outcome State Fault Refusal :=
  .next (fpCompare (wordOf (.vcmpLeF k)) k (fun r => r == .lt || r == .eq) s)

/-- `vcmp` of integer lanes: all ones where a = b (R141). -/
def execVcmpEqI (k : KOps) (s : State) : Host.Outcome State Fault Refusal :=
  .next (intLanes2 (wordOf (.vcmpEqI k)) k (fun e a b => if a = b then 2 ^ e - 1 else 0) s)

/-- `vcmp` of integer lanes: all ones where a ≠ b (R141). -/
def execVcmpNeI (k : KOps) (s : State) : Host.Outcome State Fault Refusal :=
  .next (intLanes2 (wordOf (.vcmpNeI k)) k (fun e a b => if a ≠ b then 2 ^ e - 1 else 0) s)

/-- `vcmp` of integer lanes: all ones where a < b signed (R141). -/
def execVcmpLtI (k : KOps) (s : State) : Host.Outcome State Fault Refusal :=
  .next (intLanes2 (wordOf (.vcmpLtI k)) k (fun e a b => if sext a e < sext b e then 2 ^ e - 1 else 0) s)

/-- `vcmp` of integer lanes: all ones where a ≤ b signed (R141). -/
def execVcmpLeI (k : KOps) (s : State) : Host.Outcome State Fault Refusal :=
  .next (intLanes2 (wordOf (.vcmpLeI k)) k (fun e a b => if sext a e ≤ sext b e then 2 ^ e - 1 else 0) s)

/-- `vcmp` of integer lanes: all ones where a < b natural (R141). -/
def execVcmpLtN (k : KOps) (s : State) : Host.Outcome State Fault Refusal :=
  .next (intLanes2 (wordOf (.vcmpLtN k)) k (fun e a b => if a < b then 2 ^ e - 1 else 0) s)

/-- `vcmp` of integer lanes: all ones where a ≤ b natural (R141). -/
def execVcmpLeN (k : KOps) (s : State) : Host.Outcome State Fault Refusal :=
  .next (intLanes2 (wordOf (.vcmpLeN k)) k (fun e a b => if a ≤ b then 2 ^ e - 1 else 0) s)

/-- `vand` over the whole group (R142). -/
def execVand (k : KOps) (s : State) : Host.Outcome State Fault Refusal :=
  .next (groupLogic (wordOf (.vand k)) k (fun a b => a &&& b) s)

/-- `vor` over the whole group (R142). -/
def execVor (k : KOps) (s : State) : Host.Outcome State Fault Refusal :=
  .next (groupLogic (wordOf (.vor k)) k (fun a b => a ||| b) s)

/-- `vxor` over the whole group (R142). -/
def execVxor (k : KOps) (s : State) : Host.Outcome State Fault Refusal :=
  .next (groupLogic (wordOf (.vxor k)) k (fun a b => a ^^^ b) s)

/-- Selects the bits of a where the mask is set and those of b elsewhere. -/
def selectBits (mask a b : VWord) : VWord := (a &&& mask) ||| (b &&& ~~~mask)

/-- Selects register by register. -/
def zipSelect : List VWord → List VWord → List VWord → List VWord
  | m :: r, a :: s, b :: t => selectBits m a b :: zipSelect r s t
  | _, _, _ => []

/-- `vsel`: the old destination selects bit by bit (R142). -/
def execVsel (k : KOps) (s : State) : Host.Outcome State Fault Refusal :=
  let n := groupSize k.w
  .next (s.run { word := wordOf (.vsel k), groups := [(k.rd.toNat, n), (k.rs1.toNat, n), (k.rs2.toNat, n)],
                 srcs := [v1 k n, v2 k n, vd k n], dsts := [toV k n] }
    (.ok (s.finishV k.rd.toNat (zipSelect (s.sl.vs k.rd.toNat n) (s.sl.vs k.rs1.toNat n) (s.sl.vs k.rs2.toNat n)) 0)))

/-! ### Lane moves (R143) -/

/-- `vperm`: lane j is lane (index j) of the source, or 0 where the index is out of range. -/
def execVperm (k : KOps) (s : State) : Host.Outcome State Fault Refusal :=
  .next (s.run { word := wordOf (.vperm k), srcs := [v1 k, v2 k], dsts := [toV k] }
    (let e := intWidth k.w
     let a := (s.sl.vr k.rs1.toNat).toNat
     .ok (s.finishV k.rd.toNat
       [ofLanes e ((lanes e (s.sl.vr k.rs2.toNat)).map fun i => if i < 512 / e then bitsOf a (e * i) e else 0)] 0)))

/-- `vbcast`: every lane takes the low e bits of the scalar. -/
def execVbcast (k : KOps) (s : State) : Host.Outcome State Fault Refusal :=
  .next (s.run { word := wordOf (.vbcast k), srcs := [x1 k], dsts := [toV k] }
    (let e := intWidth k.w
     .ok (s.finishV k.rd.toNat [ofLanes e (List.replicate (512 / e) (s.sl.xr k.rs1.toNat).toNat)] 0)))

/-- `vext`: one lane, zero-extended; an index at or above n raises 0x21. -/
def execVext (k : KOps) (s : State) : Host.Outcome State Fault Refusal :=
  .next (s.run { word := wordOf (.vext k), srcs := [v1 k, x2 k], dsts := [toX k] }
    (let e := intWidth k.w
     let i := s.sl.xr k.rs2.toNat
     (require (decide (i.toNat < 512 / e)) 0x21 i).bind fun _ =>
     .ok (s.finishX k.rd.toNat (word (bitsOf (s.sl.vr k.rs1.toNat).toNat (e * i.toNat) e)))))

/-- `vins`: the old destination with one lane replaced; an index at or above n raises 0x21. -/
def execVins (k : KOps) (s : State) : Host.Outcome State Fault Refusal :=
  .next (s.run { word := wordOf (.vins k), srcs := [x1 k, x2 k, vd k], dsts := [toV k] }
    (let e := intWidth k.w
     let i := s.sl.xr k.rs2.toNat
     (require (decide (i.toNat < 512 / e)) 0x21 i).bind fun _ =>
     .ok (s.finishV k.rd.toNat
       [BitVec.ofNat 512 (withBits (s.sl.vr k.rd.toNat).toNat (e * i.toNat) e (s.sl.xr k.rs1.toNat).toNat)] 0)))

/-- `viota`: lane j is the scalar plus j modulo 2^e. -/
def execViota (k : KOps) (s : State) : Host.Outcome State Fault Refusal :=
  .next (s.run { word := wordOf (.viota k), srcs := [x1 k], dsts := [toV k] }
    (let e := intWidth k.w
     .ok (s.finishV k.rd.toNat [ofLanes e ((List.range (512 / e)).map fun j => (s.sl.xr k.rs1.toNat).toNat + j)] 0)))

/-! ### Reductions (R144) -/

/-- One level of the tree: neighbours combined in pairs, with the flags. -/
def pairUp (op : Nat → Nat → Nat × Flags) : List Nat → List (Nat × Flags)
  | a :: b :: t => op a b :: pairUp op t
  | _ => []

/-- The tree over a row whose length is 2^levels, with the flags of every combine. -/
def treeReduce (op : Nat → Nat → Nat × Flags) : Nat → List Nat → Flags → Nat × Flags
  | 0, l, f => (l.headD 0, f)
  | n + 1, l, f =>
    let r := pairUp op l
    treeReduce op n (r.map fun x => x.1) (f ||| joinFlags r)

/-- The combine of a floating-point `vred`, by its code (R72), rounded to nearest even. -/
def redCombineF (f : Fmt) (code a b : Nat) : Nat × Flags :=
  let x := f.decode a
  let y := f.decode b
  let r := if code = 0 then Val.add .rne x y else Val.pick (code == 1) x y
  let q := f.round .rne false r.1
  (q.1, r.2 ||| q.2)

/-- `vred` of floating-point lanes. -/
def execVredF (k : KOps) (s : State) : Host.Outcome State Fault Refusal :=
  .next (s.run { word := wordOf (.vredF k), srcs := [v1 k], dsts := [toX k] }
    (let f := laneFmt k.w
     let r := treeReduce (redCombineF f k.rs2.toNat) (Nat.log2 (512 / f.width)) (lanes f.width (s.sl.vr k.rs1.toNat)) 0
     .ok (s.finishXF k.rd.toNat (word r.1) r.2)))

/-- The combine of an integer `vred` on lanes widened to 64 bits, by its code (R72). -/
def redCombineI (code a b : Nat) : Nat × Flags :=
  (match code with
    | 0 => (a + b) % 2 ^ 64
    | 1 => if sext a 64 ≤ sext b 64 then a else b
    | 2 => if sext a 64 ≤ sext b 64 then b else a
    | 3 => least a b
    | _ => greatest a b, 0)

/-- `vred` of integer lanes: sums and signed results widen by sign, natural ones by zeros. -/
def execVredI (k : KOps) (s : State) : Host.Outcome State Fault Refusal :=
  .next (s.run { word := wordOf (.vredI k), srcs := [v1 k], dsts := [toX k] }
    (let e := intWidth k.w
     let code := k.rs2.toNat
     let wide := fun a => if code < 3 then lowBits (sext a e) 64 else a
     let r := treeReduce (redCombineI code) (Nat.log2 (512 / e)) ((lanes e (s.sl.vr k.rs1.toNat)).map wide) 0
     .ok (s.finishX k.rd.toNat (word r.1))))

/-! ### Top-k ranking (R145) -/

/-- The total order of R145 on values: a NaN below everything and equal to every NaN, and +0 above -0. -/
def rankAbove (a b : Val) : Bool :=
  if a.isNan then false
  else if b.isNan then true
  else match a.rel b with
    | .gt => true
    | .lt => false
    | _ => !a.neg && b.neg && a.isZero

/-- A candidate: its value, its index and its lane number. -/
abbrev Candidate := Val × Nat × Nat

/-- Candidate a ranks before b: by value, then the smaller index, then the smaller lane (R145). -/
def ranksBefore (a b : Candidate) : Bool :=
  if rankAbove a.1 b.1 then true
  else if rankAbove b.1 a.1 then false
  else if a.2.1 < b.2.1 then true
  else if b.2.1 < a.2.1 then false
  else decide (a.2.2 < b.2.2)

/-- A candidate placed into a ranked row. -/
def rankInsert (c : Candidate) : List Candidate → List Candidate
  | [] => [c]
  | d :: t => if ranksBefore c d then c :: d :: t else d :: rankInsert c t

/-- The ranked row of candidates. -/
def rank : List Candidate → List Candidate
  | [] => []
  | c :: t => rankInsert c (rank t)

/-- The candidates of a value row and an index row, from a lane number up. -/
def candidates (f : Fmt) : Nat → List Nat → List Nat → List Candidate
  | i, a :: s, b :: t => (f.decode a, b, i) :: candidates f (i + 1) s t
  | _, _, _ => []

/-- `vtopk`: lane j is the lane number of the candidate ranked j-th. -/
def execVtopk (k : KOps) (s : State) : Host.Outcome State Fault Refusal :=
  .next (s.run { word := wordOf (.vtopk k), srcs := [v1 k, v2 k], dsts := [toV k] }
    (let f := laneFmt k.w
     let c := candidates f 0 (lanes f.width (s.sl.vr k.rs1.toNat)) (lanes f.width (s.sl.vr k.rs2.toNat))
     .ok (s.finishV k.rd.toNat [ofLanes f.width ((rank c).map fun x => x.2.2)] 0)))

end Sys2Proof.Machine
end

