-- ==== Sys2Proof/Machine/Formats.lean ====
section
/-!
DEFINITION. The format prefix and the conversion and block instructions of 08_numbers.md: `fmt` (R163, R166), `vcvt` (R168),
the two forms of `vscl` (R169, R170), `vpack` (R171) and `vunpk` (R172).
-/
namespace Sys2Proof.Machine

/-- `fmt`: sets `kstat.PP` and writes the payload to `kpfx` (04_encoding.md R66). A second one while a prefix is pending
raises 0x02. -/
def execFmt (payload : BitVec 17) (s : State) : Host.Outcome State Fault Refusal :=
  .next (s.run { word := wordOf (.fmt payload) }
    (.ok (s.modCur fun sl => { sl.complete.setPP true with kpfx := payload })))

/-- The destination and source types of a `vcvt` code (R168). -/
def vcvtTypes (code : Nat) : NumType × NumType :=
  match code with
  | 0 => (.fp fp64, .fp fp32)
  | 1 => (.fp fp32, .fp fp64)
  | 2 => (.fp fp16, .fp fp32)
  | 3 => (.fp fp32, .fp fp16)
  | 4 => (.fp bf16, .fp fp32)
  | 5 => (.fp fp32, .fp bf16)
  | 6 => (.fp e4m3, .fp fp32)
  | 7 => (.fp fp32, .fp e4m3)
  | 8 => (.fp e5m2, .fp fp32)
  | 9 => (.fp fp32, .fp e5m2)
  | 10 => (.int 32 true, .fp fp32)
  | 11 => (.fp fp32, .int 32 true)
  | 12 => (.int 16 true, .fp fp32)
  | 13 => (.fp fp32, .int 16 true)
  | 14 => (.int 8 true, .fp fp32)
  | 15 => (.fp fp32, .int 8 true)
  | 16 => (.int 8 false, .fp fp32)
  | 17 => (.fp fp32, .int 8 false)
  | 18 => (.fp bf16, .fp fp16)
  | 19 => (.fp fp16, .fp bf16)
  | 20 => (.fp e4m3, .fp bf16)
  | 21 => (.fp bf16, .fp e4m3)
  | 22 => (.fp e5m2, .fp bf16)
  | _ => (.fp bf16, .fp e5m2)

/-- The lanes that a `vcvt` of a group converts, and the register groups of its destination and source (R168). -/
def vcvtShape (w : BitVec 2) (ed es : Nat) : Nat × Nat × Nat :=
  let l := 512 * groupSize w / greatest ed es
  (l, greatest 1 (l * ed / 512), greatest 1 (l * es / 512))

/-- `vcvt`: converts lanes; lanes above the last one converted are 0 (R168). -/
def execVcvt (k : KOps) (s : State) : Host.Outcome State Fault Refusal :=
  let t := vcvtTypes k.rs2.toNat
  let ed := t.1.width
  let es := t.2.width
  let sh := vcvtShape k.w ed es
  let w32 := wordOf (.vcvt k)
  .next (s.run { word := w32, groups := [(k.rd.toNat, sh.2.1), (k.rs1.toNat, sh.2.2)], format := true,
                 srcs := [v1 k sh.2.2], dsts := [toV k sh.2.1] }
    ((plainPayload w32 s).bind fun _ =>
      let p := s.sl.payload
      let r := (lanesFrom es (groupNum (s.sl.vs k.rs1.toNat sh.2.2)) 0 sh.1).map fun a =>
        t.1.encode (payMode p) (paySat p) (t.2.value a)
      .ok (s.finishV k.rd.toNat (groupOf sh.2.1 (packLanes ed (r.map fun x => x.1))) (joinFlags r))))

/-- The exponent of the largest value of an MX element format (R169). -/
def emaxOf (code : Nat) : Int :=
  match code with
  | 2 => 8
  | 3 => 15
  | 4 => 4
  | _ => 2

/-- The element format takes an E8M0 shared scale (R164). -/
def mxElem (code : Nat) : Bool := decide (2 ≤ code) && decide (code ≤ 6)

/-- The largest magnitude of a row of FP32 codes, as a code without its sign; their order is that of the magnitudes. -/
def largestMag : List Nat → Nat
  | [] => 0
  | a :: t => greatest (a % 2 ^ 31) (largestMag t)

/-- The shared scale of a row of FP32 lanes for an element format code (R169). -/
def sharedScale (l : List Nat) (code : Nat) : Nat :=
  let m := largestMag l
  if fp32.infCode ≤ m then 0xFF
  else
    match fp32.decode m with
    | .fin _ n d =>
      if n = 0 then 127
      else
        let x := floorLog2 n d - emaxOf code + 127
        if x < 0 then 0 else if 254 < x then 254 else x.toNat
    | _ => 0xFF

/-- The compute form of `vscl` (R169). It raises no flag. -/
def execVsclCompute (k : KOps) (s : State) : Host.Outcome State Fault Refusal :=
  let w32 := wordOf (.vsclCompute k)
  let n := groupSize k.w
  .next (s.run { word := w32, groups := [(k.rs1.toNat, n)], format := true, srcs := [v1 k n], dsts := [toX k] }
    (let p := s.sl.payload
     let ok := mxElem (payA p) && payB p == 0 && payAcc p == 0 && payScale p == 1 && payG p == 0 && n == 2
     (require ok 0x28 (formatAddr p w32)).bind fun _ =>
     .ok (s.finishX k.rd.toNat (word (sharedScale (lanesFrom 32 (groupNum (s.sl.vs k.rs1.toNat n)) 0 32) (payA p))))))

/-- The apply form of `vscl` (R170): each FP32 lane times 2^(X - 127), rounded once. -/
def execVsclApply (k : KOps) (s : State) : Host.Outcome State Fault Refusal :=
  let w32 := wordOf (.vsclApply k)
  let n := groupSize k.w
  .next (s.run { word := w32, groups := [(k.rd.toNat, n), (k.rs1.toNat, n)], format := true,
                 srcs := [v1 k n, x2 k], dsts := [toV k n] }
    ((plainPayload w32 s).bind fun _ =>
      let p := s.sl.payload
      let xs := s.sl.xr k.rs2.toNat
      (require (fld xs 8 56 == 0) 0x29 xs).bind fun _ =>
      let r := (lanesFrom 32 (groupNum (s.sl.vs k.rs1.toNat n)) 0 (16 * n)).map fun a =>
        (NumType.fp fp32).encode (payMode p) (paySat p)
          (if xs == 0xFF then .nan true else (fp32.decode a).scale (xs.toNat - 127))
      .ok (s.finishV k.rd.toNat (groupOf n (packLanes 32 (r.map fun x => x.1))) (joinFlags r))))

/-- The payload and shape that `vpack` and `vunpk` accept (R167, R173): n is the group size, rs2 the parameter register. -/
def blockPayload (p : BitVec 17) (n rs2 : Nat) : Bool :=
  let a := payA p
  let e := elemWidth a
  let c := 16 * n
  payB p == 0 && payAcc p == 0 && decide (c * e ≤ 512) && (rs2 != 0) == (payScale p == 2)
    && (if payScale p = 1 then mxElem a && payG p == 0 && c == 32
        else if payScale p = 0 then (mxElem a || a == 8 || a == 9 || a == 12 || a == 13) && payG p == 0
        else (a == 10 || a == 14) && c == least (32 * 2 ^ payG p) (512 / e))

/-- A group parameter word is admitted for an element width (R157). -/
def paramOk (xp : Word) (e : Nat) : Bool := fld xp 24 40 == 0 && (e != 4 || decide (fld xp 16 8 ≤ 15))

/-- The FP16 scale and the zero point of a group parameter word (R157). -/
def paramScale (xp : Word) : Val := fp16.decode (fld xp 0 16)
def paramZero (xp : Word) : Nat := fld xp 16 8

/-- A lane quantised into an asymmetric code (R171, the `f16` case): an infinite lane is clamped by the sign of x / s, as the pseudocode has
it. DESIGN CHOICE, log 101. -/
def quantise (e : Nat) (mode : Rounding) (sv : Val) (z : Nat) (x : Val) : Nat × Flags :=
  let top := 2 ^ e - 1
  if x.isNan then (z, flagNV)
  else
    match (x.div sv).1 with
    | .inf neg => (if neg then 0 else top, flagNV)
    | .fin neg n d =>
      let r := roundDiv mode neg n d
      let y : Int := (if neg then -(r.1 : Int) else r.1) + z
      if y < 0 then (0, flagNV) else if (top : Int) < y then (top, flagNV) else (y.toNat, flagIf r.2 flagNX)
    | .nan _ => (z, flagNV)

/-- `vpack` (R171): packs the FP32 lanes of a group into elements of the format in force. -/
def execVpack (k : KOps) (s : State) : Host.Outcome State Fault Refusal :=
  let w32 := wordOf (.vpack k)
  let n := groupSize k.w
  .next (s.run { word := w32, groups := [(k.rs1.toNat, n)], format := true, srcs := [v1 k n, x2 k], dsts := [toV k] }
    (let p := s.sl.payload
     let xp := s.sl.xr k.rs2.toNat
     let e := elemWidth (payA p)
     let sc := payScale p
     let sv := paramScale xp
     (require (blockPayload p n k.rs2.toNat) 0x28 (formatAddr p w32)).bind fun _ =>
     (require (sc != 2 || (paramOk xp e && !sv.isNan && !sv.isZero && sv != .inf false && sv != .inf true)) 0x29 xp).bind fun _ =>
     let row := lanesFrom 32 (groupNum (s.sl.vs k.rs1.toNat n)) 0 (16 * n)
     let x := if sc = 1 then sharedScale row (payA p) else 0
     let r := row.map fun a =>
       if sc = 2 then quantise e (payMode p) sv (paramZero xp) (fp32.decode a)
       else if sc = 1 then
         (if x = 0xFF then (0, 0) else (elemType (payA p)).encode (payMode p) (paySat p) ((fp32.decode a).scale (127 - (x : Int))))
       else (elemType (payA p)).encode (payMode p) (paySat p) (fp32.decode a)
     .ok (s.finishV k.rd.toNat [BitVec.ofNat 512 (packLanes e (r.map fun y => y.1) + x * 2 ^ 504)]
       (joinFlags r ||| flagIf (x == 0xFF) flagNV))))

/-- The value of an asymmetric code (R157, R172). A scale times an exact zero has the sign of the scale. DEDUCED, log 12. -/
def dequantise (sv : Val) (z q : Nat) : Val :=
  let d : Int := (q : Int) - z
  if sv.isNan then .nan true
  else
    let r := sv.mul (.ofInt d)
    if r.1.isNan then .nan true else r.1

/-- `vunpk` (R172): unpacks elements of the format in force into FP32 lanes. -/
def execVunpk (k : KOps) (s : State) : Host.Outcome State Fault Refusal :=
  let w32 := wordOf (.vunpk k)
  let n := groupSize k.w
  .next (s.run { word := w32, groups := [(k.rd.toNat, n)], format := true, srcs := [v1 k, x2 k], dsts := [toV k n] }
    (let p := s.sl.payload
     let xp := s.sl.xr k.rs2.toNat
     let e := elemWidth (payA p)
     let sc := payScale p
     (require (blockPayload p n k.rs2.toNat) 0x28 (formatAddr p w32)).bind fun _ =>
     (require (sc != 2 || paramOk xp e) 0x29 xp).bind fun _ =>
     let src := (s.sl.vr k.rs1.toNat).toNat
     let x := bitsOf src 504 8
     let r := (lanesFrom e src 0 (16 * n)).map fun q =>
       (NumType.fp fp32).encode (payMode p) (paySat p)
         (if sc = 2 then dequantise (paramScale xp) (paramZero xp) q
          else if sc = 1 then (if x = 0xFF then .nan true else ((elemType (payA p)).value q).scale ((x : Int) - 127))
          else (elemType (payA p)).value q)
     .ok (s.finishV k.rd.toNat (groupOf n (packLanes 32 (r.map fun y => y.1))) (joinFlags r))))

end Sys2Proof.Machine
end

