-- ==== Sys2Proof/Machine/Messages.lean ====
section
/-!
DEFINITION. The instructions and events of 06_messages.md: sending (R124 to R126), channels (R127, R128), suspension, spawn,
join and exit (R129 to R132), and what the arrival of each kind of message does (R102, R104).
-/
namespace Sys2Proof.Machine

/-! ### Reproducible windows (R120) -/

/-- A message of a running reproducible launch, sent in its open window, is parked at its destination. -/
def State.parks (s : State) (m : Msg) : Bool :=
  let l := s.launch m.launch
  l.repro && m.window == l.window && l.state == 2 && !l.killing

/-- Parks a message until its launch's window closes. -/
def State.park (s : State) (m : Msg) : State := s.modLaunch m.launch fun l => { l with parked := l.parked ++ [cameAt m s.stamp] }

/-- A message that parks is parked; any other takes effect. -/
def State.orPark (s : State) (m : Msg) (f : State → State) : State := if s.parks m then s.park m else f s

/-! ### Destinations (R125, 24_system.md R428) -/

/-- An entry of the hub's access table admits messages of a master to a context of a function. -/
def admitsMsg (e : Word) (chip : BitVec 20) (vf target : Nat) : Bool :=
  bit e 63 && bit e 60 && (bit e 59 || fld e 0 20 == chip.toNat) && (bit e 58 || fld e 44 7 == vf) && fld e 51 7 == target

/-- A context may receive the messages of a master. -/
def State.mayReceive (s : State) (core c : Nat) (chip : BitVec 20) (vf : Nat) : Bool :=
  let x := s.ctx core c
  x.assigned && ((chip == s.hub.chipId && x.vf == vf) || s.hub.access.any fun e => admitsMsg e.2 chip vf x.vf)

/-- The context of a core that receives a handler message, if one may (R125): the one it names, else that of the sending
function, else the lowest that the access table admits. -/
def State.receiver (s : State) (core : Nat) (chip : BitVec 20) (vf : Nat) (named : Option Nat) : Option Nat :=
  let core := s.served core
  if (s.partOf core).isNone then none
  else match named with
    | some c => if s.mayReceive core c chip vf then some c else none
    | none =>
      match (if chip = s.hub.chipId then s.ctxOfVf core vf else none) with
      | some c => some c
      | none => [0, 1, 2, 3].find? fun c => s.mayReceive core c chip vf

/-! ### Descriptors (R124) -/

def descChan (d : Word) : Nat := fld d 32 8
def descUnits (d : Word) : Nat := fld d 40 3
def descLogical (d : Word) : Bool := bit d 43
def descSelf (d : Word) : Bool := bit d 44
def descRkind (d : Word) : Nat := fld d 45 2
def descRchan (d : Word) : Nat := fld d 47 8
def descClass (d : Word) : Nat := fld d 55 3
def descBuf (d : Word) : Bool := bit d 58
def descVreply (d : Word) : Bool := bit d 59
def descNamed (d : Word) : Option Nat := if bit d 62 then some (fld d 60 2) else none

/-- A descriptor keeps every must of R124. -/
def descOk (d : Word) (w : BitVec 2) (wantsReply : Bool) : Bool :=
  !bit d 63 && (wantsReply || !descVreply d) && descRkind d != 2 && (!wantsReply || descRkind d == 0)
    && (if descBuf d then decide (descUnits d ≤ 6) && w == 0 else descUnits d == 0)

/-- The route of a descriptor: the chip, the core and, on this chip, the receiving context. -/
def State.routeOf (s : State) (d : Word) : Option (BitVec 20 × Nat × Nat) :=
  let own := s.hub.chipId
  let vf := s.curCtx.vf
  if descLogical d then
    match s.partOf (s.served s.curCore) with
    | none => none
    | some n =>
      if fld d 0 12 < s.logicalCount n then
        let core := s.coreAt n (fld d 0 12)
        (s.receiver core own vf (descNamed d)).map fun c => (own, core, c)
      else none
  else if descSelf d || fld d 12 20 == own.toNat then
    (s.receiver (fld d 0 12) own vf (descNamed d)).map fun c => (own, fld d 0 12, c)
  else some (BitVec.ofNat 20 (fld d 12 20), fld d 0 12, 0)

/-- A payload padded to whole units. -/
def padUnit (ws : List Word) : List Word := if ws.length % 2 = 1 then ws ++ [0] else ws

/-- The payload of a send: the group at `rs2`, nothing for a single `x0`, or bytes of the near window (R124, R125). -/
def State.payloadOf (s : State) (k : KOps) (d : Word) : Res (List Word) :=
  if descBuf d then
    let a := s.sl.xr k.rs2.toNat
    let n := descUnits d * 16
    (require (fld a 48 16 == 0 && isNear a.toNat && a.toNat % 16 == 0) 0x47 a).bind fun _ =>
    if n = 0 then .ok []
    else
      (s.access s.cur .read a n).bind fun t =>
      match t with
      | .near t =>
        (require (s.nearError t n).isNone 0x5B a).bind fun _ => .ok (wordsOf (2 * descUnits d) (s.nearBytes s.cur t n))
      | .far _ _ _ _ => .trap 0x47 a
  else if k.rs2 = 0 && k.w = 0 then .ok []
  else .ok (padUnit (s.sl.xs k.rs2.toNat (groupSize k.w)))

/-- The near words that a send with BUF has read. -/
def State.bufRead (s : State) (k : KOps) (d : Word) : State :=
  if descBuf d && descUnits d != 0 then s.correctedAt (s.sl.xr k.rs2.toNat) (16 * descUnits d) else s

/-! ### The outbound queue (R104) -/

/-- The outbound queue of a core has room. -/
def State.outRoom (s : State) (core : Nat) : Bool := decide ((s.core core).outq.length < Config.outLimit)

/-- The cycles until the near loads of a slot have filled. -/
def nearLeft : List NearFill → Nat
  | [] => 0
  | f :: t => greatest f.left (nearLeft t)

/-- A message joins the outbound queue of the issuing core, with what its release waits for: nothing, or the wait set of a
scope with the near stores and near loads. -/
def State.queueOut (s : State) (m : Msg) (scope : Option Nat) : State :=
  let sl := s.sl
  let seqs := match scope with | some sc => (s.waitSet s.cur sc).map fun f => f.seq | none => []
  let o : Out := { msg := m, slot := s.cur, gen := sl.gen, seqs := seqs, fwd := if scope.isSome then sl.fwd.length else 0,
                   near := if scope.isSome then nearLeft sl.nearFills else 0 }
  (s.modCore s.curCore fun c => { c with outq := c.outq ++ [o] }).post (.messageDeparture s.curCore)

/-- The messages of a queue that may leave: those whose waits are over, with no earlier message of their clause, which its digest
names, ahead. -/
def departures (ahead : List Word) : List Out → List Msg × List Out
  | [] => ([], [])
  | o :: t =>
    if o.seqs.isEmpty && o.fwd == 0 && o.near == 0 && !ahead.contains o.msg.key then
      let r := departures ahead t
      (o.msg :: r.1, r.2)
    else
      let r := departures (o.msg.key :: ahead) t
      (r.1, o :: r.2)

/-- The messages of a core that may leave, leave; a suspension of a clause whose messages have left is looked at again. -/
def State.depart (s : State) (core : Nat) : State :=
  let r := departures [] (s.core core).outq
  let s := s.modCore core fun c => { c with outq := r.2 }
  let s := r.1.foldl (fun s m => s.route { m with stamp := s.stamp }) s
  if r.1.isEmpty then s
  else [core * 4, core * 4 + 1, core * 4 + 2, core * 4 + 3].foldl (fun s k =>
    match (s.slot k).phase with
    | .suspending _ => s.post (.suspensionCommit k)
    | _ => s) s

/-- MESSAGE_DEPARTURE. -/
def execMessageDeparture (core : Nat) (s : State) : Host.Outcome State Fault Refusal := .next (s.depart core)

/-- A free slot that could bind no clause, and can since a count of replies owed has returned to 0 (R103), is given to its core. -/
def State.wakeFree (s : State) (k : Nat) (could : Bool) : State := if !could && (s.slot k).canBind then s.wake (coreOf k) else s

/-- A far request of a slot has its answer: it is out no longer, and what waited for it is looked at again. -/
def State.answered (s : State) (k gen : Nat) (seq : BitVec 32) : State :=
  let core := coreOf k
  let old := (s.slot k).canBind
  let s := s.modSlot k fun sl =>
    { sl with far := sl.far.filter fun f => !(f.gen == gen && f.seq == seq), owed := sl.owed.set gen (sl.owed.get gen 0 - 1) }
  let s := s.modCore core fun c =>
    { c with outq := c.outq.map fun o => if o.slot = k && o.gen = gen then { o with seqs := o.seqs.filter fun q => q != seq } else o }
  let s := if (s.core core).outq.isEmpty then s else s.post (.messageDeparture core)
  (s.nudge k).wakeFree k old

/-! ### Sending (R125, R126) -/

/-- The causes a send checks before anything leaves: 0x44, 0x41, 0x40, then 0x47 (R134). -/
def State.sendChecks (s : State) (k : KOps) (d : Word) (wantsReply : Bool) : Res ((BitVec 20 × Nat × Nat) × List Word) :=
  (require (descOk d k.w wantsReply) 0x44 d).bind fun _ =>
  (require (decide (descChan d < 241)) 0x41 (word (descChan d))).bind fun _ =>
  match s.routeOf d with
  | none => .trap 0x40 d
  | some r => (s.payloadOf k d).bind fun p => .ok (r, p)

/-- The handler message of a descriptor. -/
def State.handlerMsg (s : State) (d : Word) (r : BitVec 20 × Nat × Nat) (tag : BitVec 32) (p : List Word) : Msg :=
  { s.clauseMsg s.cur with
    dstChip := r.1, dstCore := BitVec.ofNat 12 r.2.1, chan := BitVec.ofNat 8 (descChan d), kind := 0x00,
    units := BitVec.ofNat 3 (p.length / 2), nclass := BitVec.ofNat 3 (descClass d), tag := tag, payload := p, unit := s.curCore,
    ctx := BitVec.ofNat 2 (if r.1 = s.hub.chipId then r.2.2 else s.sl.clause.ctx),
    rstat := if bit d 62 && r.1 != s.hub.chipId then BitVec.ofNat 4 (8 + fld d 60 2) else 0 }

/-- The scope of `send` and `reply`: package, or cluster with `.cl`. -/
def sendScope (k : KOps) : Nat := if k.rd = 1 then 0 else 2

/-- `send` -/
def execSend (k : KOps) (s : State) : Host.Outcome State Fault Refusal :=
  let n := groupSize k.w
  let d := s.sl.xr k.rs1.toNat
  .next (s.run { word := wordOf (.send k), groups := [(k.rs2.toNat, n)], srcs := [x1 k, x2 k n] }
    ((s.sendChecks k d false).bind fun (r, p) =>
     s.ordered true fun s =>
     (stallUnless (s.outRoom s.curCore)).bind fun _ =>
     s.unlessFault (if descRkind d = 3 then s.indexFault s.cur else none) <|
     let s := if descRkind d = 3 then s.giveIndex s.cur else s
     let cl := s.sl.clause
     let tag := if descRkind d = 1 then chanTag (descRchan d) s.curCore
                else if descRkind d = 3 then recTag cl.idx cl.recCore else 0
     let s := if descRkind d = 3 then s.modRecord cl.recCore cl.ctx cl.idx fun x => { x with owed := x.owed + 1, owedBy := if r.1 = s.hub.chipId then x.owedBy else x.owedBy ++ [r.1] } else s
     let m := s.handlerMsg d r tag p
     let s := (s.queueOut m (some (sendScope k))).bufRead k d
     .ok (s.modCur fun sl => Slot.complete { sl with kseq := sl.kseq + 1 })))

/-- `sendr`: the reply fills the `rd` group. -/
def execSendr (k : KOps) (s : State) : Host.Outcome State Fault Refusal :=
  let n := groupSize k.w
  let d := s.sl.xr k.rs1.toNat
  let vec := descVreply d
  .next (s.run { word := wordOf (.sendr k), groups := [(k.rs2.toNat, n), (k.rd.toNat, n)], srcs := [x1 k, x2 k n],
                 dsts := [⟨vec, k.rd.toNat, n, 0⟩] }
    ((s.sendChecks k d true).bind fun (r, p) =>
     s.ordered true fun s =>
     (stallUnless (s.outRoom s.curCore)).bind fun _ =>
     let sl := s.sl
     let m := s.handlerMsg d r (regTag sl.gen vec k.rd.toNat (s.cur % 4) s.curCore) p
     let s := (s.queueOut m (some 2)).bufRead k d
     .ok (s.modCur fun sl =>
       Slot.complete { sl.emptyRegs vec k.rd.toNat n with
         kseq := sl.kseq + 1, owed := sl.owed.set sl.gen (sl.owed.get sl.gen 0 + 1),
         asks := sl.asks ++ [{ gen := sl.gen, ctx := sl.clause.ctx, vec := vec, reg := k.rd.toNat, count := n, desc := d }] })))

/-- The context of a core that a `reply` through a channel tag reaches (R125, R126): that of the function which the reply word names,
where the replier's messages are admitted to it. DEDUCED, log 105. -/
def State.replyContext (s : State) (core : Nat) (vf : Nat) (d : Word) : Option Nat :=
  match s.ctxOfVf (s.served core) (fld d 52 7) with
  | some c => s.receiver core s.hub.chipId vf (some c)
  | none => none

/-- The target of a `reply` on this chip: a channel that it may not reach raises 0x40 before the word itself is checked (R134,
24_system.md R428). -/
def State.replyTarget (s : State) (d : Word) : Res Nat :=
  let tag : BitVec 32 := d.setWidth 32
  let vf := s.curCtx.vf
  if BitVec.ofNat 20 (fld d 32 20) ≠ s.hub.chipId || tagKind tag = 0 then .ok 0
  else if tagKind tag = 1 then
    match s.replyContext (tagCore tag) vf d with
    | some c => .ok c
    | none => .trap 0x40 d
  else .ok ((s.ctxOfVf (s.served (tagCore tag)) (fld d 52 7)).getD 0)

/-- `reply`: the target is the reply word in `rs1` (R126). -/
def execReply (k : KOps) (s : State) : Host.Outcome State Fault Refusal :=
  let n := groupSize k.w
  let d := s.sl.xr k.rs1.toNat
  let tag : BitVec 32 := d.setWidth 32
  let chip := BitVec.ofNat 20 (fld d 32 20)
  .next (s.run { word := wordOf (.reply k), groups := [(k.rs2.toNat, n)], srcs := [x1 k, x2 k n] }
    ((s.replyTarget d).bind fun ctx =>
     (require (tagKind tag != 0 && fld d 59 5 == 0) 0x43 d).bind fun _ =>
     (s.payloadOf k 0).bind fun p =>
     s.ordered true fun s =>
     (stallUnless (s.outRoom s.curCore)).bind fun _ =>
     let m := { s.clauseMsg s.cur with
       dstChip := chip, dstCore := tag.setWidth 12, chan := if tagKind tag = 1 then BitVec.ofNat 8 (tagChan tag) else 0,
       kind := if tagKind tag = 1 then 0x00 else if tagKind tag = 2 then 0x01 else 0x02, units := BitVec.ofNat 3 (p.length / 2),
       rpay := tagKind tag == 3, tag := if tagKind tag = 1 then 0 else tag, payload := p, unit := s.curCore,
       ctx := if chip = s.hub.chipId then BitVec.ofNat 2 ctx else BitVec.ofNat 2 s.sl.clause.ctx, forVf := some (BitVec.ofNat 7 (fld d 52 7)) }
     let s := s.queueOut m (some (sendScope k))
     .ok (s.modCur fun sl => Slot.complete { sl with kseq := sl.kseq + 1 })))

/-! ### Channels (R127, R128) -/

/-- The channel an instruction names. -/
def State.chanOf (s : State) (k : KOps) : Nat := fld (s.sl.xr k.rs1.toNat) 0 8

/-- Changes the bits of a channel of the issuing context. -/
def State.setChan (s : State) (k : KOps) (f : Chan → Chan) : State :=
  let i := s.chanOf k
  (s.modCtx s.curCore s.sl.clause.ctx fun x => { x with chans := x.chans.set i (f (x.chans.get i {})) }).wake s.curCore

/-- The channels on which R105 forbids `hen`, `hdis` and `hclr`. -/
def chanReserved (i : Nat) : Bool := decide (242 ≤ i) && decide (i ≤ 252)

/-- `hen` -/
def execHen (k : KOps) (s : State) : Host.Outcome State Fault Refusal :=
  .next (s.run { word := wordOf (.hen k), srcs := [x1 k] }
    ((require (!chanReserved (s.chanOf k)) 0x41 (word (s.chanOf k))).bind fun _ =>
     .ok (s.setChan k fun c => { c with enable := true }).complete))

/-- `hdis` -/
def execHdis (k : KOps) (s : State) : Host.Outcome State Fault Refusal :=
  .next (s.run { word := wordOf (.hdis k), srcs := [x1 k] }
    ((require (!chanReserved (s.chanOf k)) 0x41 (word (s.chanOf k))).bind fun _ =>
     .ok (s.setChan k fun c => { c with enable := false }).complete))

/-- `hpend` -/
def execHpend (k : KOps) (s : State) : Host.Outcome State Fault Refusal :=
  .next (s.run { word := wordOf (.hpend k), srcs := [x1 k] }
    ((require (decide (s.chanOf k < 240)) 0x41 (word (s.chanOf k))).bind fun _ =>
     .ok (s.setChan k fun c => { c with pending := true }).complete))

/-- `hclr` -/
def execHclr (k : KOps) (s : State) : Host.Outcome State Fault Refusal :=
  .next (s.run { word := wordOf (.hclr k), srcs := [x1 k] }
    ((require (!chanReserved (s.chanOf k)) 0x41 (word (s.chanOf k))).bind fun _ =>
     .ok (s.setChan k fun c => { c with pending := false }).complete))

/-- `hhdr` -/
def execHhdr (k : KOps) (s : State) : Host.Outcome State Fault Refusal :=
  .next (s.run { word := wordOf (.hhdr k), groups := [(k.rd.toNat, 4)], dsts := [toX k 4] }
    (.ok (s.modCur fun sl => (sl.setXs k.rd.toNat (sl.clause.header.take 4)).complete)))

/-! ### Clauses (R129 to R132) -/

/-- `susp` -/
def execSusp (k : KOps) (s : State) : Host.Outcome State Fault Refusal :=
  .next (s.run { word := wordOf (.susp k) } (s.suspend .susp))

/-- `yield` -/
def execYield (k : KOps) (s : State) : Host.Outcome State Fault Refusal :=
  .next (s.run { word := wordOf (.yield k) } (s.suspend .yield))

/-- `join`: the fold code stands in the `rs2` field. -/
def execJoin (k : KOps) (s : State) : Host.Outcome State Fault Refusal :=
  .next (s.run { word := wordOf (.join k), dsts := [toX k] } (s.suspend (.join k.rd.toNat k.rs2.toNat)))

/-- The family entry of the issuing clause. -/
def State.family (s : State) : Family :=
  let cl := s.sl.clause
  match cl.recIdx with
  | some i => (s.record cl.recCore cl.ctx i).family
  | none => {}

/-- The die on which an affine child is placed, if it is placed by its address (R116). A near address has no home, and the
child is then placed by hash. DESIGN CHOICE, log 15. -/
def State.affineDie (s : State) (a : Word) : Res (Option Nat) :=
  if fld a 48 16 ≠ 0 then .trap 0x53 a
  else if isNear a.toNat then .ok none
  else (s.translate s.cur a).bind fun (_, unit, chip, _) => .ok (if chip = s.hub.chipId && unit < 16 then some (unit / 4) else none)

/-- The core of a child and whether affine placement chose it. -/
def State.placeChild (s : State) (digest : Word) (die : Option Nat) : Nat × Bool :=
  match s.partOf (s.served s.curCore) with
  | none => (s.curCore, false)
  | some n =>
    match die with
    | some d =>
      if ((s.nodeClusters n).filter fun c => c / 128 == d).isEmpty then (s.hashCore n digest, false) else (s.affineCore n digest d, true)
    | none => (s.hashCore n digest, false)

/-- `spawn` -/
def execSpawn (k : KOps) (s : State) : Host.Outcome State Fault Refusal :=
  let n := groupSize k.w
  let entry := s.sl.xr k.rs1.toNat
  let cl := s.sl.clause
  .next (s.run { word := wordOf (.spawn k), groups := [(k.rs2.toNat, n)], srcs := [x1 k, x2 k n, xd k] }
    ((require (entry.toNat % 4 == 0 && decide (cl.codeBase.toNat ≤ entry.toNat) && decide (entry.toNat < cl.codeBase.toNat + cl.codeSize)) 0x46 entry).bind fun _ =>
     (require (decide ((s.family.spawned - s.family.joinBase).toNat < 64)) 0x45 64).bind fun _ =>
     (if k.rd = 0 then .ok none else s.affineDie (s.sl.xr k.rd.toNat)).bind fun die =>
     s.ordered true fun s =>
     (stallUnless (s.outRoom s.curCore)).bind fun _ =>
     let s := if k.rd = 0 then s else s.touched (s.sl.xr k.rd.toNat)
     s.unlessFault (s.familyFault s.cur) <|
     let s := s.giveIndex s.cur
     let cl := s.sl.clause
     let f := s.family
     let digest := mix s.sl.kpath f.spawned.toNat
     let (core, homed) := s.placeChild digest die
     let s := (s.modRecord cl.recCore cl.ctx cl.idx fun r => { r with family := { r.family with spawned := f.spawned + 1 } }).putFamily
       cl.recCore cl.ctx cl.idx
     let link := word ((recTag cl.idx cl.recCore).toNat + s.hub.chipId.toNat * 2 ^ 32)
     let w2 := word (f.spawned.toNat + cl.prio % 8 * 2 ^ 32 + cl.chan.toNat * 2 ^ 40 + homed.toNat * 2 ^ 48)
     let p := padUnit ([entry, digest, w2, link] ++ s.sl.xs k.rs2.toNat n)
     let m := { s.clauseMsg s.cur with dstChip := s.hub.chipId, dstCore := BitVec.ofNat 12 core, kind := 0x03,
                                       units := BitVec.ofNat 3 (p.length / 2), payload := p, unit := s.curCore }
     let s := (s.queueOut m none).modLaunch cl.launch fun l => { l with live := l.live + 1 }
     .ok (s.modCur fun sl => Slot.complete { sl with kseq := sl.kseq + 1 })))

/-- `exit`: claimed tiles are released, and the clause ends when its requests are acknowledged (R132, R203). -/
def execExit (k : KOps) (s : State) : Host.Outcome State Fault Refusal :=
  .next (s.run { word := wordOf (.exit k), srcs := [x1 k] }
    (.ok (((s.modCur fun sl => { sl.setPP false with phase := .exiting (sl.xr k.rs1.toNat) false, wait := .none }).dropTiles s.cur).tryExit s.cur)))

/-- SUSPENSION_COMMIT -/
def execSuspensionCommit (slot : Nat) (s : State) : Host.Outcome State Fault Refusal := .next (s.trySuspend slot)

/-- EXIT_COMMIT -/
def execExitCommit (slot : Nat) (s : State) : Host.Outcome State Fault Refusal := .next (s.tryExit slot)

/-- IMPLICIT_DROP: the clause that ends at a slot drops its barrier registrations (15_sync.md R286). -/
def execImplicitDrop (slot : Nat) (s : State) : Host.Outcome State Fault Refusal :=
  .next (match (s.slot slot).phase with
    | .exiting _ _ => s.sendDrops slot
    | _ => s)

/-- HANDLER_DISPATCH -/
def execHandlerDispatch (slot : Nat) (s : State) : Host.Outcome State Fault Refusal := .next (s.dispatch slot)

/-! ### Arrivals (R102, R104) -/

/-- A message of a launch of a context reaches it after that launch has ended (22_launch_estimate.md R376). -/
def State.outlasted (s : State) (core c : Nat) (x : Ctx) (m : Msg) : Bool :=
  let l := s.launch m.launch
  m.launch != 0 && m.launch != x.launch && decide (2 < l.state) && l.vf == x.vf && l.ctx == c && (s.nodeClusters l.node).contains (clusterOf core)

/-- A message of a kind that fires a channel reaches a context: after its launch has completed it is discarded and counted
(22_launch_estimate.md R376), and one of a launch that is killed is discarded (R379); a message from outside a reproducible launch takes the window that is open (R122). Start messages
and trap reports take effect in the window in which they arrive. -/
def State.channelMsg (s : State) (m : Msg) : State :=
  let core := s.served m.dstCore.toNat
  let c := m.ctx.toNat
  let x := s.ctx core c
  if x.launch = 0 || s.outlasted core c x m then s.modCtx core c fun x => x.countErr 16
  else if (s.launch x.launch).killing then s
  else
    let m := if m.launch ≠ x.launch then { m with launch := x.launch, window := (s.launch x.launch).window } else m
    if s.parks m && m.kind != 0x08 && m.kind != 0x0C then s.park m else s.arrive core c m

/-- What a chip sends for a handler message of another chip that no context may receive: a notice 0x0003, or for a `sendr` the
refusal that fills its destination with the route marker (R104, R125). -/
def State.refuseMsg (s : State) (m : Msg) : State :=
  if tagKind m.tag = 2 then
    s.route { m with dstChip := m.srcChip, dstCore := m.tag.setWidth 12, kind := 0x01, payload := [], units := 0, rstat := 2 }
  else
    let r := s.numbered
      { dstChip := m.srcChip, dstCore := BitVec.ofNat 12 m.unit, chan := 254, kind := 0x0D, units := 2, srcVf := m.srcVf,
        key := deviceKey 0x02 s.hub.chipId.toNat, ctx := m.ctx,
        payload := [noticeWord 0x0003 0x40 2, word (m.dstCore.toNat + m.dstChip.toNat * 2 ^ 12 + m.chan.toNat * 2 ^ 32), m.key, word m.seq.toNat] }
    r.1.route r.2

/-- A handler message arrives: from this chip at the context its send chose, from another after the hub's check. -/
def State.handlerArrives (s : State) (m : Msg) : State :=
  if m.srcChip = s.hub.chipId then s.channelMsg m
  else
    let named := match m.forVf with
      | some v => s.ctxOfVf (s.served m.dstCore.toNat) v.toNat
      | none => if bitOf m.rstat.toNat 3 then some (m.rstat.toNat % 4) else none
    match s.receiver m.dstCore.toNat m.srcChip m.srcVf.toNat named with
    | some c => s.channelMsg { m with ctx := BitVec.ofNat 2 c, launch := 0 }
    | none => s.refuseMsg m

/-- HANDLER_MESSAGE (kind 0x00) -/
def execHandlerMessage (m : Msg) (s : State) : Host.Outcome State Fault Refusal := .next (s.handlerArrives m)

/-- LAUNCH_START (kind 0x08) -/
def execLaunchStart (m : Msg) (s : State) : Host.Outcome State Fault Refusal := .next (s.channelMsg m)

/-- A copy arrival message reaches its core: from another package it is for the context of the function that it names, and is discarded
with a record where the core has none (20_copy.md R357). -/
def State.copyArrives (s : State) (m : Msg) : State :=
  if m.srcChip = s.hub.chipId then s.channelMsg m
  else
    let vf := (m.forVf.getD m.srcVf).toNat
    match s.ctxOfVf (s.served m.dstCore.toNat) vf with
    | some c => s.channelMsg { m with ctx := BitVec.ofNat 2 c, launch := 0 }
    | none => s.errorRecord vf (memoryRecord 0x00A0 vf m.unit (m.payload.getD 3 0) s.ktick m.dstCore.toNat)

/-- COPY_ARRIVAL (kind 0x0A) -/
def execCopyArrival (m : Msg) (s : State) : Host.Outcome State Fault Refusal := .next (s.copyArrives m)

/-- A stop or a kill has removed the item messages of a launch (22_launch_estimate.md R389). -/
def State.itemsGone (s : State) (n : Nat) : Bool :=
  match (s.launch n).est with
  | some e => let x := (s.hub.ests.get e {}).state; x == 2 || x == 4
  | none => false

/-- ESTIMATOR_ITEM (kind 0x0B): an item of a run that was stopped never runs; one of an exhausted run does. -/
def execEstimatorItem (m : Msg) (s : State) : Host.Outcome State Fault Refusal :=
  .next (if s.itemsGone m.launch then s else s.channelMsg { m with chan := 241 })

/-- TRAP_REPORT (kind 0x0C) -/
def execTrapReport (m : Msg) (s : State) : Host.Outcome State Fault Refusal := .next (s.channelMsg { m with chan := 255 })

/-- ERROR_NOTICE (kind 0x0D) -/
def execErrorNotice (m : Msg) (s : State) : Host.Outcome State Fault Refusal := .next (s.channelMsg { m with chan := 254 })

/-- PEER_DOWN_NOTICE (kind 0x0E) -/
def execPeerDownNotice (m : Msg) (s : State) : Host.Outcome State Fault Refusal := .next (s.channelMsg { m with chan := 253 })

/-- Registers of a group filled with the words of a reply: an `x` register takes one word, a `v` register eight; members
beyond the payload are 0 (R125). -/
def Slot.fillGroup (sl : Slot) (vec : Bool) (reg count : Nat) (ws : List Word) : Slot :=
  if vec then sl.setVs reg (groupOf count (ofBytes (bytesOfWords (ws.take (8 * count)))))
  else sl.setXs reg ((ws ++ List.replicate count 0).take count)

/-- A slot takes the replies of a generation: a clause of it is bound and has not been killed, nor has it ended (R103, 04_encoding.md
R65). -/
def Slot.takes (sl : Slot) (gen : Nat) : Bool :=
  gen == sl.gen && (match sl.phase with | .free => false | .exiting _ _ => false | _ => true)

/-- A reply that a slot discards is counted where its generation is not the slot's (R103). -/
def State.countStale (s : State) (k gen c : Nat) : State :=
  if gen = (s.slot k).gen then s else s.modCtx (coreOf k) c fun x => x.countErr 32

/-- A register reply from another package belongs to the launch of the clause that asked for it, in the window that is open (R122). -/
def State.localReply (s : State) (m : Msg) : Msg :=
  if m.srcChip = s.hub.chipId then m
  else let n := (s.slot (tagSlotKey m.tag)).clause.launch; { m with launch := n, window := (s.launch n).window }

/-- A register reply arrives (R103): one that its slot does not take is discarded, and counted in the context of the clause that asked
for it, or where none did in that of the clause now bound (log 98); a refusal or an unreachable destination fills the
group with the route marker or the peer-down marker (R104). -/
def State.registerReply (s : State) (m : Msg) : State :=
  let k := tagSlotKey m.tag
  let gen := tagGen m.tag
  let sl := s.slot k
  match sl.asks.find? fun a => a.gen == gen && a.vec == tagVec m.tag && a.reg == tagReg m.tag with
  | none => s.countStale k gen sl.clause.ctx
  | some a =>
    let could := sl.canBind
    let sl := { sl with asks := sl.asks.erase a, owed := sl.owed.set gen (sl.owed.get gen 0 - 1) }
    if sl.takes gen then
      s.setSlot k (if m.rstat = 3 then sl.markRegs a.vec a.reg 0x92 a.desc a.count
                   else if m.rstat = 2 then sl.markRegs a.vec a.reg 0x40 a.desc a.count
                   else sl.fillGroup a.vec a.reg a.count m.payload)
    else ((s.setSlot k sl).wakeFree k could).countStale k gen a.ctx

/-- REGISTER_REPLY (kind 0x01) -/
def execRegisterReply (m : Msg) (s : State) : Host.Outcome State Fault Refusal :=
  let m := s.localReply m
  .next (s.orPark m fun s => s.registerReply m)

/-- A resume arrives at a record (R113); that of a `reply` in the context of the function which its reply word names. One with channel 1
is the wake-up that a `yield` of a reproducible launch parked. -/
def State.resumeArrives (s : State) (m : Msg) : State :=
  let core := tagCore m.tag
  let i := tagIndex m.tag
  if m.chan = 1 then
    let c := m.ctx.toNat
    let r := s.record core c i
    if r.state = .runnable then
      s.poolAdd (s.resumeCore r) c { kind := .resumed core i, msg := ownWake m.launch m.rstat, prio := r.clause.prio }
    else s
  else match m.forVf with
    | none => s.resumeRecord core m.ctx.toNat i m
    | some v =>
      match s.ctxOfVf (s.served core) v.toNat with
      | some c => s.resumeRecord core c i m
      | none => s

/-- A resume from another package belongs to the launch of the clause it resumes, in the window that is open (R122). -/
def State.localised (s : State) (m : Msg) : Msg :=
  if m.srcChip = s.hub.chipId then m
  else
    let c := match m.forVf with
      | some v => (s.ctxOfVf (s.served (tagCore m.tag)) v.toNat).getD m.ctx.toNat
      | none => m.ctx.toNat
    let n := (s.record (tagCore m.tag) c (tagIndex m.tag)).clause.launch
    { m with launch := n, window := (s.launch n).window }

/-- RESUME (kind 0x02) -/
def execResume (m : Msg) (s : State) : Host.Outcome State Fault Refusal :=
  let m := s.localised m
  .next (s.orPark m fun s => s.resumeArrives m)

/-- SPAWN_MESSAGE (kind 0x03): the child joins the runnable pool of its core (R130). -/
def execSpawnMessage (m : Msg) (s : State) : Host.Outcome State Fault Refusal :=
  .next (s.orPark m fun s => s.arrive (s.served m.dstCore.toNat) m.ctx.toNat m)

/-- The family entry after a child's report: its result, or that it was lost (R117). -/
def Family.report (f : Family) (ordinal : BitVec 32) (lost : Bool) (result : Word) : Family :=
  let i := (ordinal - f.joinBase).toNat
  if 64 ≤ i then f
  else if lost then { f with lost := f.lost ||| word (2 ^ i) }
  else { f with arrived := f.arrived ||| word (2 ^ i), results := f.results.set i result }

/-- An exit report arrives at the parent's record: it is written into the family entry without running any clause. -/
def State.exitArrives (s : State) (m : Msg) : State :=
  let core := tagCore m.tag
  let c := m.ctx.toNat
  let i := tagIndex m.tag
  let r := s.record core c i
  if r.state = .free then s
  else
    let w1 := m.payload.getD 1 0
    let s := s.setRecord core c i { r with family := r.family.report (w1.setWidth 32) (bit w1 32) (m.payload.getD 0 0) }
    let o := (w1.setWidth 32 - r.family.joinBase).toNat
    let s := if 64 ≤ o then s else (if bit w1 32 then s else s.putResult core c i (o / 8)).putFamily core c i
    if r.ended then s.freeRecord core c i else s.joinDone core c i

/-- EXIT_REPORT (kind 0x04) -/
def execExitReport (m : Msg) (s : State) : Host.Outcome State Fault Refusal := .next (s.orPark m fun s => s.exitArrives m)

end Sys2Proof.Machine
end

