-- ==== Sys2Proof/Machine/Names.lean ====
section
/-!
DEFINITION. Permanent names (19_names.md): the counter and its runs (R325, R326), the name table (R327 to R329), the cluster
caches and resolution (R330, R331), the name unit with its shoot-downs (R333, R334), remote names (R335), the seven
instructions (R337 to R342), and the name operations of the hub (24_system.md R455).
-/
namespace Sys2Proof.Machine

/-! ### Names and attribute words (R324, R328) -/

/-- The name in an aligned register pair. -/
def Slot.name (sl : Slot) (r : Nat) : BitVec 128 := sl.xr (r + 1) ++ sl.xr r

def nameLow (n : BitVec 128) : Word := n.setWidth 64
def nameHigh (n : BitVec 128) : Word := n.extractLsb' 64 64
def nameSerial (n : BitVec 128) : BitVec 48 := n.extractLsb' 80 48
def nameCount (n : BitVec 128) : BitVec 80 := n.setWidth 80

def attrHolders (a : Word) : Nat := fld a 32 32
def attrState (a : Word) : Nat := fld a 30 2
def attrSync (a : Word) : Bool := bit a 29
def attrTensed (a : Word) : Bool := bit a 28
def attrPlacement (a : Word) : Nat := fld a 24 4
def attrLen (a : Word) : Nat := fld a 19 5
def attrOwner (a : Word) : Nat := fld a 8 7
def attrClass (a : Word) : Nat := fld a 0 8

/-- The bytes of an object. -/
def attrExtent (a : Word) : Nat := 64 * 2 ^ attrLen a

/-- The rights by number: 0 read, 1 write, 2 rebind, 3 kill. The owner function on the issuing chip holds all. -/
def hasRight (a : Word) (right : Nat) (own : Bool) (vf : Nat) : Bool := (own && vf == attrOwner a) || bit a (15 + right)

/-- The attribute bits that a page gives a binding: PLACEMENT, SYNC and TENSED. -/
def leafAttr (leaf : Nat) : Nat :=
  leafPlacement leaf * 2 ^ 24 + (leafTensed leaf).toNat * 2 ^ 28 + (leafSync leaf).toNat * 2 ^ 29

/-! ### The counter (R325, R326) -/

/-- The counter block that the reservation record holds: the highest valid index. -/
def topBlock : List (Option Nat) → Option Nat
  | [] => none
  | none :: t => topBlock t
  | some k :: t => match topBlock t with | some j => some (greatest k j) | none => some k

/-- The first counter value that no reservation covers. -/
def Hub.reservedEnd (h : Hub) : Nat := match topBlock h.slots with | some k => (k + 1) * 2 ^ 32 | none => 0

/-- The record slots with a block written into the one that does not hold the newest. -/
def withReserved (slots : List (Option Nat)) (k : Nat) : List (Option Nat) :=
  match slots, topBlock slots with
  | [a, b], some t => if a = some t then [a, some k] else [some k, b]
  | _, _ => [some k, none]

/-- NAME_BLOCK_RESERVATION: the record of the next block is in the non-volatile store. -/
def State.reserveNames (s : State) : State :=
  if s.hub.issued < s.hub.reservedEnd then s
  else
    let k := s.hub.reservedEnd / 2 ^ 32
    if 2 ^ 48 ≤ k then s else s.modHub fun h => { h with slots := withReserved h.slots k }

/-- NAME_BLOCK_RESERVATION -/
def execNameBlockReservation (s : State) : Host.Outcome State Fault Refusal := .next s.reserveNames

/-- Values that the package counter can hand out. -/
def Hub.canIssue (h : Hub) : Bool := decide (h.issued < h.reservedEnd)

/-- The last block is used up. -/
def Hub.exhausted (h : Hub) : Bool := !h.canIssue && decide (2 ^ 80 ≤ h.reservedEnd)

/-- A cluster with a value to issue: its own run, or a new run of 256 from the hub; the last run of a block may be shorter, since the hub
hands out no value of a block before its reservation (R325). -/
def State.runOf (s : State) (cl : Nat) : State :=
  if (s.cluster cl).nameLeft ≠ 0 then s
  else
    let n := least 256 (s.hub.reservedEnd - s.hub.issued)
    (s.modCluster cl fun c => { c with nextName := BitVec.ofNat 80 s.hub.issued, nameLeft := n }).modHub fun h => { h with issued := h.issued + n }

/-- The next name of a cluster's run, and the run without it. -/
def State.takeName (s : State) (cl : Nat) : State × BitVec 128 :=
  let c := s.cluster cl
  (s.modCluster cl fun c => { c with nextName := c.nextName + 1, nameLeft := c.nameLeft - 1 }, s.hub.boot.serial ++ c.nextName)

/-! ### The name table (R327, R329) -/

/-- The device address and the bucket count of the name table, once NAMETAB holds a valid L. -/
def State.nameTable (s : State) : Option (Nat × Nat) :=
  let l := fld s.hub.nametab 0 5
  if 16 ≤ l && l ≤ 26 then some (fld s.hub.nametab 12 32 * 4096, 2 ^ l) else none

/-- The buckets of a name, from bucket j of its sequence. -/
def bucketsFrom (h base b j : Nat) : Nat → List Nat
  | 0 => []
  | n + 1 => (base + 128 * ((h + j) % 2 ^ 64 % b)) :: bucketsFrom h base b (j + 1) n

/-- The eight buckets of a name. -/
def State.buckets (s : State) (n : BitVec 128) : List Nat :=
  match s.nameTable with
  | none => []
  | some (base, b) => bucketsFrom (mix (nameLow n) (nameHigh n).toNat).toNat base b 0 8

/-- The name unit of a name: the home of bucket 0 of its sequence. -/
def State.nameUnit (s : State) (n : BitVec 128) : Nat := homeOf 0 ((s.buckets n).headD 0)

def State.entryName (s : State) (a : Nat) : BitVec 128 := BitVec.ofNat 128 (s.devLoad a 16)
def State.entryBinding (s : State) (a : Nat) : Word := word (s.devLoad (a + 16) 8)
def State.entryAttr (s : State) (a : Nat) : Word := word (s.devLoad (a + 24) 8)

/-- A device address range of at most 128 bytes touches poison. -/
def State.devPoisoned (s : State) (a n : Nat) : Bool :=
  match s.media a with
  | some m => s.poisoned m n
  | none => false

/-- What a scan for a name finds. -/
inductive Scan where
  | absent
  | poisoned
  | found (a : Nat)
  deriving DecidableEq, Repr

/-- The first slot of a bucket that passes a test. -/
def firstSlot (bucket : Nat) (p : Nat → Bool) : Option Nat :=
  [bucket, bucket + 32, bucket + 64, bucket + 96].find? p

/-- Scans buckets for a name with STATE not 0; a poisoned bucket ends the scan. -/
def State.scan (s : State) (n : BitVec 128) : List Nat → Scan
  | [] => .absent
  | b :: t =>
    if s.devPoisoned b 128 then .poisoned
    else match firstSlot b fun a => attrState (s.entryAttr a) != 0 && s.entryName a == n with
      | some a => .found a
      | none => s.scan n t

/-- The first empty slot of buckets; a poisoned bucket ends the search. DESIGN CHOICE, log 120. -/
def State.emptySlot (s : State) : List Nat → Option Nat
  | [] => none
  | b :: t =>
    if s.devPoisoned b 128 then none
    else match firstSlot b fun a => attrState (s.entryAttr a) == 0 with
    | some a => some a
    | none => s.emptySlot t

/-- The status of a name that finds no empty slot: 1 where poison ended the search, else 11 (R332). DESIGN CHOICE, log 120. -/
def State.noSlot (s : State) (n : BitVec 128) : Nat := if (s.buckets n).any fun b => s.devPoisoned b 128 then 1 else 11

/-- An entry inserted in the first empty slot of its sequence (R329), or none where none is found. -/
def State.insertName (s : State) (n : BitVec 128) (binding attr : Word) : Option State :=
  (s.emptySlot (s.buckets n)).map fun a =>
    s.devWrite a (toBytes 16 n.toNat ++ toBytes 8 binding.toNat ++ toBytes 8 attr.toNat)

/-- The attribute word of an entry written. -/
def State.setEntryAttr (s : State) (a : Nat) (v : Word) : State := s.devWrite (a + 24) (toBytes 8 v.toNat)

/-! ### Messages (R332) -/

def opResolve : Nat := 0
def opNew : Nat := 1
def opCas : Nat := 2
def opKill : Nat := 3
def opRead : Nat := 4
def opWrite : Nat := 5
def opStat : Nat := 6

/-- The payload of a name request: operation, requester, name and operands. -/
def namePayload (op vf cluster : Nat) (n : BitVec 128) (ops : List Word) : List Word :=
  [word (op + vf % 128 * 2 ^ 8 + cluster * 2 ^ 16), 0, nameLow n, nameHigh n] ++ padUnit ops

def reqOp (m : Msg) : Nat := fld (m.payload.getD 0 0) 0 8
def reqCluster (m : Msg) : Nat := fld (m.payload.getD 0 0) 16 16
def reqName (m : Msg) : BitVec 128 := m.payload.getD 3 0 ++ m.payload.getD 2 0
def reqArg (m : Msg) (i : Nat) : Word := m.payload.getD (4 + i) 0

/-- Who asks for a kill or rebind, as operand word 4 of the request: 0 a clause with its rights, 1 `barinv`, whose right is
checked already, 2 the hub's name registers, 3 the dispatcher. -/
def reqPath (m : Msg) : Nat := (reqArg m 4).toNat

/-- A name reply (kind 0x39): status, binding or result, attribute word. -/
def State.nameAnswer (s : State) (m : Msg) (status : Nat) (result attr : Word) : State :=
  if reqPath m = 2 then s.modHub fun h => { h with namestat := word (status * 2 ^ 55) }
  else s.sendReply m 0x39 [word status, 0, result, 0, attr, 0]

/-! ### The name unit (R331, R333, R335) -/

/-- A rebind or kill in progress on a name. -/
def Stack.opOn (k : Stack) (n : BitVec 128) : Option NameOp := k.nameOps.find? fun o => o.name == n

/-- The name unit's operation on a name changed. -/
def State.modOp (s : State) (unit : Nat) (n : BitVec 128) (f : NameOp → NameOp) : State :=
  s.modStack unit fun k => { k with nameOps := k.nameOps.map fun o => if o.name = n then f o else o }

/-- The clusters that a HOLDERS field names, from group i up. -/
def holderClusters (fused : List Nat) (h i : Nat) : Nat → List Nat
  | 0 => []
  | n + 1 => (if bitOf h i then clustersFrom fused (16 * i) 16 else []) ++ holderClusters fused h (i + 1) n

/-- A shoot-down for a cluster (kind 0x3A), with the number of its operation at the home. -/
def State.sendShootDown (s : State) (unit cl number : Nat) (n : BitVec 128) : State :=
  s.route { dstChip := s.hub.chipId, dstCore := BitVec.ofNat 12 (cl * 8), kind := 0x3A, units := 2, srcChip := s.hub.chipId,
            stamp := s.stamp, unit := unit, payload := [nameLow n, nameHigh n, word number, 0] }

/-- A cluster's acknowledgement of a shoot-down (kind 0x3B) leaves for the name unit. -/
def State.ackShootDown (s : State) (unit cl number : Nat) (n : BitVec 128) : State :=
  s.route { dstChip := s.hub.chipId, kind := 0x3B, units := 2, srcChip := s.hub.chipId, stamp := s.stamp, unit := unit,
            tag := BitVec.ofNat 32 cl, payload := [nameLow n, nameHigh n, word number, 0] }

/-- Steps 2 and 3 of R333: the entry is MOVING, and every cluster that may hold it is told. -/
def State.beginChange (s : State) (m : Msg) (unit a : Nat) : State :=
  let n := reqName m
  let attr := s.entryAttr a
  let s := s.setEntryAttr a (withFld attr 30 2 2)
  let cls := holderClusters s.hub.disabled (attrHolders attr) 0 32
  let number := (s.stack unit).nameSeq
  let s := s.modStack unit fun k =>
    { k with nameOps := k.nameOps ++ [{ msg := m, name := n, entry := a, owes := cls, number := number }], nameSeq := number + 1 }
  (cls.foldl (fun s cl => s.sendShootDown unit cl number n) s).post (.nameOperationCommit unit n)

/-- The status of a cause that a forwarded access meets (R341): the cause's code. -/
def causeStatus (cause : Nat) : Nat := cause

/-- A remote `nmld` or `nmst` performed on the requester's behalf (R335, R341): the unit sends a far request to the binding's home, which
performs it in the order of its line, and the access counts as forwarded until its answer has been relayed. -/
def State.forward (s : State) (m : Msg) (unit : Nat) (binding attr : Word) : State :=
  let o := reqArg m 0
  let write := reqOp m == opWrite
  if attrExtent attr < o.toNat + 8 then s.nameAnswer m 13 0 0
  else if attrTensed attr then s.nameAnswer m (causeStatus 0x5C) 0 0
  else if write && attrSync attr then s.nameAnswer m (causeStatus 0x71) 0 0
  else
    let g := binding + o
    let home := homeOf (attrPlacement attr) (devOf g)
    let req := { m with dstChip := chipOf g, kind := if write then 0x21 else 0x20, units := if write then 2 else 1, unit := home,
                        tag := BitVec.ofNat 32 unit, srcChip := s.hub.chipId, launch := 0, window := 0,
                        behalf := if chipOf g = s.hub.chipId then some m.srcChip else none,
                        payload := if write then [g, 8, reqArg m 1, 0] else [g, 8] }
    (s.modStack unit fun k => { k with forwarded := k.forwarded ++ [(reqName m, m)] }).route req

/-- The answer of a forwarded access is relayed. -/
def State.relay (s : State) (unit : Nat) (m : Msg) (status : Nat) (result : Word) : State :=
  match (s.stack unit).forwarded.find? fun f => f.2.key == m.key && f.2.seq == m.seq with
  | none => s
  | some f =>
    ((s.modStack unit fun k => { k with forwarded := k.forwarded.erase f }).nameAnswer f.2 status result 0).post
      (.nameOperationCommit unit f.1)

/-- The status that a lookup answers before an entry is found: never issued, gone or poisoned. -/
def State.lookup (s : State) (n : BitVec 128) : Nat ⊕ Nat :=
  if s.hub.issued ≤ (nameCount n).toNat then .inl 9
  else match s.scan n (s.buckets n) with
    | .absent => .inl 8
    | .poisoned => .inl 1
    | .found a => .inr a

/-- The status word of `nmstat` (R342). -/
def State.statWord (s : State) (n : BitVec 128) : Nat × Word :=
  match s.lookup n with
  | .inl 9 => (0, word (3 * 2 ^ 30))
  | .inl 8 => (0, 0)
  | .inl st => (st, 0)
  | .inr a => (0, withFld (s.entryAttr a) 32 32 0)

/-- The right that an operation needs. -/
def opRight (m : Msg) : Nat :=
  let op := reqOp m
  if op = opResolve then (reqArg m 0).toNat % 4 else if op = opCas then 2 else if op = opKill then 3 else if op = opWrite then 1 else 0

/-- The requester holds the right. -/
def State.reqAllowed (s : State) (m : Msg) (attr : Word) : Bool :=
  reqPath m != 0 || hasRight attr (opRight m) (m.srcChip == s.hub.chipId) m.srcVf.toNat

/-- A request to the name unit of a name is performed (R331, R333, R335, R338, R340, R342). -/
def State.nameOp (s : State) (m : Msg) : State :=
  let n := reqName m
  let op := reqOp m
  let unit := s.nameUnit n
  if op = opStat then
    let r := s.statWord n
    s.nameAnswer m r.1 r.2 r.2
  else if ((s.stack unit).opOn n).isSome then s.modOp unit n fun o => { o with held := o.held ++ [m] }
  else if op = opNew && reqArg m 2 = 1 then s.nameAnswer m 12 0 0
  else if op = opNew then
    match s.insertName n (reqArg m 0) (reqArg m 1) with
    | some s => s.sendReply m 0x39 [0, 0, nameLow n, nameHigh n, reqArg m 1, 0]
    | none => s.nameAnswer m (s.noSlot n) 0 0
  else match s.lookup n with
    | .inl st => s.nameAnswer m st 0 0
    | .inr a =>
      let attr := s.entryAttr a
      let b := s.entryBinding a
      if op ≠ opResolve && attrClass attr == 4 && decide (reqPath m < 2) then s.nameAnswer m 10 0 0
      else if !s.reqAllowed m attr then s.nameAnswer m 10 0 0
      else if op = opResolve then
        let s := if m.srcChip = s.hub.chipId then s.setEntryAttr a (attr ||| word (2 ^ (32 + reqCluster m / 16))) else s
        s.nameAnswer m 0 b attr
      else if op = opRead || op = opWrite then s.forward m unit b attr
      else if op = opCas && b != reqArg m 0 then s.nameAnswer m (if reqPath m = 2 then 1 else 0) 1 0
      else if op = opCas && decide ((reqArg m 3).toNat < attrExtent attr) then s.nameAnswer m 14 0 0
      else s.beginChange m unit a

/-- NAME_REQUEST (kind 0x38): the operations of a reproducible launch are applied as its window closes (R344). -/
def execNameRequest (m : Msg) (s : State) : Host.Outcome State Fault Refusal := .next (s.orPark m fun s => s.nameOp m)

/-- NAME_OPERATION_COMMIT: with every acknowledgement in and every forwarded access answered, the operation commits, and the
requests held are performed in arrival order (steps 5 to 7 of R333). -/
def State.commitName (s : State) (unit : Nat) (n : BitVec 128) : State :=
  match (s.stack unit).opOn n with
  | none => s
  | some o =>
    if !o.owes.isEmpty || (s.stack unit).forwarded.any (fun f => f.1 == n) then s
    else
      let attr := s.entryAttr o.entry
      let s :=
        if reqOp o.msg = opCas then
          let kept := fld attr 0 24
          (s.devWrite (o.entry + 16) (toBytes 8 (reqArg o.msg 1).toNat)).setEntryAttr o.entry
            (word (kept + fld (reqArg o.msg 2) 24 6 * 2 ^ 24 + 2 ^ 30))
        else s.setEntryAttr o.entry (withFld attr 30 2 0)
      let s := s.modStack unit fun k => { k with nameOps := k.nameOps.filter fun x => x.name != n }
      o.held.foldl (fun s m => s.nameOp m) (s.nameAnswer o.msg 0 0 0)

/-- NAME_OPERATION_COMMIT -/
def execNameOperationCommit (unit : Nat) (name : BitVec 128) (s : State) : Host.Outcome State Fault Refusal :=
  .next (s.commitName unit name)

/-! ### Name caches (R330, R333) -/

/-- Entries of a name cache. -/
def nameCacheLimit : Nat := 1024

/-- The live entry of a name. -/
def cacheFind (c : List CachedName) (n : BitVec 128) : Option CachedName := c.find? fun e => e.name == n && !e.dead

/-- The entry of a name used last: it stands at the end. -/
def cacheTouch (c : List CachedName) (n : BitVec 128) : List CachedName :=
  c.filter (fun e => !(e.name == n && !e.dead)) ++ c.filter fun e => e.name == n && !e.dead

/-- The cache without its least recently used entry that is not in flight. -/
def cacheEvict : List CachedName → Option (List CachedName)
  | [] => none
  | e :: t => if e.inFlight = 0 && !e.dead then some t else (cacheEvict t).map fun t => e :: t

/-- The cache with an entry added, if there is room or an entry can be evicted. -/
def cacheAdd (c : List CachedName) (e : CachedName) : Option (List CachedName) :=
  if c.length < nameCacheLimit then some (c ++ [e]) else (cacheEvict c).map fun c => c ++ [e]

/-- A cluster's cache can take one more entry. -/
def cacheRoom (c : List CachedName) : Bool := decide (c.length < nameCacheLimit) || (cacheEvict c).isSome

/-- Changes the entries of a name in a cluster's cache. -/
def State.modCached (s : State) (cl : Nat) (n : BitVec 128) (f : CachedName → CachedName) : State :=
  s.modCluster cl fun c => { c with names := c.names.map fun e => if e.name = n then f e else e }

/-- A name-relative access through a cluster's entry has its answer. -/
def State.drained (s : State) (cl : Nat) (n : BitVec 128) : State :=
  let s := s.modCached cl n fun e => { e with inFlight := e.inFlight - 1 }
  if (s.cluster cl).names.any fun e => e.name == n && e.dead && e.inFlight == 0 then s.post (.shootDownDrain cl (s.nameUnit n) n)
  else s

/-- SHOOT_DOWN_DRAIN: the cluster drops a dead entry whose accesses are answered, and acknowledges the operation that marked it. -/
def State.drainName (s : State) (cl unit : Nat) (n : BitVec 128) : State :=
  if (s.cluster cl).names.any fun e => e.name == n && e.dead && e.inFlight != 0 then s
  else
    match (s.cluster cl).names.find? fun e => e.name == n && e.dead with
    | none => s
    | some d => (s.modCluster cl fun c => { c with names := c.names.filter fun e => e.name != n }).ackShootDown unit cl d.op n

/-- An acknowledgement reaches the name unit: its operation waits for one cluster less. -/
def State.shootDownAcked (s : State) (m : Msg) : State :=
  let n := m.payload.getD 1 0 ++ m.payload.getD 0 0
  (s.modOp m.unit n fun o =>
    if word o.number = m.payload.getD 2 0 then { o with owes := o.owes.filter fun x => x != m.tag.toNat } else o).post
    (.nameOperationCommit m.unit n)

/-- SHOOT_DOWN_DRAIN -/
def execShootDownDrain (cluster unit : Nat) (name : BitVec 128) (s : State) : Host.Outcome State Fault Refusal :=
  .next (s.drainName cluster unit name)

/-- SHOOT_DOWN (kind 0x3A): the cluster marks its entry dead; it acknowledges at once where nothing is in flight through it. -/
def execShootDown (m : Msg) (s : State) : Host.Outcome State Fault Refusal :=
  let cl := clusterOf m.dstCore.toNat
  let n := m.payload.getD 1 0 ++ m.payload.getD 0 0
  let number := (m.payload.getD 2 0).toNat
  .next (if (s.cluster cl).names.any fun e => e.name == n then
      (s.modCached cl n fun e => { e with dead := true, op := number }).drainName cl m.unit n
    else s.ackShootDown m.unit cl number n)

/-! ### Remote names (R335, 24_system.md R423) -/

/-- n bytes at an offset of the live serial map: of this package's memory, or of the copy that the hub read at another package. -/
def State.mapBytes (s : State) (off n : Nat) : Nat :=
  if chipOf s.hub.smapLive = s.hub.chipId then s.devLoad (devOf s.hub.smapLive + off) n else ofBytes (((s.hub.smapCopy.getD (off / 64) []).drop (off % 64)).take n)

/-- The serial of entry i of the live serial map, and its chip id. -/
def State.mapSerial (s : State) (i : Nat) : Nat := s.mapBytes (16 * i) 6
def State.mapChip (s : State) (i : Nat) : Nat := s.mapBytes (16 * i + 8) 4 % 2 ^ 20

/-- A binary search of the map between two entries. Structural on the number of halvings. -/
def State.mapSearch (s : State) (ser lo hi : Nat) : Nat → Option Nat
  | 0 => none
  | n + 1 =>
    if hi ≤ lo then none
    else
      let mid := (lo + hi) / 2
      let v := s.mapSerial mid
      if v = ser then some mid else if v < ser then s.mapSearch ser (mid + 1) hi n else s.mapSearch ser lo mid n

/-- The chip that issued a serial: this one, or that of the serial map. -/
def State.chipOfSerial (s : State) (ser : BitVec 48) : Option (BitVec 20) :=
  if ser = s.hub.boot.serial then some s.hub.chipId
  else (s.mapSearch ser.toNat 0 (s.hub.smapn.toNat % 2 ^ 20) 21).map fun i => BitVec.ofNat 20 (s.mapChip i)

/-- The chip that issued a name, or 0x96. -/
def State.issuer (s : State) (n : BitVec 128) : Res (BitVec 20) :=
  match s.chipOfSerial (nameSerial n) with
  | some c => .ok c
  | none => .trap 0x96 ((nameSerial n).setWidth 64)

/-! ### Resolution at the issuing cluster (R331, R337) -/

/-- The cause of a name status (R332, R346). -/
def nameCause (status : Nat) : Nat :=
  match status with
  | 1 => 0x60
  | 2 => 0x5A
  | 3 => 0x92
  | 8 => 0x90
  | 9 => 0x91
  | 10 => 0x93
  | 11 => 0x94
  | 12 => 0x95
  | 13 => 0x98
  | 14 => 0x99
  | c => c

/-- A resolution of a slot's cluster that is not yet answered names its slot, core and generation in the reply tag. -/
def resolveTag (sl : Slot) (k : Nat) : BitVec 32 := BitVec.ofNat 32 (sl.gen % 1024 * 2 ^ 20 + k % 4 * 2 ^ 12 + coreOf k % 4096)

/-- The issuing slot stalls at a resolution; its cluster sends one unless one to the same name is pending. -/
def State.startResolve (s : State) (n : BitVec 128) (chip : BitVec 20) (right : Nat) (mark : Option Nat) : State :=
  let cl := clusterOf s.curCore
  let s := s.block (.resolve n mark) 1
  if chip = s.hub.chipId && (s.cluster cl).resolving.any (fun r => r.1 == n) then s
  else
    let tag := resolveTag s.sl s.cur
    let s := s.modCluster cl fun c => { c with resolving := c.resolving ++ [(n, tag.toNat)] }
    s.route { s.clauseMsg s.cur with
      dstChip := chip, kind := 0x38, units := 3, unit := s.nameUnit n, tag := tag, launch := 0, window := 0,
      payload := namePayload opResolve s.curCtx.vf cl n [word right] }

/-- The first global address of a chip. -/
def chipBase (chip : BitVec 20) : Word := word (chip.toNat * 2 ^ 44)

/-- `kaddr` of 0x92 at a name request, which has no address of its own: the first global address of the package that issued the name
(R346). DESIGN CHOICE, log 107. -/
def State.peerAddr (s : State) (n : BitVec 128) : Word :=
  match s.chipOfSerial (nameSerial n) with
  | some c => chipBase c
  | none => 0

/-- The resolution of a slot has failed: it raises its cause, or marks its register. A register given as 32 and its number takes
the status RETIRED of a launch name that is gone (22_launch_estimate.md R394). -/
def State.failResolve (s : State) (k : Nat) (n : BitVec 128) (mark : Option Nat) (cause : Nat) : State :=
  let a := if cause = 0x92 then s.peerAddr n else nameLow n
  match mark with
  | none => s.trapAt k cause a
  | some rd =>
    if rd < 32 then s.modSlot k fun sl => (sl.markReg false rd cause a).complete
    else if cause = 0x90 then s.modSlot k fun sl => (sl.setX (rd - 32) (word (7 * 2 ^ 60))).complete
    else s.trapAt k cause a

/-- An instruction goes on with the binding and attribute word of a name for which it needs a right: from the name cache of its
cluster, from its own resolution of a remote name, or, after a miss, when it runs again. -/
def State.withName (s : State) (n : BitVec 128) (right : Nat) (mark : Option Nat) (f : State → Word → Word → Res State) : Res State :=
  let cl := clusterOf s.curCore
  (s.issuer n).bind fun chip =>
  if chip = s.hub.chipId then
    match cacheFind (s.cluster cl).names n with
    | some e =>
      let s := s.modCluster cl fun c => { c with names := cacheTouch c.names n }
      if hasRight e.attr right true s.curCtx.vf then f s e.binding e.attr
      else match mark with
        | none => .trap 0x93 (nameLow n)
        | some _ => .ok (s.failResolve s.cur n mark 0x93)
    | none => (stallUnless (cacheRoom (s.cluster cl).names)).bind fun _ => .ok (s.startResolve n chip right mark)
  else match s.sl.resolved with
    | some (m, b, a) => if m = n then f s b a else .ok (s.startResolve n chip right mark)
    | none => .ok (s.startResolve n chip right mark)

/-- The slots of a cluster. -/
def clusterSlots (cl : Nat) : List Nat := (List.range 32).map fun i => cl * 32 + i

/-- A slot that waits for a resolution of a name runs its instruction again. -/
def Slot.again (sl : Slot) : Slot := { sl with wait := .none, skipBreak := true }

/-- What a resolution's answer does for one slot of the cluster. -/
def State.resolvedAt (s : State) (n : BitVec 128) (tag : Nat) (m : Msg) (k : Nat) : State :=
  let sl := s.slot k
  let st := fld (m.payload.getD 0 0) 0 8
  let mine := (resolveTag sl k).toNat == tag
  match sl.wait with
  | .blocked (.resolve x mark) _ _ =>
    if x ≠ n then s
    else if st = 0 then
      s.setSlot k (if nameSerial n = s.hub.boot.serial then sl.again
        else if mine then { sl.again with resolved := some (n, m.payload.getD 2 0, m.payload.getD 4 0) } else sl)
    else if st = 10 && !mine then s.setSlot k sl.again
    else s.failResolve k n mark (nameCause st)
  | _ => s

/-- The answer of a resolution reaches its cluster: the cache is filled, and every slot that waits for the name goes on. An
answer that finds no entry it may evict fills none, and the slots look the name up again (R330). -/
def State.resolveReply (s : State) (m : Msg) : State :=
  let cl := clusterOf m.dstCore.toNat
  match (s.cluster cl).resolving.find? fun r => r.2 == m.tag.toNat with
  | none => s
  | some (n, tag) =>
    let st := fld (m.payload.getD 0 0) 0 8
    let e : CachedName := { name := n, binding := m.payload.getD 2 0, attr := m.payload.getD 4 0 }
    let c := s.cluster cl
    let names := if st = 0 && nameSerial n == s.hub.boot.serial then (cacheAdd c.names e).getD c.names else c.names
    let s := s.setCluster cl { c with names := names, resolving := c.resolving.filter fun r => r.2 != tag }
    (clusterSlots cl).foldl (fun s k => s.resolvedAt n tag m k) s

/-! ### Instructions (R337 to R342) -/

/-- The sources of a name in the pair at `rs1`. -/
def namePair (k : KOps) : Src := x1 k 2

/-- Sends a name request of the issuing slot. Its entry among the requests out holds the name's low word, and for `nmcas` the
new address in place of the global address. -/
def State.sendName (s : State) (chip : BitVec 20) (n : BitVec 128) (op : Nat) (ops : List Word) (use : FarUse) (ga : Word := 0) : State :=
  let p := namePayload op s.curCtx.vf (clusterOf s.curCore) n ops
  s.sendFar s.cur 0x38 (s.nameUnit n) chip (nameLow n) ga use (p.length / 2) p

/-- The checks of a binding address that need no extent (R338, R340): its global address, its page's attribute bits and the
bytes from it to the end of its page. -/
def State.bindingTarget (s : State) (a : Word) : Res (Word × Nat × Nat) :=
  (require (fld a 48 16 == 0) 0x53 a).bind fun _ =>
  (require (!isNear a.toNat) 0x99 a).bind fun _ =>
  match s.leafFor s.curCore (s.asid s.cur) a.toNat with
  | .fail c => .trap c a
  | .ok leaf ps =>
    (require (leafW leaf) 0x51 a).bind fun _ =>
    (require (a.toNat % 64 == 0) 0x99 a).bind fun _ =>
    .ok (s.globalOf leaf ps a.toNat, leafAttr leaf, 2 ^ pageBits ps - a.toNat % 2 ^ pageBits ps)

/-- A creation word that R338 admits. -/
def creationOk (c : Word) : Bool :=
  fld c 20 44 == 0 && fld c 13 3 == 0 && !(decide (4 ≤ fld c 0 8) && decide (fld c 0 8 < 64)) && decide (fld c 8 5 ≤ 24)

/-- The attribute word of a new name: its creation word's fields, the page's bits, the owner, LIVE. -/
def newAttr (c : Word) (page vf : Nat) : Word :=
  word (2 ^ 30 + page + fld c 8 5 * 2 ^ 19 + fld c 16 4 * 2 ^ 15 + vf * 2 ^ 8 + fld c 0 8)

/-- `nmnew` (R338). With the counter used up the request carries no value, as its third operand says, and the home answers it with
status 12; without a name table there is no empty slot. Log 45. -/
def execNmnew (k : KOps) (s : State) : Host.Outcome State Fault Refusal :=
  let rd := k.rd.toNat
  .next (s.run { word := wordOf (.nmnew k), groups := [(rd, 2)], srcs := [x1 k, x2 k], dsts := [toX k 2] }
    (let c := s.sl.xr k.rs2.toNat
     let a := s.sl.xr k.rs1.toNat
     let cl := clusterOf s.curCore
     (require (creationOk c) 0x97 c).bind fun _ =>
     (s.bindingTarget a).bind fun (ga, page, room) =>
     (require (decide (64 * 2 ^ fld c 8 5 ≤ room)) 0x99 a).bind fun _ =>
     s.ordered true fun s =>
     let spent := (s.cluster cl).nameLeft = 0 && !s.hub.canIssue
     if spent && !s.hub.exhausted then
       if s.agenda.contains .nameBlockReservation then .stall
       else .ok (s.post .nameBlockReservation)
     else
       (stallUnless (s.sl.farRoom 1)).bind fun _ =>
       let r := if spent then (s.touched a, s.hub.boot.serial ++ (0 : BitVec 80)) else ((s.touched a).runOf cl).takeName cl
       let s := r.1.sendName s.hub.chipId r.2 opNew [ga, newAttr c page s.curCtx.vf, if spent then 1 else 0] (.fillX rd 8 2 false)
       .ok (s.modCur fun sl => (sl.emptyRegs false rd 2).complete)))

/-- `nmres` (R339): a local name is answered by the cluster's resolution, a remote one by one request. -/
def execNmres (k : KOps) (s : State) : Host.Outcome State Fault Refusal :=
  let n := s.sl.name k.rs1.toNat
  .next (s.run { word := wordOf (.nmres k), groups := [(k.rs1.toNat, 2)], srcs := [namePair k], dsts := [toX k] }
    ((s.issuer n).bind fun chip =>
     s.ordered true fun s =>
     if chip = s.hub.chipId then s.withName n 0 (some k.rd.toNat) fun s b _ => .ok (s.finishX k.rd.toNat b)
     else
       (stallUnless (s.sl.farRoom 1)).bind fun _ =>
       let s := s.sendName chip n opResolve [0] (.fillX k.rd.toNat 8 1 false)
       .ok (s.modCur fun sl => (sl.emptyRegs false k.rd.toNat 1).complete)))

/-- `nmcas` (R340) -/
def execNmcas (k : KOps) (s : State) : Host.Outcome State Fault Refusal :=
  let n := s.sl.name k.rs1.toNat
  .next (s.run { word := wordOf (.nmcas k), groups := [(k.rs1.toNat, 2), (k.rs2.toNat, 2)], srcs := [namePair k, x2 k 2], dsts := [toX k] }
    (let a := s.sl.xr (k.rs2.toNat + 1)
     (s.issuer n).bind fun chip =>
     (s.bindingTarget a).bind fun (ga, page, room) =>
     s.ordered true fun s =>
     (stallUnless (s.released s.cur 2 && s.sl.farRoom 1)).bind fun _ =>
     let s := (s.touched a).sendName chip n opCas [s.sl.xr k.rs2.toNat, ga, word page, word room] (.fillX k.rd.toNat 8 1 false) a
     .ok (s.modCur fun sl => (sl.emptyRegs false k.rd.toNat 1).complete)))

/-- `nmkill` (R340) -/
def execNmkill (k : KOps) (s : State) : Host.Outcome State Fault Refusal :=
  let n := s.sl.name k.rs1.toNat
  .next (s.run { word := wordOf (.nmkill k), groups := [(k.rs1.toNat, 2)], srcs := [namePair k], dsts := [toX k] }
    ((s.issuer n).bind fun chip =>
     s.ordered true fun s =>
     (stallUnless (s.released s.cur 2 && s.sl.farRoom 1)).bind fun _ =>
     let s := s.sendName chip n opKill [] (.fillX k.rd.toNat 8 1 false)
     .ok (s.modCur fun sl => (sl.emptyRegs false k.rd.toNat 1).complete)))

/-- `nmstat` (R342) -/
def execNmstat (k : KOps) (s : State) : Host.Outcome State Fault Refusal :=
  let n := s.sl.name k.rs1.toNat
  .next (s.run { word := wordOf (.nmstat k), groups := [(k.rs1.toNat, 2)], srcs := [namePair k], dsts := [toX k] }
    ((s.issuer n).bind fun chip =>
     s.ordered true fun s =>
     (stallUnless (s.sl.farRoom 1)).bind fun _ =>
     let s := s.sendName chip n opStat [] (.fillX k.rd.toNat 8 1 false)
     .ok (s.modCur fun sl => (sl.emptyRegs false k.rd.toNat 1).complete)))

/-- The checks of a name-relative access after its resolution (R341, R372), and the access: its global address and home. kaddr of 0x5C
and 0x71 is the global address: DESIGN CHOICE, log 107. -/
def relativeTarget (b attr o : Word) (n : BitVec 128) (write : Bool) : Res (Word × Nat) :=
  let g := b + o
  (require (attrClass attr != 4) 0x93 (nameLow n)).bind fun _ =>
  (require (decide (o.toNat + 8 ≤ attrExtent attr)) 0x98 o).bind fun _ =>
  (require (!attrTensed attr) 0x5C g).bind fun _ =>
  (require (!(write && attrSync attr)) 0x71 g).bind fun _ => .ok (g, homeOf (attrPlacement attr) (devOf g))

/-- `nmld` (R341) -/
def execNmld (k : KOps) (s : State) : Host.Outcome State Fault Refusal :=
  let n := s.sl.name k.rs1.toNat
  let rd := k.rd.toNat
  .next (s.run { word := wordOf (.nmld k), groups := [(k.rs1.toNat, 2)], srcs := [namePair k, x2 k], dsts := [toX k] }
    (let o := s.sl.xr k.rs2.toNat
     (require (o.toNat % 8 == 0) 0x98 o).bind fun _ =>
     (s.issuer n).bind fun chip =>
     if chip = s.hub.chipId then
       s.withName n 0 none fun s b attr =>
       (relativeTarget b attr o n false).bind fun (g, unit) =>
       s.ordered true fun s =>
       (stallUnless (s.sl.farRoom 1)).bind fun _ =>
       let s := s.modCached (clusterOf s.curCore) n fun e => { e with inFlight := e.inFlight + 1 }
       let s := s.sendRead s.cur g g unit (chipOf g) 8 (.fillX rd 8 1 false) (some n)
       .ok (s.modCur fun sl => (sl.emptyRegs false rd 1).complete)
     else
       s.ordered true fun s =>
       (stallUnless (s.sl.farRoom 1)).bind fun _ =>
       .ok ((s.sendName chip n opRead [o] .blocking).block (.name opRead rd n [o]) 1)))

/-- `nmst` (R341): the `rd` field is a data source. -/
def execNmst (k : KOps) (s : State) : Host.Outcome State Fault Refusal :=
  let n := s.sl.name k.rs1.toNat
  .next (s.run { word := wordOf (.nmst k), groups := [(k.rs1.toNat, 2)], srcs := [namePair k, x2 k, xd k] }
    (let o := s.sl.xr k.rs2.toNat
     let v := s.sl.xr k.rd.toNat
     (require (o.toNat % 8 == 0) 0x98 o).bind fun _ =>
     (s.issuer n).bind fun chip =>
     if chip = s.hub.chipId then
       s.withName n 1 none fun s b attr =>
       (relativeTarget b attr o n true).bind fun (g, unit) =>
       s.ordered true fun s =>
       (stallUnless (s.sl.farRoom 1)).bind fun _ =>
       let s := s.modCached (clusterOf s.curCore) n fun e => { e with inFlight := e.inFlight + 1 }
       .ok ((s.sendWrite s.cur 0x21 g g unit (chipOf g) (toBytes 8 v.toNat) .posted (some n)).complete)
     else
       s.ordered true fun s =>
       (stallUnless (s.sl.farRoom 1)).bind fun _ =>
       .ok ((s.sendName chip n opWrite [o, v] .blocking).block (.name opWrite 0 n [o]) 1)))

end Sys2Proof.Machine
end

