-- ==== Sys2Proof/Machine/Sync.lean ====
section
/-!
DEFINITION. Near-memory operations of 15_sync.md: atomics (R269, R270), reductions (R272) and fabric reduction windows (R273 to
R276), barrier objects with their instructions (R277 to R288), and `grp` (R289).
-/
namespace Sys2Proof.Machine

/-! ### Atomics and reductions at the core (R269 to R272) -/

/-- The checks of an atomic or reduction of n bytes (R270, R291): its global address, home unit and chip. -/
def State.atomicTarget (s : State) (a : Word) (n : Nat) (read : Bool) : Res (Word × Nat × BitVec 20) :=
  (require (a.toNat % n == 0) 0x74 a).bind fun _ =>
  (require (fld a 48 16 == 0) 0x53 a).bind fun _ =>
  (require (!isNear a.toNat) 0x73 a).bind fun _ =>
  (s.translate s.cur a).bind fun (ga, unit, chip, leaf) =>
  (require (leafW leaf && (!read || leafR leaf)) 0x51 a).bind fun _ =>
  (require (!leafTensed leaf) 0x5C a).bind fun _ =>
  (require (!leafSync leaf) 0x71 a).bind fun _ => .ok (ga, unit, chip)

/-- The payload of an atomic request: address, operation in [3:0] with natural in bit 4 and 128-bit in bit 5, operand and
comparand (R267). -/
def atomicPayload (ga : Word) (op : Nat) (natural wide : Bool) (v c : List Word) : List Word :=
  [ga, word (op + natural.toNat * 16 + wide.toNat * 32)] ++ padUnit v ++ padUnit c

/-- An atomic operation by its f3b code: it sends its request and goes on; the reply fills the `rd` group. -/
def State.amo (s : State) (i : Instr) (op : Nat) (k : KOps) : State :=
  let wide := decide (6 ≤ op) && k.w == 1
  let n := if wide then 2 else 1
  let rd := k.rd.toNat
  s.run { word := wordOf i, groups := if wide then [(k.rs2.toNat, 2), (rd, 2)] else [],
          srcs := [x1 k, x2 k n] ++ (if op = 7 then [xd k n] else []), dsts := [toX k n] }
    (let a := s.sl.xr k.rs1.toNat
     let natural := (op == 1 || op == 2) && k.w == 1
     let p := fun ga => atomicPayload ga op natural wide (s.sl.xs k.rs2.toNat n) (if op = 7 then s.sl.xs rd n else [])
     (s.atomicTarget a (8 * n) true).bind fun (ga, unit, chip) =>
     s.ordered true fun s =>
     (stallUnless (s.sl.farRoom 1)).bind fun _ =>
     let s := (s.touched a).sendFar s.cur 0x30 unit chip a ga (.fillX rd 8 n false) ((p ga).length / 2) (p ga)
     .ok (s.modCur fun sl => (sl.emptyRegs false rd n).complete))

/-- `amo.add` -/
def execAmoAdd (k : KOps) (s : State) : Host.Outcome State Fault Refusal := .next (s.amo (.amoAdd k) 0 k)
/-- `amo.min`: signed, or natural with w 01. -/
def execAmoMin (k : KOps) (s : State) : Host.Outcome State Fault Refusal := .next (s.amo (.amoMin k) 1 k)
/-- `amo.max`: signed, or natural with w 01. -/
def execAmoMax (k : KOps) (s : State) : Host.Outcome State Fault Refusal := .next (s.amo (.amoMax k) 2 k)
/-- `amo.and` -/
def execAmoAnd (k : KOps) (s : State) : Host.Outcome State Fault Refusal := .next (s.amo (.amoAnd k) 3 k)
/-- `amo.or` -/
def execAmoOr (k : KOps) (s : State) : Host.Outcome State Fault Refusal := .next (s.amo (.amoOr k) 4 k)
/-- `amo.xor` -/
def execAmoXor (k : KOps) (s : State) : Host.Outcome State Fault Refusal := .next (s.amo (.amoXor k) 5 k)
/-- `amo.swap`: 128-bit with w 01. -/
def execAmoSwap (k : KOps) (s : State) : Host.Outcome State Fault Refusal := .next (s.amo (.amoSwap k) 6 k)
/-- `amocas`: the old `rd` group is the comparand; 128-bit with w 01. -/
def execAmocas (k : KOps) (s : State) : Host.Outcome State Fault Refusal := .next (s.amo (.amocas k) 7 k)

/-- The format and the size in bytes of a `red` code (R72). -/
def redFmt (code : Nat) : Fmt := if bitsOf code 2 2 = 0 then fp32 else if bitsOf code 2 2 = 1 then fp64 else bf16
def redSize (code : Nat) : Nat := (redFmt code).width / 8

/-- One reduction: `.add` rounds to nearest even, `.min` and `.max` take minimumNumber and maximumNumber (R272). -/
def redApply (code m v : Nat) : Nat :=
  let f := redFmt code
  let x := f.decode (lowBits m f.width)
  let y := f.decode (lowBits v f.width)
  (finishFp f 0 (if bitsOf code 0 2 = 0 then Val.add .rne x y else Val.pick (bitsOf code 0 2 == 1) x y)).1

/-- `red`: posted, with its acknowledgement later. -/
def execRed (k : KOps) (s : State) : Host.Outcome State Fault Refusal :=
  .next (s.run { word := wordOf (.red k), srcs := [x1 k, x2 k] }
    (let a := s.sl.xr k.rs1.toNat
     let code := k.rd.toNat
     let v := word ((s.sl.xr k.rs2.toNat).toNat % 2 ^ (8 * redSize code))
     (s.atomicTarget a (redSize code) false).bind fun (ga, unit, chip) =>
     s.ordered true fun s =>
     (stallUnless (s.sl.farRoom 1)).bind fun _ =>
     .ok (((s.touched a).sendFar s.cur 0x31 unit chip a ga .posted 2 [ga, word code, v, 0]).complete)))

/-! ### Atomics and reductions at the home (R268, R270, R272) -/

/-- The new value of an atomic's 8 or 16 bytes, as numbers. -/
def atomicApply (op : Nat) (natural : Bool) (m v c : Nat) : Nat :=
  let x := word m
  let y := word v
  let below := if natural then x.ule y else x.sle y
  match op with
  | 0 => (x + y).toNat
  | 1 => if below then m else v
  | 2 => if below then v else m
  | 3 => (x &&& y).toNat
  | 4 => (x ||| y).toNat
  | 5 => (x ^^^ y).toNat
  | 6 => v
  | _ => if m = c then v else m

/-- A read and write of n bytes by a near-memory unit, as one access: the status and the old bytes as a number. Poison leaves
memory as it is (12_main_memory.md R235). -/
def State.applyAt (s : State) (m : Msg) (ga : Word) (n : Nat) (f : Nat → Nat) : State × Nat × Nat :=
  match s.findLine m ga false true true with
  | .refused st rec => (s.recordLost m ga rec, st, 0)
  | .at media _ =>
    let s := (s.heated m.unit (devOf ga)).detect media n
    if s.poisoned media n then (s, 1, 0)
    else
      let old := s.load media n
      ((s.store media n (f old)).checkWatches m.unit (devOf ga / 64), 0, old)

/-- An atomic is applied at its home and answered. The answer to an arrival increment names the owner of its page (20_copy.md R357). -/
def State.atomicAtHome (s : State) (m : Msg) : State :=
  s.atHome m fun s =>
    let ga := m.payload.getD 0 0
    let w := m.payload.getD 1 0
    let wide := bit w 5
    let n := if wide then 16 else 8
    let v := ofBytes (bytesOfWords ((m.payload.drop 2).take (if wide then 2 else 1)))
    let c := ofBytes (bytesOfWords ((m.payload.drop 4).take (if wide then 2 else 1)))
    let (s, st, old) := s.applyAt m ga n fun x => atomicApply (fld w 0 4) (bit w 4) x v c
    s.sendReply { m with forVf := some (BitVec.ofNat 7 (dpitOwner (s.dpit (pageOf (devOf ga))))) } 0x33
      ([word st, 0] ++ (if st = 0 then wordsOf 2 (toBytes 16 old) else []))

/-- ATOMIC_REQUEST (kind 0x30) -/
def execAtomicRequest (m : Msg) (s : State) : Host.Outcome State Fault Refusal := .next (s.orPark m fun s => s.atomicAtHome m)

/-- A reduction is applied at its home and acknowledged. -/
def State.reduceAtHome (s : State) (m : Msg) : State :=
  let code := fld (m.payload.getD 1 0) 0 5
  let (s, st, _) := s.applyAt m (m.payload.getD 0 0) (redSize code) fun x => redApply code x (m.payload.getD 2 0).toNat
  s.sendReply m 0x33 [word st, 0]

/-! ### Fabric reduction windows (R273 to R276)

The windows that this chip homes. A window that another chip homes lies beyond this package: its refusals and acknowledgements
come back as messages. -/

/-- The window that holds an address of this chip. -/
def State.windowAt (s : State) (a : Nat) : Option Window :=
  s.hub.windows.find? fun w => w.home == s.hub.chipId && decide (w.base ≤ a) && decide (a < w.base + w.len)

/-- Changes a window this chip homes. -/
def State.modWindow (s : State) (id : Nat) (f : Window → Window) : State :=
  s.modHub fun h => { h with windows := h.windows.map fun w => if w.home = h.chipId && w.id == id then f w else w }

/-- The logical index of a contributor. -/
def Window.index (w : Window) (chip : BitVec 20) : Nat := w.members.idxOf chip.toNat

/-- Pairs of neighbours combined; the last of an odd number passes up. Structural on the list. -/
def combinePairs (code : Nat) : List Nat → List Nat
  | a :: b :: t => redApply code a b :: combinePairs code t
  | l => l

/-- The combining tree of R275. Structural on a number of levels that is enough. -/
def combineTree (code : Nat) : Nat → List Nat → Nat
  | 0, l => l.headD 0
  | n + 1, l => match l with | [] => 0 | [a] => a | l => combineTree code n (combinePairs code l)

/-- The value that a reduction carries. -/
def redValue (m : Msg) : Nat := (m.payload.getD 2 0).toNat

/-- A round ends: the home applies the merged value of the contributions present as one reduction, and acknowledges each. -/
def State.endRound (s : State) (code : Nat) (r : Round) : State :=
  match r.parts with
  | [] => s
  | (_, m) :: _ =>
    let v := combineTree code 13 (r.parts.map fun p => redValue p.2)
    let (s, st, _) := s.applyAt m r.addr (redSize code) fun x => redApply code x v
    r.parts.foldl (fun s p => s.sendReply p.2 0x33 [word st, 0]) s

/-- A round has a contribution of every contributor that is still there. -/
def Window.complete (w : Window) (r : Round) : Bool :=
  w.members.zipIdx.all fun m => w.gone.contains m.1 || (r.parts.find m.2).isSome

/-- The rounds of a window with one element's round replaced; one without contributions is dropped. -/
def setRound (rs : List Round) (r : Round) : List Round :=
  rs.filter (fun x => x.addr != r.addr) ++ (if r.parts.isEmpty && r.held.isEmpty then [] else [r])

/-- A contribution joins the round of its element; the second one of a contributor is held for the next round. -/
def Round.join (w : Window) (r : Round) (m : Msg) : Round :=
  let i := w.index m.srcChip
  if (r.parts.find i).isSome then { r with held := r.held ++ [m] } else { r with parts := r.parts.set i m }

/-- The round that follows: the held contributions join it in order. -/
def Round.next (w : Window) (r : Round) : Round := r.held.foldl (fun x m => x.join w m) { addr := r.addr }

/-- Rounds of one element that are complete end one after the other. Structural on a number that the held contributions
bound. -/
def State.settleRound (s : State) (id : Nat) (r : Round) : Nat → State
  | 0 => s
  | n + 1 =>
    match s.hub.windows.find? fun w => w.home == s.hub.chipId && w.id == id with
    | none => s
    | some w =>
      if !r.parts.isEmpty && w.complete r then (s.endRound w.code r).settleRound id (r.next w) n
      else s.modWindow id fun w => { w with rounds := setRound w.rounds r }

/-- A contribution reaches its window (R273 to R275): another code or chip is refused with status 2; in free mode it is one
reduction; under REPRO it waits for its round. -/
def State.contribute (s : State) (w : Window) (m : Msg) : State :=
  let ga := m.payload.getD 0 0
  if fld (m.payload.getD 1 0) 0 5 ≠ w.code || !w.members.contains m.srcChip.toNat then s.sendReply m 0x33 [2, 0]
  else
    let who := (m.srcChip, tagCore m.tag, m.ctx, m.launch)
    let s := s.modWindow w.id fun w => { w with asked := if w.asked.contains who then w.asked else w.asked ++ [who] }
    if !w.repro then s.reduceAtHome m
    else
      let r := (w.rounds.find? fun r => r.addr == ga).getD { addr := ga }
      let r := r.join w m
      s.settleRound w.id r (r.held.length + 2)

/-- A reduction arrives. -/
def State.reductionArrives (s : State) (m : Msg) : State :=
  s.atHome m fun s =>
    match s.windowAt (devOf (m.payload.getD 0 0)) with
    | some w => s.contribute w m
    | none => s.reduceAtHome m

/-- REDUCTION_REQUEST (kind 0x31) -/
def execReductionRequest (m : Msg) (s : State) : Host.Outcome State Fault Refusal := .next (s.orPark m fun s => s.reductionArrives m)

/-- FABRIC_COMBINE: what a switch forwards for a window reaches the home, in the order of its line (R268): in free mode a merged result,
under REPRO a contribution to its round. -/
def execFabricCombine (window : Nat) (m : Msg) (s : State) : Host.Outcome State Fault Refusal :=
  .next (s.atHome m fun s => match s.hub.windows.find? fun w => w.home == s.hub.chipId && w.id == window with
    | some w => s.contribute w m
    | none => s.reduceAtHome m)

/-- The notice 0x0070 to the contexts that contribute (R276). -/
def State.noticeLost (s : State) (w : Window) (chip : BitVec 20) : State :=
  (w.asked.filter fun a => a.1 != chip).foldl (fun s (c, core, ctx, launch) =>
    let m : Msg := { dstChip := c, dstCore := BitVec.ofNat 12 core, chan := 254, kind := 0x0D, units := 2, srcVf := 0,
                     key := deviceKey 0x03 (s.hub.chipId.toNat + w.id * 2 ^ 20), ctx := ctx, launch := launch,
                     payload := [noticeWord 0x0070 0 0, word w.id, word chip.toNat, 0] }
    if c = s.hub.chipId then s.sendDevice m else s.route { m with stamp := s.stamp, srcChip := s.hub.chipId }) s

/-- Every open round of a window ends with the contributions present; those held for later rounds follow in their rounds. -/
def State.endRounds (s : State) (id code : Nat) (rs : List Round) : State :=
  let s := s.modWindow id fun w => { w with rounds := w.rounds.filter fun x => !rs.any fun r => r.addr == x.addr }
  rs.foldl (fun s r =>
    match s.hub.windows.find? fun w => w.home == s.hub.chipId && w.id == id with
    | some w => (s.endRound code r).settleRound id (r.next w) (r.held.length + 2)
    | none => s.endRound code r) s

/-- A contributor is withdrawn from a window (R276): open rounds end, the status block turns INCOMPLETE with the contributor's
bit set, and the remaining contributors' contexts are told. -/
def State.withdraw (s : State) (id : Nat) (chip : BitVec 20) : State :=
  match s.hub.windows.find? fun w => w.home == s.hub.chipId && w.id == id with
  | none => s
  | some w =>
    if !w.members.contains chip.toNat || w.gone.contains chip.toNat then s
    else
      let s := s.modWindow id fun w => { w with gone := w.gone ++ [chip.toNat] }
      let s := s.endRounds id w.code w.rounds
      let a := devOf w.status
      let i := w.index chip
      let s := s.devWrite a [2]
      let s := s.devWrite (a + 64 + i / 8) [BitVec.ofNat 8 (s.devLoad (a + 64 + i / 8) 1 ||| 2 ^ (i % 8))]
      s.noticeLost w chip

/-- CONTRIBUTOR_WITHDRAWAL -/
def execContributorWithdrawal (window : Nat) (chip : BitVec 20) (s : State) : Host.Outcome State Fault Refusal :=
  .next (s.withdraw window chip)

/-! ### Barrier instructions (R278 to R287) -/

/-- A name's binding is a barrier object: of the barrier class, in a `SYNC_OBJECT` page (R279). -/
def isBarrier (b attr : Word) : Res Unit := require (attrClass attr == 1 && attrSync attr) 0x75 b

/-- The unit of an object by its binding and attribute word. -/
def objectUnit (b attr : Word) : Nat := homeOf (attrPlacement attr) (devOf b)

/-- A blocking barrier request of the issuing slot. -/
def State.barrierOp (s : State) (n : BitVec 128) (b attr : Word) (op rd number : Nat) (operand : Word) : Res State :=
  s.ordered true fun s =>
  (stallUnless (s.sl.farRoom 1)).bind fun _ =>
  .ok ((s.sendFar s.cur 0x32 (objectUnit b attr) (chipOf b) b b .blocking 2 (barrierPayload b op number operand)).block
    (.barrier op rd n (if op = 1 then operand else word number)) 1)

/-- The registration of the issuing clause at a barrier. -/
def State.registered (s : State) (n : BitVec 128) : Option Registration := s.sl.clause.regs.find? fun r => r.name == n

/-- `barjoin` (R281) -/
def execBarjoin (k : KOps) (s : State) : Host.Outcome State Fault Refusal :=
  let n := s.sl.name k.rs1.toNat
  .next (s.run { word := wordOf (.barjoin k), groups := [(k.rs1.toNat, 2)], srcs := [namePair k], dsts := [toX k] }
    (s.withName n 0 none fun s b attr =>
     (isBarrier b attr).bind fun _ =>
     match s.registered n with
     | some g => .ok (s.finishX k.rd.toNat (word g.number))
     | none =>
       (require (decide (s.sl.clause.regs.length < 4)) 0x79 4).bind fun _ =>
       s.unlessFault ((s.indexFault s.cur).or (s.regsFault s.cur))
         ((s.barrierOp n b attr 0 k.rd.toNat 0 0).bind fun s => .ok (s.giveIndex s.cur))))

/-- `barinit` (R280): count in [10:0] and scope in [13:12] of its operand. -/
def execBarinit (k : KOps) (s : State) : Host.Outcome State Fault Refusal :=
  let n := s.sl.name k.rs1.toNat
  .next (s.run { word := wordOf (.barinit k), groups := [(k.rs1.toNat, 2)], srcs := [namePair k, x2 k] }
    (s.withName n 0 none fun s b attr =>
     let v := s.sl.xr k.rs2.toNat
     (isBarrier b attr).bind fun _ =>
     (require (fld v 14 50 == 0 && fld v 11 1 == 0 && decide (1 ≤ fld v 0 11) && decide (fld v 0 11 ≤ 1024)) 0x77 v).bind fun _ =>
     s.barrierOp n b attr 1 0 0 v))

/-- An arrival at issue (R282): its registration, and the wait set of the barrier's scope. -/
def State.arrival (s : State) (n : BitVec 128) (b attr : Word) (op rd : Nat) : Res State :=
  match s.registered n with
  | none => .trap 0x78 b
  | some g =>
    (stallUnless (s.released s.cur (s.barrierScope n b))).bind fun _ => s.barrierOp n b attr op rd g.number 0

/-- `bararr` -/
def execBararr (k : KOps) (s : State) : Host.Outcome State Fault Refusal :=
  let n := s.sl.name k.rs1.toNat
  .next (s.run { word := wordOf (.bararr k), groups := [(k.rs1.toNat, 2)], srcs := [namePair k], dsts := [toX k] }
    (s.withName n 0 none fun s b attr =>
     (isBarrier b attr).bind fun _ => s.arrival n b attr 2 k.rd.toNat))

/-- `bardrop` -/
def execBardrop (k : KOps) (s : State) : Host.Outcome State Fault Refusal :=
  let n := s.sl.name k.rs1.toNat
  .next (s.run { word := wordOf (.bardrop k), groups := [(k.rs1.toNat, 2)], srcs := [namePair k], dsts := [toX k] }
    (s.withName n 0 none fun s b attr =>
     (isBarrier b attr).bind fun _ => s.arrival n b attr 5 k.rd.toNat))

/-- The wait of `barwait` and of the second half of `baraw` (R283, R284): a suspension whose request leaves with it. -/
def State.barrierWait (s : State) (n : BitVec 128) (b attr : Word) (op rd : Nat) (past : Word) : Res State :=
  (s.mayLeave s.cur).bind fun _ =>
  s.ordered true fun s => s.suspend (.barrier op rd n b (objectUnit b attr) (chipOf b) past)

/-- `barwait` -/
def execBarwait (k : KOps) (s : State) : Host.Outcome State Fault Refusal :=
  let n := s.sl.name k.rs1.toNat
  .next (s.run { word := wordOf (.barwait k), groups := [(k.rs1.toNat, 2)], srcs := [namePair k, x2 k], dsts := [toX k] }
    (s.withName n 0 none fun s b attr =>
     (isBarrier b attr).bind fun _ => s.barrierWait n b attr 3 k.rd.toNat (s.sl.xr k.rs2.toNat)))

/-- `baraw`: the arrival where `kstat.AP` is 0, then the wait past the phase it arrived in (R284). -/
def execBaraw (k : KOps) (s : State) : Host.Outcome State Fault Refusal :=
  let n := s.sl.name k.rs1.toNat
  .next (s.run { word := wordOf (.baraw k), groups := [(k.rs1.toNat, 2)], srcs := [namePair k], dsts := [toX k] }
    (s.withName n 0 none fun s b attr =>
     (isBarrier b attr).bind fun _ =>
     if s.sl.ap then s.barrierWait n b attr 4 k.rd.toNat (s.sl.xr k.rd.toNat) else s.arrival n b attr 4 k.rd.toNat))

/-- `barinv`: the object turns INVALID, then the name is killed (R287). The kill is a release at package scope (19_names.md R340), and
its wait is made before the object is touched. DESIGN CHOICE, log 108. -/
def execBarinv (k : KOps) (s : State) : Host.Outcome State Fault Refusal :=
  let n := s.sl.name k.rs1.toNat
  .next (s.run { word := wordOf (.barinv k), groups := [(k.rs1.toNat, 2)], srcs := [namePair k] }
    (s.withName n 3 none fun s b attr =>
     (isBarrier b attr).bind fun _ => (stallUnless (s.released s.cur 2)).bind fun _ => s.barrierOp n b attr 6 0 0 0))

/-! ### Barrier objects at the home (R277, R279 to R283, R287) -/

/-- The request of a barrier waiter. -/
def barOp (m : Msg) : Nat := fld (m.payload.getD 1 0) 0 8
def barNumber (m : Msg) : Nat := fld (m.payload.getD 1 0) 8 10
def barOperand (m : Msg) : Word := m.payload.getD 2 0

/-- The window in which a waiter's resume is delivered: that after the window of the operation that completes the phase, in the
same launch (R288). -/
def State.resumeWindow (s : State) (by_ w : Msg) : Nat := if w.launch = by_.launch then by_.window else (s.launch w.launch).window

/-- All waiters of an object are resumed with a status and the phase. -/
def State.resumeWaiters (s : State) (m : Msg) (rstat : BitVec 4) (phase status : Nat) : State :=
  let ga := watchWord m
  let ws := (s.stack m.unit).waiters.filter fun w => watchWord w == ga
  let s := s.modStack m.unit fun k => { k with waiters := k.waiters.filter fun w => watchWord w != ga }
  ws.foldl (fun s w => s.homeResumes w (s.resumeWindow m w) rstat (word phase) (word status)) s

/-- The answer of a barrier operation: status, phase, and the participant number of a join. -/
def State.barrierAnswer (s : State) (m : Msg) (status phase : Nat) (ws : List Word) : State :=
  s.sendReply m 0x33 ([word (status + phase * 2 ^ 16), 0] ++ ws)

/-- An arrival by a participant (R282), explicit, by a drop or implicit. -/
def State.arriveAt (s : State) (m : Msg) (a : Nat) : State :=
  let p := barNumber m
  let drop := barOp m == 5 || barOp m == implicitDropCode
  let phase := s.load (a + 8) 4
  let d := s.load (a + 12) 4
  let row := s.load (a + 64 + p / 8) 1
  if s.load (a + 18) 1 ≠ 1 then s.barrierAnswer m 19 0 []
  else if bitOf row (p % 8) then
    if barOp m = implicitDropCode then (s.store (a + 12) 4 (d + 1)).barrierAnswer m 0 phase []
    else s.barrierAnswer m 20 0 []
  else
    let n := s.load (a + 4) 4 + 1
    let e := s.load a 4
    let d := if drop then d + 1 else d
    let s := s.store (a + 64 + p / 8) 1 (row + 2 ^ (p % 8))
    let s := ((s.store (a + 4) 4 n).store (a + 12) 4 d).barrierAnswer m 0 phase []
    if n ≠ e then s
    else
      let next := (phase + 1) % 2 ^ 32
      let s := (((s.store (a + 8) 4 next).store a 4 (e - d)).store (a + 12) 4 0).store (a + 4) 4 0
      ((s.store (a + 64) 128 0).store (a + 20) 4 0).resumeWaiters m 0 next 0

/-- A wait at an object (R283): answered at once, or held until the phase changes. -/
def State.waitAt (s : State) (m : Msg) (a : Nat) : State :=
  let state := s.load (a + 18) 1
  let phase := s.load (a + 8) 4
  let at_ := fun rs w0 w1 => s.homeResumes m m.window rs (word w0) (word w1)
  if state = 0 then at_ 0 0 16
  else if state ≠ 1 then at_ 2 phase 19
  else if phase ≠ fld (barOperand m) 0 32 then at_ 0 phase 0
  else
    let s := s.store (a + 20) 4 (s.load (a + 20) 4 + 1)
    s.modStack m.unit fun k => { k with waiters := k.waiters ++ [m] }

/-- A barrier operation at the object that lies at a media byte. -/
def State.barrierAt (s : State) (m : Msg) (a : Nat) : State :=
  let state := s.load (a + 18) 1
  match barOp m with
  | 0 =>
    let n := s.load (a + 16) 2
    if state ≠ 1 then s.barrierAnswer m 16 0 []
    else if 1024 ≤ n then s.barrierAnswer m 18 0 []
    else (s.store (a + 16) 2 (n + 1)).barrierAnswer m 0 0 [word n, 0]
  | 1 =>
    if state = 1 then s.barrierAnswer m 17 0 []
    else
      let v := barOperand m
      let s := ((s.store a 24 0).store (a + 64) 128 0).store a 4 (fld v 0 11)
      ((s.store (a + 19) 1 (fld v 12 2)).store (a + 18) 1 1).barrierAnswer m 0 0 []
  | 3 => s.waitAt m a
  | 6 =>
    let s := ((s.store (a + 18) 1 2).store (a + 20) 4 0).barrierAnswer m 0 0 []
    s.resumeWaiters m 2 (s.load (a + 8) 4) 19
  | _ => s.arriveAt m a

/-- A barrier operation arrives at its home (R279): refused or poisoned, or performed. Poison in any of the object's 256 bytes counts:
DEDUCED, log 122. -/
def State.barrierAtHome (s : State) (m : Msg) : State :=
  s.atHome m fun s =>
    let ga := watchWord m
    let fail := fun (s : State) (st : Nat) =>
      if barOp m = 3 then s.homeResumes m m.window 0 0 (word st) else s.barrierAnswer m st 0 []
    match s.findLine m ga false true true with
    | .refused st rec => fail (s.recordLost m ga rec) st
    | .at a _ =>
      let s := s.heated m.unit (devOf ga)
      if s.poisoned a 256 then fail s 1 else s.barrierAt m a

/-- BARRIER_OPERATION (kind 0x32) -/
def execBarrierOperation (m : Msg) (s : State) : Host.Outcome State Fault Refusal := .next (s.orPark m fun s => s.barrierAtHome m)

/-- The cause and `kaddr` of a barrier status at the issuing slot (R279, R291). The address is the binding's: DEDUCED, log 106. -/
def barrierCause (status : Nat) (n : BitVec 128) (ga number : Word) : Nat × Word :=
  match status with
  | 1 => (0x60, ga)
  | 2 => (0x5A, ga)
  | 16 => (0x75, ga)
  | 17 => (0x76, ga)
  | 18 => (0x79, 1024)
  | 19 => (0x90, nameLow n)
  | 20 => (0x70, number)
  | _ => (0x92, ga)

/-! ### `grp` (R289) -/

/-- A blocking read of a slot for n bytes of the group table: the bytes where the table is near, else the request sent. -/
def State.groupRead (s : State) (k : Nat) (va : Word) (n : Nat) : Res (State × Option (List Byte)) :=
  (s.access k .read va n).bind fun t =>
  match t with
  | .near t => (require (s.nearError t n).isNone 0x5B va).bind fun _ => .ok (s.corrected t n, some (s.nearBytes k t n))
  | .far ga unit chip _ =>
    (stallUnless ((s.slot k).farRoom 1)).bind fun _ =>
    .ok ((s.fillTlb (coreOf k) (s.asid k) va.toNat).sendRead k va ga unit chip n .blocking, none)

/-- The entry of a group has come: its checks, then the read of the member at the rank. -/
def State.groupMember (s : State) (k rd g : Nat) (r base : Word) (entry : List Byte) : Res State :=
  let size := ofBytes ((entry.drop 8).take 4)
  (require (size != 0) 0x7A (word g)).bind fun _ =>
  (require (decide (r.toNat < size)) 0x37 r).bind fun _ =>
  (s.groupRead k (base + word (ofBytes (entry.take 8)) + word (2 * r.toNat)) 2).bind fun (s, got) =>
  match got with
  | some bs => .ok (s.modSlot k fun sl => (sl.setX rd (word (ofBytes bs))).complete)
  | none => .ok (s.modSlot k fun sl => { sl with wait := .blocked (.group rd g r base true) 1 [] })

/-- `grp` -/
def execGrp (k : KOps) (s : State) : Host.Outcome State Fault Refusal :=
  let rd := k.rd.toNat
  .next (s.run { word := wordOf (.grp k), srcs := [x1 k, x2 k], dsts := [toX k] }
    (let g := fld (s.sl.xr k.rs1.toNat) 0 8
     let r := s.sl.xr k.rs2.toNat
     let base := (s.launch s.sl.clause.launch).packet.getD 5 0
     (require (base != 0) 0x7A (word g)).bind fun _ =>
     s.ordered false fun s =>
     (s.groupRead s.cur (base + word (32 * g)) 32).bind fun (s, got) =>
     match got with
     | some bs => s.groupMember s.cur rd g r base bs
     | none => .ok (s.block (.group rd g r base false) 1)))

end Sys2Proof.Machine
end

