-- ==== Sys2Proof/Machine/Copy.lean ====
section
/-!
DEFINITION. Copy and transfer engines (20_copy.md): the layout descriptor (R349 to R352), endpoints and tiles (R353, R354), issue
(R355, R356, R362), the running of commands row by row (R347, R350, R351, R359), arrivals (R357), and the id instructions (R358,
R360, R363). Engines 0 to 511 are the cluster copy engines, engine 512 + n is transfer engine n.
-/
namespace Sys2Proof.Machine

/-! ### Descriptors (R349 to R352) -/

/-- n bytes of a descriptor from an offset, as a number. -/
def dsc (d : List Byte) (o n : Nat) : Nat := ofBytes ((d.drop o).take n)

def dSrc (d : List Byte) : Nat := dsc d 0 6
def dDst (d : List Byte) : Nat := dsc d 6 6
def dArrive (d : List Byte) : Nat := dsc d 12 6
def dScale (d : List Byte) : Nat := dsc d 18 6

/-- Source stride of dimension 1 to 3, and the destination strides, in bytes. -/
def dS (d : List Byte) (i : Nat) : Int := sext (dsc d (20 + 4 * i) 4) 32
def dD (d : List Byte) (i : Nat) : Int := sext (dsc d (32 + 4 * i) 4) 32

/-- The extent of dimension 0 to 2. -/
def dN (d : List Byte) (i : Nat) : Nat := dsc d (48 + 2 * i) 2
def dSfmt (d : List Byte) : Nat := dsc d 54 1 % 16
def dDfmt (d : List Byte) : Nat := dsc d 54 1 / 16
def dPerm (d : List Byte) (m : Nat) : Nat := bitsOf (dsc d 55 1) (2 * m) 2
def dCtl (d : List Byte) : Nat := dsc d 56 1
def dMode (d : List Byte) : Rounding := Rounding.ofCode (bitsOf (dCtl d) 0 2)
def dSat (d : List Byte) : Bool := bitOf (dCtl d) 2
def dMx (d : List Byte) : Bool := bitOf (dCtl d) 3
def dAmsg (d : List Byte) : Bool := bitOf (dCtl d) 4
def dGuard (d : List Byte) : Bool := bitOf (dCtl d) 5
def dChan (d : List Byte) : Nat := dsc d 57 1
def dChunk (d : List Byte) : Nat := dsc d 58 2
def dRoute (d : List Byte) : Nat := dsc d 60 4

/-- The type and width of a format code (R351): code 7 is `f32`. -/
def cpyType (code : Nat) : NumType := if code = 7 then .fp fp32 else elemType code
def cpyWidth (code : Nat) : Nat := (cpyType code).width

/-- A format code that is not reserved. -/
def cpyFmt (code : Nat) : Bool := code != 10 && code != 11 && code != 14 && code != 15

/-- A conversion that R351 allows. -/
def cpyPair (a b : Nat) : Bool :=
  a == b || (decide (a < 8) && decide (b < 8) && (a == 7 || b == 7 || (decide (a ≤ 1) && decide (2 ≤ b)) || (decide (a ≤ 1) && decide (b ≤ 1))))

/-- The destination dimension whose index is i[k]. -/
def destDim (d : List Byte) (k : Nat) : Nat := ([0, 1, 2, 3].find? fun m => dPerm d m == k).getD 0

/-- PERM is a permutation. -/
def permOk (d : List Byte) : Bool := [0, 1, 2, 3].all fun k => [0, 1, 2, 3].any fun m => dPerm d m == k

/-- A descriptor that R352 calls malformed, before its count is known. -/
def malformed (d : List Byte) (transfer : Bool) : Bool :=
  let n := dN d (dPerm d 0)
  let known := dPerm d 0 != 3
  bitsOf (dCtl d) 6 2 != 0 || dN d 0 == 0 || dN d 1 == 0 || dN d 2 == 0 || !cpyFmt (dSfmt d) || !cpyFmt (dDfmt d)
    || !cpyPair (dSfmt d) (dDfmt d) || !permOk d || dN d 0 * cpyWidth (dSfmt d) % 8 != 0
    || (known && n * cpyWidth (dDfmt d) % 8 != 0)
    || (dMx d && (!(dSfmt d == 7 || decide (dSfmt d ≤ 1)) || !mxElem (dDfmt d) || dScale d == 0 || (known && n % 32 != 0)))
    || (!dMx d && dScale d != 0) || (!dAmsg d && (dChan d != 0 || dRoute d != 0))
    || (!transfer && (dSfmt d != dDfmt d || dsc d 55 1 != 0xE4 || dMx d))

/-- The conditions of R352 on a count that is N'0. -/
def countMalformed (d : List Byte) (n3 : Nat) : Bool :=
  dPerm d 0 == 3 && (n3 * cpyWidth (dDfmt d) % 8 != 0 || (dMx d && n3 % 32 != 0))

/-- The step of a destination dimension in bits. -/
def destStep (d : List Byte) (m : Nat) : Int := if m = 0 then cpyWidth (dDfmt d) else 8 * dD d m

/-- The source and destination bit positions of an element (R350). -/
def srcBit (d : List Byte) (i0 i1 i2 i3 : Nat) : Int :=
  8 * (dSrc d + i1 * dS d 1 + i2 * dS d 2 + i3 * dS d 3) + i0 * cpyWidth (dSfmt d)
def dstBit (d : List Byte) (i0 i1 i2 i3 : Nat) : Int :=
  8 * dDst d + i0 * destStep d (destDim d 0) + i1 * destStep d (destDim d 1) + i2 * destStep d (destDim d 2) + i3 * destStep d (destDim d 3)

/-! ### Spans and tiles (R353, R354) -/

/-- The least and greatest offset of an index from a to b times a step. -/
def stepSpan (st : Int) (a b : Nat) : Int × Int := if 0 ≤ st then (a * st, b * st) else (b * st, a * st)

/-- The first and the last byte that rows a to b touch, from a base and the steps in bits of i0 to i3. -/
def byteSpan (d : List Byte) (base : Nat) (steps : Nat → Int) (w a b : Nat) : Int × Int :=
  let s0 := stepSpan (steps 0) 0 (dN d 0 - 1)
  let s1 := stepSpan (steps 1) 0 (dN d 1 - 1)
  let s2 := stepSpan (steps 2) 0 (dN d 2 - 1)
  let s3 := stepSpan (steps 3) a b
  ((8 * base + s0.1 + s1.1 + s2.1 + s3.1) / 8, (8 * base + s0.2 + s1.2 + s2.2 + s3.2 + w - 1) / 8)

/-- The span of the source, or of the destination. -/
def srcSpan (d : List Byte) (a b : Nat) : Int × Int :=
  byteSpan d (dSrc d) (fun k => if k = 0 then cpyWidth (dSfmt d) else 8 * dS d k) (cpyWidth (dSfmt d)) a b
def dstSpan (d : List Byte) (a b : Nat) : Int × Int :=
  byteSpan d (dDst d) (fun k => destStep d (destDim d k)) (cpyWidth (dDfmt d)) a b

/-- The first virtual address of the scratchpad. -/
def padVa : Nat := 15 * 2 ^ 44 + padBase

/-- A virtual address lies in the scratchpad. -/
def inPad (va : Int) : Bool := decide ((padVa : Int) ≤ va) && decide (va < padVa + padSize)

/-- The tiles from a first to a last byte of the scratchpad. -/
def spanTiles (p : Int × Int) : List Nat :=
  let lo := (p.1 - padVa).toNat / 4096
  (List.range ((p.2 - padVa).toNat / 4096 + 1 - lo)).map fun i => lo + i

/-- The scratchpad tiles that rows a to b - 1 of a command touch. -/
def cmdTiles (d : List Byte) (a b : Nat) : List Nat :=
  if b ≤ a then []
  else (if isNear (dSrc d) then spanTiles (srcSpan d a (b - 1)) else [])
    ++ (if isNear (dDst d) then spanTiles (dstSpan d a (b - 1)) else [])

/-! ### Engines -/

def State.engine (s : State) (e : Nat) : Engine := if e < 512 then (s.cluster e).engine else s.hub.transfers.get (e - 512) {}
def State.setEngine (s : State) (e : Nat) (x : Engine) : State :=
  if e < 512 then s.modCluster e fun c => { c with engine := x } else s.modHub fun h => { h with transfers := h.transfers.set (e - 512) x }
def State.modEngine (s : State) (e : Nat) (f : Engine → Engine) : State := s.setEngine e (f (s.engine e))

/-- Commands that an engine's queue holds (R347). -/
def queueLimit (e : Nat) : Nat := if e < 512 then 32 else 64

/-- The engine number of an id, and the device source of an engine (R121). -/
def engineNumber (e : Nat) : Nat := if e < 512 then e else e - 512
def engineKey (e : Nat) : Word := deviceKey (if e < 512 then 0x20 else 0x30) (engineNumber e * 2 ^ 31)

/-- The reply tag of an engine's requests: kind 0, bit 19 set, the engine in [29:20] and the issuing core in [11:0]. -/
def engineTag (e core : Nat) : BitVec 32 := BitVec.ofNat 32 (e * 2 ^ 20 + 2 ^ 19 + core % 4096)
def tagEngine (t : BitVec 32) : Option Nat := if tagKind t = 0 && tagVec t then some (tagGen t) else none

/-- A command id (R358). -/
def commandId (e vf : Nat) (stream : Bool) (seq : BitVec 32) : Word :=
  word ((if e < 512 then 0xC1 else 0xC2) * 2 ^ 56 + stream.toNat * 2 ^ 55 + vf % 128 * 2 ^ 48 + engineNumber e * 2 ^ 39 + seq.toNat)

/-- A status word (R360). -/
def statusWord (state cause row : Nat) : Word := word (state * 2 ^ 60 + cause * 2 ^ 52 + row % 2 ^ 32)

def stDone : Nat := 2
def stStopped : Nat := 3
def stFaulted : Nat := 4
def stKilled : Nat := 5
def stRetired : Nat := 6

/-- The function of an id. -/
def idVf (id : Word) : Nat := fld id 48 7

/-- A terminal status is kept until 256 later commands of its function have ended (R360). -/
def Engine.keep (x : Engine) (id status : Word) : Engine :=
  let v := idVf id
  let n := x.ended.get v 0 + 1
  { x with ended := x.ended.set v n, kept := (x.kept.filter fun k => idVf k.1 != v || decide (n < k.2.2 + 256)) ++ [(id, status, n)] }

/-- Tiles are THREAD again, but for those that a queued command names, or the running one in the rows that it has left (R354). -/
def State.returnTiles (s : State) (e : Nat) (ts : List Nat) : State :=
  if 512 ≤ e then s
  else
    let x := s.engine e
    let later := (x.queue.map fun c => cmdTiles c.desc c.start c.count).flatten
      ++ (match x.running with | some c => cmdTiles c.desc c.row c.count | none => [])
    s.modCluster e fun c => { c with owner := (ts.filter fun t => !later.contains t).foldl (fun o t => o.set t false) c.owner }

/-- A command's stream gets no further element (R356). -/
def State.endStream (s : State) (e : Nat) (id : Word) : State :=
  if e < 512 && bit id 55 then
    (s.modCluster e fun c =>
      match c.streams.find id.toNat with
      | some t => { c with streams := c.streams.set id.toNat { t with ended := true } }
      | none => c).streamOver e id.toNat
  else s

/-- A command has reached a terminal state (R359): its status is kept, the tiles that it still owns are returned, a fault sends its notice, and the
engine looks for the next command. -/
def State.endCmd (s : State) (e : Nat) (c : Cmd) (state cause : Nat) : State :=
  let s := s.modEngine e fun x => x.keep c.id (statusWord state cause c.row)
  let s := (s.endStream e c.id).returnTiles e (cmdTiles c.desc c.row c.count)
  let s :=
    if state = stFaulted then
      s.sendDevice { dstChip := s.hub.chipId, dstCore := BitVec.ofNat 12 c.core, chan := 254, kind := 0x0D, units := 2,
                     srcVf := BitVec.ofNat 7 c.vf, key := engineKey e, ctx := BitVec.ofNat 2 c.ctx, launch := c.launch,
                     payload := [noticeWord 0x00A0 cause 0, c.id, word c.row, 0] }
    else s
  let s := s.modLaunch c.launch fun l => { l with commands := l.commands - 1 }
  (s.post (.launchCompletion c.launch)).post (.engineCommandStart e)

/-- The running command of an engine has reached a terminal state. -/
def State.endRunning (s : State) (e : Nat) (c : Cmd) (state cause : Nat) : State :=
  (s.modEngine e fun x => { x with running := none }).endCmd e c state cause

/-- The debug module holds a cluster copy engine (25_debug.md R432). -/
def State.engineHalted (s : State) (e : Nat) : Bool := decide (e < 512) && (s.debug e).halted

/-- The functions with queued commands. -/
def queuedVfs : List Cmd → List Nat
  | [] => []
  | c :: t => insertNat (queuedVfs t) c.vf

/-- ENGINE_COMMAND_START: an idle engine starts the next command: functions take turns, in issue order within one (R347). -/
def State.startCmd (s : State) (e : Nat) : State :=
  let x := s.engine e
  if x.running.isSome || s.engineHalted e then s
  else
    match roundRobin x.lastVf (queuedVfs x.queue) with
    | none => s
    | some v =>
      match x.queue.find? fun c => c.vf == v with
      | none => s
      | some c => (s.setEngine e { x with queue := x.queue.erase c, running := some { c with running := true }, lastVf := v }).post (.engineRow e)

/-- ENGINE_COMMAND_START -/
def execEngineCommandStart (engine : Nat) (s : State) : Host.Outcome State Fault Refusal := .next (s.startCmd engine)

/-! ### One row (R350, R351, R359) -/

/-- Where a far or near access of an engine goes. -/
inductive EngineAccess where
  | near (a : Nat)
  | home (ga : Word) (unit : Nat)
  | remote (ga : Word) (unit : Nat) (chip : BitVec 20)
  | fault (cause : Nat)
  deriving DecidableEq, Repr

/-- The checks of an engine's access to n bytes of a line (R353, R354, R359). -/
def State.engineAccess (s : State) (e : Nat) (c : Cmd) (va n : Nat) (write : Bool) : EngineAccess :=
  if isNear va then
    let cl := va - padVa
    let o := (s.cluster e).owner
    if 512 ≤ e || !inPad va || !o.get (tileOf cl) false || !o.get (tileOf (cl + n - 1)) false then .fault 0xA0 else .near (padAddr e cl)
  else if 2 ^ 48 ≤ va then .fault 0x50
  else match s.leafFor (engineCache e) c.asid va with
    | .fail f => .fault f
    | .ok leaf ps =>
      let ga := s.globalOf leaf ps va
      let unit := homeOf (leafPlacement leaf) (devOf ga)
      if !(if write then leafW leaf else leafR leaf) then .fault 0x51
      else if leafTensed leaf then .fault 0x5C
      else if write && leafSync leaf then .fault 0x71
      else if chipOf ga = s.hub.chipId then .home ga unit
      else if s.chipDown (chipOf ga).toNat then .fault 0x92
      else .remote ga unit (chipOf ga)

/-- The engine has translated an address for a command: its translation cache is filled (24_system.md R411). -/
def State.engineTouched (s : State) (e : Nat) (c : Cmd) (va : Nat) : State :=
  if isNear va || 2 ^ 48 ≤ va then s else s.fillTlb (engineCache e) c.asid va

/-- A translation that fails for want of an entry is recorded where a home refused its walk (12_main_memory.md R226). -/
def State.engineFault (s : State) (e : Nat) (c : Cmd) (va f : Nat) : State :=
  if f = causeAbsent && !isNear va && decide (va < 2 ^ 48) then s.walkRecord (engineCache e) c.asid c.vf (word va) else s

/-- The request of an engine as a home sees it. -/
def State.engineMsg (s : State) (e : Nat) (c : Cmd) (unit : Nat) : Msg :=
  { srcChip := s.hub.chipId, srcVf := BitVec.ofNat 7 c.vf, unit := unit, tag := engineTag e c.core, key := engineKey e, launch := c.launch,
    ctx := BitVec.ofNat 2 c.ctx, stamp := s.stamp }

/-- A page move holds an engine's access (12_main_memory.md R227). -/
def State.engineHeld (s : State) (e : Nat) (c : Cmd) (ga : Word) (unit : Nat) (write : Bool) : Bool :=
  (s.holder { s.engineMsg e c unit with kind := if write then 0x21 else 0x20, payload := [ga] }).isSome

/-- A run of n bytes cut at line boundaries. Structural on a bound of the pieces. -/
def cutLines (va n : Nat) : Nat → List (Nat × Nat)
  | 0 => []
  | k + 1 =>
    if n = 0 then []
    else
      let m := least n (64 - va % 64)
      (va, m) :: cutLines ((va + m) % 2 ^ 64) (n - m) k

/-- The outer rows whose source elements a row needs: with MX along dimension 3 those of its block (R351). -/
def rowsNeeded (d : List Byte) (i3 : Nat) : List Nat :=
  if dMx d && dPerm d 0 == 3 then (List.range 32).map fun t => i3 / 32 * 32 + t else [i3]

/-- The source rows of an outer row, each as its first byte, in visiting order. -/
def sourceRows (d : List Byte) (i3 : Nat) : List Nat :=
  (List.range (dN d 2)).flatMap fun i2 => (List.range (dN d 1)).map fun i1 => (srcBit d 0 i1 i2 i3 / 8 % 2 ^ 64).toNat

/-- The pieces of the source that a row needs, by source row. -/
def sourcePieces (d : List Byte) (i3 : Nat) : List (List (Nat × Nat)) :=
  let n := dN d 0 * cpyWidth (dSfmt d) / 8
  ((rowsNeeded d i3).flatMap fun r => sourceRows d r).map fun va => cutLines va n (n / 64 + 2)

/-- What reading pieces comes to: the bytes in order, the pieces to ask other packages for, a fault, or a page move's hold. -/
structure Pieces where
  bytes   : List Byte := []
  missing : List (Nat × Nat × Word × Nat × BitVec 20) := []
  fault   : Option Nat := none
  held    : Bool := false

/-- One piece read. -/
def State.readPiece (s : State) (e : Nat) (c : Cmd) (r : Pieces) (va n : Nat) : State × Pieces :=
  if r.fault.isSome || r.held then (s, r)
  else match s.engineAccess e c va n false with
    | .fault f => (s.engineFault e c va f, { r with fault := some f })
    | .near a => (s.correct a n, { r with bytes := r.bytes ++ s.bytes a n })
    | .home ga unit =>
      let s := s.engineTouched e c va
      if s.engineHeld e c ga unit false then (s, { r with held := true })
      else
        let (s, st, bs) := s.homeRead (s.engineMsg e c unit) ga n false
        (s, if st = 0 then { r with bytes := r.bytes ++ bs } else { r with fault := some (statusCause st) })
    | .remote ga unit chip =>
      match c.got.find? fun g => g.1 == va with
      | some g => (s, { r with bytes := r.bytes ++ g.2 })
      | none => (s.engineTouched e c va, { r with missing := r.missing ++ [(va, n, ga, unit, chip)] })

/-- All pieces of a run read. -/
def State.readRun (s : State) (e : Nat) (c : Cmd) (r : Pieces) : List (Nat × Nat) → State × Pieces
  | [] => (s, r)
  | p :: t => let x := s.readPiece e c r p.1 p.2; x.1.readRun e c x.2 t

/-- All runs of a row read: each as a number, with what is missing. -/
def State.readRuns (s : State) (e : Nat) (c : Cmd) (r : Pieces) : List (List (Nat × Nat)) → State × Pieces × List Nat
  | [] => (s, r, [])
  | run :: t =>
    let x := s.readRun e c { r with bytes := [] } run
    let y := x.1.readRuns e c x.2 t
    (y.1, y.2.1, ofBytes x.2.bytes :: y.2.2)

/-- Bits laid over bytes by address, as a mask and a value for each byte; a later element replaces an earlier one (R350).
Structural on a bound of the bytes that an element touches. -/
def putBits (acc : Tab (Nat × Nat)) (pos : Int) (w v : Nat) : Nat → Tab (Nat × Nat)
  | 0 => acc
  | n + 1 =>
    if w = 0 then acc
    else
      let a := (pos / 8 % 2 ^ 64).toNat
      let o := (pos % 8).toNat
      let k := least w (8 - o)
      let m := (2 ^ k - 1) * 2 ^ o
      let old := acc.get a (0, 0)
      putBits (acc.set a (old.1 ||| m, old.2 - (old.2 &&& m) + v % 2 ^ k * 2 ^ o)) (pos + k) (w - k) (v / 2 ^ k) n

/-- The elements of an outer row in visiting order. -/
def rowElems (d : List Byte) : List (Nat × Nat × Nat) :=
  (List.range (dN d 2)).flatMap fun i2 => (List.range (dN d 1)).flatMap fun i1 => (List.range (dN d 0)).map fun i0 => (i0, i1, i2)

/-- The source code of an element, from the runs read for a row. -/
def elemCode (d : List Byte) (first : Nat) (raws : List Nat) (i0 i1 i2 i3 : Nat) : Nat :=
  let w := cpyWidth (dSfmt d)
  bitsOf (raws.getD (((i3 - first) * dN d 2 + i2) * dN d 1 + i1) 0) (i0 * w) w

/-- A source code as an FP32 code, exactly. -/
def toFp32 (fmt code : Nat) : Nat := if fmt = 7 then code else (fp32.round .rne false ((cpyType fmt).value code)).1

/-- The shared scale of the MX block of an element (R351): its 32 mates differ in destination index 0. -/
def blockScale (d : List Byte) (first : Nat) (raws : List Nat) (i0 i1 i2 i3 : Nat) : Nat :=
  let p := dPerm d 0
  let b := fun (x : Nat) => x / 32 * 32
  let mate := fun (t : Nat) =>
    if p = 0 then elemCode d first raws (b i0 + t) i1 i2 i3
    else if p = 1 then elemCode d first raws i0 (b i1 + t) i2 i3
    else if p = 2 then elemCode d first raws i0 i1 (b i2 + t) i3
    else elemCode d first raws i0 i1 i2 (b i3 + t)
  sharedScale ((List.range 32).map fun t => toFp32 (dSfmt d) (mate t)) (dDfmt d)

/-- The destination indices of an element. -/
def destIndex (d : List Byte) (m i0 i1 i2 i3 : Nat) : Nat := [i0, i1, i2, i3].getD (dPerm d m) 0

/-- The extent of a destination dimension. -/
def destExtent (d : List Byte) (m n3 : Nat) : Nat := if dPerm d m = 3 then n3 else dN d (dPerm d m)

/-- The byte that an element's block has its scale in (R351). -/
def scaleAt (d : List Byte) (n3 i0 i1 i2 i3 : Nat) : Nat :=
  let j := fun m => destIndex d m i0 i1 i2 i3
  dScale d + ((j 3 * destExtent d 2 n3 + j 2) * destExtent d 1 n3 + j 1) * (destExtent d 0 n3 / 32) + j 0 / 32

/-- A row's element laid over the destination bytes, with its block's scale under MX. -/
def layElem (c : Cmd) (i3 first : Nat) (raws : List Nat) (acc : Tab (Nat × Nat)) (i : Nat × Nat × Nat) : Tab (Nat × Nat) :=
  let d := c.desc
  let (i0, i1, i2) := i
  let code := elemCode d first raws i0 i1 i2 i3
  let put := fun acc v => putBits acc (dstBit d i0 i1 i2 i3) (cpyWidth (dDfmt d)) v 5
  let enc := fun v => ((cpyType (dDfmt d)).encode (dMode d) (dSat d) v).1
  if dMx d then
    let x := blockScale d first raws i0 i1 i2 i3
    let v := if x = 0xFF then 0 else enc (((cpyType (dSfmt d)).value code).scale (127 - (x : Int)))
    putBits (put acc v) (8 * scaleAt d c.count i0 i1 i2 i3) 8 x 1
  else if dSfmt d = dDfmt d then put acc code
  else put acc (enc ((cpyType (dSfmt d)).value code))

/-- The destination bytes of a row. -/
def rowBytes (c : Cmd) (i3 : Nat) (raws : List Nat) : Tab (Nat × Nat) :=
  (rowElems c.desc).foldl (layElem c i3 ((rowsNeeded c.desc i3).headD i3) raws) []

/-- The lines that bytes lie in, ascending. -/
def linesOf : Tab (Nat × Nat) → List Nat
  | [] => []
  | (a, _) :: t => insertNat (linesOf t) (a / 64)

/-- The bytes of partial masks at other packages, which must be read before they are written. -/
def State.partialBytes (s : State) (e : Nat) (c : Cmd) (acc : Tab (Nat × Nat)) : List (Nat × Nat) :=
  (acc.filter fun b => b.2.1 != 255 && (match s.engineAccess e c b.1 1 true with | .remote _ _ _ => true | _ => false)).map fun b => (b.1, 1)

/-- The old byte at a destination address. -/
def State.oldByte (s : State) (e : Nat) (c : Cmd) (va : Nat) : Nat :=
  match s.engineAccess e c va 1 true with
  | .near a => s.load a 1
  | .home ga _ => s.devLoad (devOf ga) 1
  | .remote _ _ _ => match c.got.find? fun g => g.1 == va with | some g => ofBytes g.2 | none => 0
  | .fault _ => 0

/-- The bytes of a destination line that a row writes whole. -/
def wholeBytes (acc : Tab (Nat × Nat)) (line : Nat) : Nat :=
  (List.range 64).foldl (fun m i => if (acc.get (64 * line + i) (0, 0)).1 = 255 then m + 2 ^ i else m) 0

/-- A destination line of a row: its bytes and its byte mask. -/
def State.lineData (s : State) (e : Nat) (c : Cmd) (acc : Tab (Nat × Nat)) (line : Nat) : List Byte × Nat :=
  let b := fun i => acc.get (64 * line + i) (0, 0)
  let v := fun i =>
    let x := b i
    if x.1 = 0 then 0 else if x.1 = 255 then x.2 else (let o := s.oldByte e c (64 * line + i); o - (o &&& x.1) + x.2)
  ((List.range 64).map fun i => BitVec.ofNat 8 (v i),
   (List.range 64).foldl (fun m i => if (b i).1 = 0 then m else m + 2 ^ i) 0)

/-- A write meets a poisoned unit that it covers only in part, where some of its bytes are written in part (R235, R359). -/
def State.partlyPoisoned (s : State) (media mask whole : Nat) : Bool :=
  let w := if media < 2 ^ 40 then 32 else 64
  (unitsOf media 64).any fun u => s.poison.contains u && touchesUnit media mask u w && !coversUnit media 64 whole u w

/-- A destination line may be written: the cause, with its record (12_main_memory.md R226, R236), or a hold. -/
def State.lineCheck (s : State) (e : Nat) (c : Cmd) (line mask whole : Nat) : State × Pieces :=
  match s.engineAccess e c (64 * line) 64 true with
  | .fault f => (s.engineFault e c (64 * line) f, { fault := some f })
  | .near _ => (s, {})
  | .remote _ _ _ => (s, {})
  | .home ga unit =>
    let m := s.engineMsg e c unit
    if s.engineHeld e c ga unit true then (s, { held := true })
    else match s.findLine m ga false false true with
      | .refused _ rec => (s.recordLost m ga rec, { fault := some 0x5A })
      | .at a _ => if s.partlyPoisoned a mask whole then (s.recordPoison m 0x0003 ga, { fault := some 0x60 }) else (s, {})

/-- The lines of a row are checked in order, to the first that may not be written. -/
def State.lineChecks (s : State) (e : Nat) (c : Cmd) : List (Nat × Nat × Nat) → State × Pieces
  | [] => (s, {})
  | l :: t =>
    let r := s.lineCheck e c l.1 l.2.1 l.2.2
    if r.2.fault.isSome || r.2.held then r else s.lineChecks e c t

/-- A request of the running command of an engine is out. -/
def State.rowDue (s : State) (e : Nat) (m : Msg) : State :=
  s.modEngine e fun x => { x with running := x.running.map fun c => { c with due := c.due ++ [(m.seq, m.dstChip)] } }

/-- A destination line written: at a stripe, at a home, or by a request to another package. -/
def State.writeLine (s : State) (e : Nat) (c : Cmd) (line mask : Nat) (bs : List Byte) : State × Nat :=
  match s.engineAccess e c (64 * line) 64 true with
  | .near a =>
    let whole := fun (b : Nat) => decide (a ≤ b) && decide (b + 8 ≤ a + 64) && bitsOf mask (b - a) 8 == 255
    ({ s with mem := memWriteMasked s.mem a mask bs, nearBad := s.nearBad.filter (fun b => !whole b), nearWeak := s.nearWeak.filter fun b => !whole b }, 0)
  | .home ga unit => (((s.engineTouched e c (64 * line)).homeWrite (s.engineMsg e c unit) ga mask bs false).1, 0)
  | .remote ga unit chip =>
    let (s, m) := (s.engineTouched e c (64 * line)).numbered { s.engineMsg e c unit with dstChip := chip, kind := 0x21, units := 6, payload := [ga, 0] ++ wordsOf 8 bs ++ [word mask, 0] }
    ((s.rowDue e m).route m, 1)
  | .fault _ => (s, 0)

/-- A row is complete: its stream advances, tiles not used again are returned, and its chunk is reported where it ends one. -/
def State.finishRow (s : State) (e : Nat) (c : Cmd) : State :=
  let i3 := c.row
  let c := { c with row := i3 + 1, got := [], left := 0, writing := false, failed := none }
  let s := s.modEngine e fun x => { x with running := some c }
  let s :=
    if e < 512 && bit c.id 55 then
      s.modCluster e fun k =>
        match k.streams.find c.id.toNat with
        | some t => { k with streams := k.streams.set c.id.toNat { t with arrived := least t.count ((c.row - c.start) * (dD c.desc 3).toNat / 64) } }
        | none => k
    else s
  let rest := cmdTiles c.desc c.row c.count
  let s := s.returnTiles e ((cmdTiles c.desc c.start c.row).filter fun t => !rest.contains t)
  let ends := c.row == c.count || (dChunk c.desc != 0 && c.row % dChunk c.desc == 0)
  if ends then
    (s.modEngine e fun x => { x with running := some { c with awaits := some (if dChunk c.desc = 0 then 0 else i3 / dChunk c.desc, 0) } }).post (.chunkArrival e)
  else s.post (.engineRow e)

/-- Requests for pieces at other packages leave; the row goes on when they are answered. -/
def State.askPieces (s : State) (e : Nat) (c : Cmd) (ps : List (Nat × Nat × Word × Nat × BitVec 20)) : State :=
  let s := s.modEngine e fun x => { x with running := some { c with left := ps.length } }
  ps.foldl (fun s (va, n, ga, unit, chip) =>
    let (s, m) := s.numbered { s.engineMsg e c unit with dstChip := chip, kind := 0x20, units := 1, payload := [ga, word n] }
    (s.rowDue e m).route { m with window := va }) s

/-- The rows of destination bytes written, once all lines may be. -/
def State.writeRow (s : State) (e : Nat) (c : Cmd) (acc : Tab (Nat × Nat)) : State :=
  let lines := (linesOf acc).map fun l => (l, s.lineData e c acc l)
  let x := s.lineChecks e c (lines.map fun l => (l.1, l.2.2, wholeBytes acc l.1))
  match x.2.fault with
  | some f => x.1.endRunning e c stFaulted f
  | none =>
    if x.2.held then x.1.post (.engineRow e)
    else
    let r := lines.foldl (fun (x : State × Nat) l => let y := x.1.writeLine e c l.1 l.2.2 l.2.1; (y.1, x.2 + y.2)) (s, 0)
    if r.2 = 0 then r.1.finishRow e c
    else r.1.modEngine e fun x => { x with running := x.running.map fun c => { c with left := r.2, writing := true } }

/-- ENGINE_ROW: the running command's next row; the count, a stop or a kill ends the command first (R359). -/
def State.runRow (s : State) (e : Nat) : State :=
  match (s.engine e).running with
  | none => s
  | some c =>
    if c.left ≠ 0 || c.awaits.isSome || s.engineHalted e then s
    else if c.count ≤ c.row then s.endRunning e c stDone 0
    else if c.stop ≠ 0 then s.endRunning e c (if c.stop = 2 then stKilled else stStopped) 0
    else
      let i3 := c.row
      let shape := rowBytes c i3 []
      let x := s.readRuns e c {} (sourcePieces c.desc i3)
      let y := x.1.readRun e c { x.2.1 with bytes := [] } (s.partialBytes e c shape)
      let r := y.2
      match r.fault with
      | some f => y.1.endRunning e c stFaulted f
      | none =>
        if r.held then y.1.post (.engineRow e)
        else if !r.missing.isEmpty then y.1.askPieces e c r.missing
        else y.1.writeRow e c (rowBytes c i3 x.2.2)

/-- ENGINE_ROW -/
def execEngineRow (engine : Nat) (s : State) : Host.Outcome State Fault Refusal := .next (s.runRow engine)

/-! ### Arrivals (R357) -/

/-- The arrival message of a chunk, for the function that owns its arrival word's page, or for the issuing one's context; and the command
goes on. -/
def State.chunkDone (s : State) (e : Nat) (c : Cmd) (chunk : Nat) (ga : Word) (owner : Option (BitVec 7)) : State :=
  let d := c.desc
  let s := (s.modEngine e fun x => { x with running := some { c with awaits := none, acked := none } }).post (.engineRow e)
  if !dAmsg d then s
  else
    let chip := BitVec.ofNat 20 (dRoute d / 4096)
    let core := dRoute d % 4096
    let vf := match owner with | some v => v.toNat | none => c.vf
    let m : Msg := { dstChip := chip, dstCore := BitVec.ofNat 12 core, chan := BitVec.ofNat 8 (dChan d), kind := 0x0A, units := 2,
                     srcVf := BitVec.ofNat 7 vf, forVf := some (BitVec.ofNat 7 vf), key := engineKey e, launch := c.launch, ctx := BitVec.ofNat 2 c.ctx,
                     unit := engineNumber e, payload := [c.id, word chunk, word c.row, ga] }
    if chip ≠ s.hub.chipId then
      let (s, m) := s.numbered m
      s.route m
    else match s.ctxOfVf (s.served core) vf with
      | some x => s.sendDevice { m with ctx := BitVec.ofNat 2 x }
      | none => s.errorRecord vf (memoryRecord 0x00A0 vf (engineNumber e) ga s.ktick core)

/-- CHUNK_ARRIVAL: after a chunk's writes are performed, its increment leaves and is waited for, then its message. A halted engine holds
both (25_debug.md R433). -/
def State.chunkArrives (s : State) (e : Nat) : State :=
  match (s.engine e).running with
  | none => s
  | some c =>
    match c.awaits with
    | none => s
    | some (chunk, ga) =>
      if c.left ≠ 0 || s.engineHalted e then s
      else match c.acked with
      | some owner => s.chunkDone e c chunk ga owner
      | none =>
        let a := dArrive c.desc
        if a = 0 then s.chunkDone e c chunk 0 none
        else
          let send := fun (ga : Word) (unit : Nat) (chip : BitVec 20) =>
            let p := atomicPayload ga 0 false false [1] []
            let (s, m) := (s.engineTouched e c a).numbered
              { s.engineMsg e c unit with dstChip := chip, kind := 0x30, units := BitVec.ofNat 3 (p.length / 2), payload := p }
            (s.modEngine e fun x => { x with running := some { c with left := 1, awaits := some (chunk, ga), due := [(m.seq, chip)] } }).route m
          match s.engineAccess e c a 8 true with
          | .home ga unit => send ga unit s.hub.chipId
          | .remote ga unit chip => send ga unit chip
          | .near _ => s.endRunning e c stFaulted 0xA0
          | .fault f => (s.engineFault e c a f).endRunning e c stFaulted f

/-- CHUNK_ARRIVAL -/
def execChunkArrival (engine : Nat) (s : State) : Host.Outcome State Fault Refusal := .next (s.chunkArrives engine)

/-- A read of a poisoned line at another package is recorded for the command's function (R359). -/
def State.engineRecord (s : State) (e : Nat) (c : Cmd) (m : Msg) : State :=
  match s.engineAccess e c m.window 1 false with
  | .remote ga unit _ => s.errorRecord c.vf (memoryRecord 0x0001 c.vf unit (lineOf ga) s.ktick c.core)
  | _ => s

/-- An answer to a request of an engine: of an arrival increment (R357), or of a read or write at another package. A failure ends the
command once every answer of the row is in (R347). -/
def State.engineAnswer (s : State) (e : Nat) (m : Msg) : State :=
  match (s.engine e).running with
  | none => s
  | some c =>
    let st := fld (m.payload.getD 0 0) 0 8
    if !c.due.any fun d => d.1 == m.seq then s
    else
    let c := { c with due := c.due.filter fun d => d.1 != m.seq }
    match c.awaits with
    | some (chunk, ga) =>
      if m.kind ≠ 0x33 then s
      else if st ≠ 0 then s.endRunning e { c with awaits := none } stFaulted (statusCause st)
      else if s.engineHalted e then s.modEngine e fun x => { x with running := some { c with left := 0, acked := some m.forVf } }
      else s.chunkDone e { c with left := 0 } chunk ga m.forVf
    | none =>
      let s := if st = 1 && !c.writing then s.engineRecord e c m else s
      let c := { c with left := c.left - 1, failed := if st = 0 then c.failed else some (c.failed.getD (statusCause st)),
                        got := if c.writing || st != 0 then c.got else c.got ++ [(m.window, bytesOfWords (m.payload.drop 2))] }
      if c.left ≠ 0 then s.modEngine e fun x => { x with running := some c }
      else match c.failed with
        | some f => s.endRunning e c stFaulted f
        | none => if c.writing then s.finishRow e c else (s.modEngine e fun x => { x with running := some c }).post (.engineRow e)

/-! ### Issue (R353 to R356, R362) -/

/-- A streaming command (R356). -/
def streaming (d : List Byte) (n3 r : Nat) : Bool :=
  let b := dN d 0 * cpyWidth (dDfmt d) / 8
  let base : Int := dDst d + r * dD d 3
  inPad (dDst d) && base % 64 == 0 && dD d 1 == b && dD d 2 == dN d 1 * dD d 1 && dD d 3 == dN d 2 * dD d 2
    && (((n3 : Int) - r) * dD d 3) % 64 == 0

/-- The endpoint checks of an end of a command (R353): whether it is admitted. -/
def endpointOk (transfer : Bool) (va : Nat) (span : Int × Int) (empty : Bool) : Bool :=
  !isNear va || (!transfer && inPad va && (empty || (inPad span.1 && inPad span.2)))

/-- The address of a near tile, which is kaddr of 0xA0 at a streaming issue: DESIGN CHOICE, log 126. -/
def tileVa (t : Nat) : Word := word (padVa + 4096 * t)

/-- The tiles that a streaming command owns from its issue (R354). -/
def streamTiles (e : Nat) (d : List Byte) (n3 r : Nat) : List Nat :=
  if decide (e < 512) && streaming d n3 r && n3 != 0 then spanTiles (dstSpan d r (n3 - 1)) else []

/-- A word that must wait keeps what it has read and owns, and stands: nothing of it is done a second time. -/
def State.keepWaiting (s s0 : State) : Res State := if s.sl = s0.sl then .stall else .ok s

/-- The acceptance of a checked command, once its queue has an entry and its cluster a stream for it (R362). -/
def State.takeCmd (s s0 : State) (e rd : Nat) (d : List Byte) (n3 : Nat) : Res State :=
  let r := s.sl.kprog.toNat
  let stream := decide (e < 512) && streaming d n3 r
  if !(n3 == 0 || decide ((s.engine e).queue.length < queueLimit e)) || (stream && decide (Config.streamLimit ≤ (s.cluster e).streams.length)) then
    s.keepWaiting s0
  else
    let sl := s.sl
    let vf := s.curCtx.vf
    let id := commandId e vf stream (s.engine e).seq
    let c : Cmd := { id := id, vf := vf, asid := s.asid s.cur, launch := sl.clause.launch, core := s.curCore, ctx := sl.clause.ctx, desc := d,
                     count := n3, start := if n3 = 0 then 0 else r, row := if n3 = 0 then 0 else r }
    let s := s.modEngine e fun x => { x with seq := x.seq + 1 }
    let s := if !stream then s else s.modCluster e fun k =>
      { k with streams := k.streams.set id.toNat
                 { core := s.curCore, ctx := sl.clause.ctx, launch := sl.clause.launch, dest := (dDst d + r * dD d 3 - padVa).toNat,
                   count := (n3 - r) * (dD d 3).toNat / 64, ended := n3 == 0 } }
    let s := if n3 = 0 then s.modEngine e fun x => x.keep id (statusWord stDone 0 0)
      else ((s.modEngine e fun x => { x with queue := x.queue ++ [c] }).modLaunch sl.clause.launch fun l => { l with commands := l.commands + 1 }).post
        (.engineCommandStart e)
    .ok (s.modCur fun sl => ({ sl with kprog := 0, kseq := sl.kseq + 1 }.setX rd id).complete)

/-- The last checks of a command, once its descriptor and count are known, the implicit `own` of a streaming one, and its acceptance
(R355, R356, R362). kaddr of 0xA2 is SRC where no end is admitted: DESIGN CHOICE, log 126. -/
def State.acceptCmd (s s0 : State) (e rd : Nat) (b : Word) (d : List Byte) (n3w : Word) : Res State :=
  let transfer := decide (512 ≤ e)
  let n3 := n3w.toNat
  let r := s.sl.kprog.toNat
  (require (decide (n3 < 2 ^ 24)) 0xA3 n3w).bind fun _ =>
  (require (!countMalformed d n3) 0xA1 b).bind fun _ =>
  (require (n3 == 0 || decide (r < n3)) 0xA6 s.sl.kprog).bind fun _ =>
  let empty := decide (n3 ≤ r)
  (require (endpointOk transfer (dSrc d) (srcSpan d r (n3 - 1)) empty && (transfer || isNear (dSrc d) || isNear (dDst d))) 0xA2
    (word (dSrc d))).bind fun _ =>
  (require (endpointOk transfer (dDst d) (dstSpan d r (n3 - 1)) empty) 0xA2 (word (dDst d))).bind fun _ =>
  (require (!isNear (dArrive d) && dArrive d % 8 == 0) 0xA5 (word (dArrive d))).bind fun _ =>
  let tiles := streamTiles e d n3 r
  let owner := (s.cluster e).owner
  (match tiles.find? fun t => owner.get t false with
    | some t => Res.trap 0xA0 (tileVa t)
    | none => Res.ok ()).bind fun _ =>
  let s := s.modCur fun sl => { sl with fetched := wordsOf 8 d ++ [n3w] }
  if tiles.any fun t => s.tileBusy e t then s.keepWaiting s0
  else
    let s := if tiles.isEmpty then s else s.modCluster e fun k => { k with owner := tiles.foldl (fun o t => o.set t true) k.owner }
    (s.modCur fun sl => { sl with fetched := sl.fetched ++ [1], heldTiles := tiles }).takeCmd s0 e rd d n3

/-- A blocking read of n bytes at an aligned address for a command: the bytes where the address is near, else the request. -/
def State.commandRead (s : State) (va : Word) (n : Nat) : Res (State × Option (List Byte)) := s.groupRead s.cur va n

/-- The count of a command under GUARD: read once, at once from the near window or by a read after which the word runs again. -/
def State.guardWord (s s0 : State) (g : Word) (f : State → Word → Res State) : Res State :=
  (require (g.toNat % 8 == 0) 0xA7 g).bind fun _ =>
  match s.sl.fetched[8]? with
  | some v => f s v
  | none =>
    match s.commandRead g 8 with
    | .trap c a => .trap c a
    | .stall => s.keepWaiting s0
    | .ok (s, some bs) => f s (word (ofBytes bs))
    | .ok (s, none) => .ok (s.block .descriptor 1)

/-- `cpy` and `xfer` (R362). -/
def State.issueCopy (s : State) (i : Instr) (e : Nat) (k : KOps) : State :=
  let s0 := s
  s.run { word := wordOf i, srcs := [x1 k, x2 k], dsts := [toX k] }
    (let b := s.sl.xr k.rs1.toNat
     (require (b.toNat % 64 == 0) 0xA1 b).bind fun _ =>
     s.ordered true fun s =>
     let go := fun (s : State) (d : List Byte) =>
       (require (!malformed d (decide (512 ≤ e))) 0xA1 b).bind fun _ =>
       let n := s.sl.xr k.rs2.toNat
       if dGuard d then s.guardWord s0 n fun t v => t.acceptCmd s0 e k.rd.toNat b d v else s.acceptCmd s0 e k.rd.toNat b d n
     match s.sl.fetched with
     | [] =>
       (s.commandRead b 64).bind fun (s, got) =>
       match got with
       | some bs => go (s.modCur fun sl => { sl with fetched := wordsOf 8 bs }) bs
       | none => .ok (s.block .descriptor 1)
     | ws =>
       let d := bytesOfWords (ws.take 8)
       if ws.length = 10 then s.takeCmd s0 e k.rd.toNat d (ws.getD 8 0).toNat else go s d)

/-- `cpy`: to the cluster copy engine of the issuing core's cluster. -/
def execCpy (k : KOps) (s : State) : Host.Outcome State Fault Refusal := .next (s.issueCopy (.cpy k) (clusterOf s.curCore) k)

/-- `xfer`: to the transfer engine of the issuing core's cluster number modulo 16. -/
def execXfer (k : KOps) (s : State) : Host.Outcome State Fault Refusal := .next (s.issueCopy (.xfer k) (512 + clusterOf s.curCore % 16) k)

/-! ### Command ids (R358, R360, R363) -/

/-- The engine that an id of the issuing function names, or the cause 0xA4. -/
def State.engineOf (s : State) (id : Word) : Res Nat :=
  let ty := fld id 56 8
  let n := fld id 39 9
  (require ((ty == 0xC1 || (ty == 0xC2 && decide (n < 16))) && fld id 32 7 == 0 && idVf id == s.curCtx.vf) 0xA4 id).bind fun _ =>
  .ok (if ty = 0xC1 then n else 512 + n)

/-- The status of a command that has not ended. -/
def Engine.live (x : Engine) (id : Word) : Option (Nat × Cmd) :=
  match x.running with
  | some c => if c.id = id then some (1, c) else (x.queue.find? fun c => c.id == id).map fun c => (0, c)
  | none => (x.queue.find? fun c => c.id == id).map fun c => (0, c)

/-- The status kept for an id, or RETIRED. -/
def Engine.final (x : Engine) (id : Word) : Word :=
  match x.kept.find? fun k => k.1 == id with
  | some k => k.2.1
  | none => statusWord stRetired 0 0

/-- `cpyq`: the current status. -/
def execCpyq (k : KOps) (s : State) : Host.Outcome State Fault Refusal :=
  .next (s.run { word := wordOf (.cpyq k), srcs := [x1 k], dsts := [toX k] }
    (let id := s.sl.xr k.rs1.toNat
     (s.engineOf id).bind fun e =>
     .ok (s.finishX k.rd.toNat (match (s.engine e).live id with | some (st, c) => statusWord st 0 c.row | none => (s.engine e).final id))))

/-- `cpyw`: stands until the command is terminal, and releases the status kept. -/
def execCpyw (k : KOps) (s : State) : Host.Outcome State Fault Refusal :=
  .next (s.run { word := wordOf (.cpyw k), srcs := [x1 k], dsts := [toX k] }
    (let id := s.sl.xr k.rs1.toNat
     (s.engineOf id).bind fun e =>
     (stallUnless ((s.engine e).live id).isNone).bind fun _ =>
     .ok ((s.modEngine e fun x => { x with kept := x.kept.filter fun k => k.1 != id }).finishX k.rd.toNat ((s.engine e).final id))))

/-- A queued command leaves its queue in a terminal state. -/
def State.dropQueued (s : State) (e : Nat) (c : Cmd) (state : Nat) : State :=
  (s.modEngine e fun x => { x with queue := x.queue.erase c }).endCmd e c state 0

/-- A stop (1) or a kill (2) of a running command is asked for; it is taken before the next row. -/
def State.askStop (s : State) (e : Nat) (c : Cmd) (how : Nat) : State :=
  (s.modEngine e fun x => { x with running := some { c with stop := greatest c.stop how } }).post (.engineRow e)

/-- `cpystop`: asks for a stop and stands until the command is terminal. -/
def execCpystop (k : KOps) (s : State) : Host.Outcome State Fault Refusal :=
  .next (s.run { word := wordOf (.cpystop k), srcs := [x1 k], dsts := [toX k] }
    (let id := s.sl.xr k.rs1.toNat
     (s.engineOf id).bind fun e =>
     match (s.engine e).live id with
     | none => .ok (s.finishX k.rd.toNat ((s.engine e).final id))
     | some (0, c) =>
       let s := s.dropQueued e c stStopped
       .ok (s.finishX k.rd.toNat ((s.engine e).final id))
     | some (_, c) => (stallUnless (c.stop == 0)).bind fun _ => .ok (s.askStop e c 1)))

/-- The engines of the package. -/
def engineNumbers : List Nat := (List.range 512) ++ (List.range 16).map fun n => 512 + n

/-- The commands of a launch end KILLED: queued ones at once, a running one before its next row (22_launch_estimate.md R379). -/
def State.killCommands (s : State) (launch : Nat) : State :=
  engineNumbers.foldl (fun s e =>
    let x := s.engine e
    let s := (x.queue.filter fun c => c.launch == launch).foldl (fun s c => s.dropQueued e c stKilled) s
    match x.running with
    | some c => if c.launch = launch then s.askStop e c 2 else s
    | none => s) s

end Sys2Proof.Machine
end

