-- ==== Sys2Proof/Machine/Matrix.lean ====
section
/-!
DEFINITION. The matrix instructions and the operand ring (10_matrix.md): tiles and claims (R177), latches and shadows (R178),
operand decoding (R180, R181), the step with exact-chunk accumulation (R182, R183), `mzero`, `mld`, `mst`, `mlb`, `mma`
(R185 to R188), ring transfers (R190, R191) and `mgeo` (R192).
-/
namespace Sys2Proof.Machine

/-! ### Tiles and claims (R177) -/

/-- The cells of a range of keys, in order, from a table listed by rising key that begins in or above the range. -/
def cellsFrom (k : Nat) : Nat → Tab (BitVec 32) → List Nat
  | 0, _ => []
  | n + 1, [] => 0 :: cellsFrom (k + 1) n []
  | n + 1, (a, v) :: t => if a = k then v.toNat :: cellsFrom (k + 1) n t else 0 :: cellsFrom (k + 1) n ((a, v) :: t)

/-- The 1,024 cells of a tile, row by row. -/
def Core.tile (c : Core) (t : Nat) : List Nat :=
  cellsFrom (t * 1024) 1024 (c.acc.filter fun e => decide (t * 1024 ≤ e.1))

/-- Cells as table entries from a key up; a zero cell is not listed. -/
def cellEntries (k : Nat) : List Nat → Tab (BitVec 32)
  | [] => []
  | v :: t => if v % 2 ^ 32 = 0 then cellEntries (k + 1) t else (k, BitVec.ofNat 32 v) :: cellEntries (k + 1) t

/-- The core with a tile overwritten. -/
def Core.setTile (c : Core) (t : Nat) (cells : List Nat) : Core :=
  { c with acc := (c.acc.filter fun e => decide (e.1 < t * 1024)) ++ cellEntries (t * 1024) (cells.take 1024)
                    ++ c.acc.filter fun e => decide ((t + 1) * 1024 ≤ e.1) }

/-- The claim a slot's clause makes. -/
def Slot.claimant (sl : Slot) (k : Nat) : Nat × Nat := (k, sl.gen)

/-- The issuing slot has claimed a tile. -/
def State.mine (s : State) (t : Nat) : Bool := (s.core s.curCore).claim.find t == some (s.sl.claimant s.cur)

/-- A tile is unclaimed or claimed by the issuing slot. -/
def State.mayClaim (s : State) (t : Nat) : Bool := ((s.core s.curCore).claim.find t).isNone || s.mine t

/-- The issuing slot claims a tile. -/
def State.claimTile (s : State) (t : Nat) : State :=
  s.modCore s.curCore fun c => { c with claim := c.claim.set t (s.sl.claimant s.cur) }

/-- A slot's instruction holds the array of its core (R189): accepted `mma` steps, or a far `mld` whose replies are due. -/
def Slot.holdsArray (sl : Slot) : Bool :=
  match sl.wait with
  | .mma _ _ _ _ _ _ => true
  | .blocked (.tileLoad _ _ _ _ _ _) _ _ => true
  | _ => false

/-- The array of a core is free. -/
def State.arrayFree (s : State) (core : Nat) : Bool :=
  let f := fun i => (s.slot (core * 4 + i)).holdsArray
  !(f 0 || f 1 || f 2 || f 3)

/-- `mzero` (R185) -/
def execMzero (k : KOps) (s : State) : Host.Outcome State Fault Refusal :=
  let t := k.rd.toNat
  .next (s.run { word := wordOf (.mzero k) }
    ((require (s.mayClaim t) 0x31 (word t)).bind fun _ =>
     (stallUnless (s.arrayFree s.curCore)).bind fun _ =>
     .ok ((s.claimTile t).modCore s.curCore fun c => c.setTile t []).complete))

/-! ### Latches and shadows (R178) -/

def State.latch (s : State) (core c l : Nat) : Latch := (s.ctx core c).bl.get l {}
def State.setLatch (s : State) (core c l : Nat) (v : Latch) : State := s.modCtx core c fun x => { x with bl := x.bl.set l v }
def State.curLatch (s : State) (l : Nat) : Latch := s.latch s.curCore s.sl.clause.ctx l

/-- An `mma` of a slot of a context reads a latch and has begun its steps. -/
def Slot.readsLatch (sl : Slot) (c l : Nat) : Bool :=
  match sl.wait with
  | .mma _ _ latch _ _ begun => begun && latch == l && sl.clause.ctx == c
  | _ => false

/-- An `mma` of a slot of a context names a latch. -/
def Slot.namesLatch (sl : Slot) (c l : Nat) : Bool :=
  match sl.wait with
  | .mma _ _ latch _ _ _ => latch == l && sl.clause.ctx == c
  | _ => false

/-- The slots of a core. -/
def slotsOf (core : Nat) : List Nat := [core * 4, core * 4 + 1, core * 4 + 2, core * 4 + 3]

/-- What waits for a latch to be VALID or for its shadow to be free is looked at again: the `mma` that name it, sends from it,
and sends to it. -/
def State.latchReady (s : State) (core c l : Nat) : State :=
  let s := (slotsOf core).foldl (fun s k =>
    let sl := s.slot k
    if sl.clause.ctx ≠ c then s
    else match sl.wait with
      | .mma _ _ latch _ _ begun => if latch = l && !begun then s.post (.mmaStep k) else s
      | .ring latch dst _ _ => if latch = l then s.post (.latchTransferArrival dst c l) else s
      | _ => s) s
  s.post (.latchTransferArrival core c l)

/-- SHADOW_APPLY: a full shadow is applied to an AWAIT latch that no begun `mma` still reads. -/
def State.applyShadow (s : State) (core c l : Nat) : State :=
  let t := s.latch core c l
  match t.shadow with
  | none => s
  | some (e, d) =>
    if t.state = .await && !(slotsOf core).any (fun k => (s.slot k).readsLatch c l) then
      (s.setLatch core c l { state := .valid, elems := e, side := d, shadow := none }).latchReady core c l
    else s

/-- SHADOW_APPLY -/
def execShadowApply (core ctx latch : Nat) (s : State) : Host.Outcome State Fault Refusal := .next (s.applyShadow core ctx latch)

/-! ### Loading and storing tiles (R186) -/

/-- The bytes of a memory cell: 4 for `f32` and `i32`, 2 for `f16` and `bf16`. -/
def cellBytes (fmt : Nat) : Nat := if fmt = 0 || fmt = 3 then 4 else 2

/-- The format of a 2-byte memory cell. -/
def cellFmt (fmt : Nat) : Fmt := if fmt = 1 then fp16 else bf16

/-- A memory cell as a tile cell. -/
def widenCell (fmt v : Nat) : Nat := if cellBytes fmt = 4 then v else (fp32.round .rne false ((cellFmt fmt).decode v)).1

/-- A tile cell as a memory cell, with the flags of its rounding. -/
def narrowCell (fmt : Nat) (mode : Rounding) (sat : Bool) (v : Nat) : Nat × Flags :=
  if cellBytes fmt = 4 then (v, 0) else (NumType.fp (cellFmt fmt)).encode mode sat (fp32.decode v)

/-- Cell i of a tile, by rows, lies inside an edge mask. -/
def inMask (mask : Word) (i : Nat) : Bool := bit mask (i / 32) && bit mask (32 + i % 32)

/-- The lines of a tile that hold a cell inside the mask, from line j up. -/
def maskLines (mask : Word) (b j : Nat) : Nat → List Nat
  | 0 => []
  | n + 1 =>
    let per := 64 / b
    if (List.range per).any fun i => inMask mask (j * per + i) then j :: maskLines mask b (j + 1) n else maskLines mask b (j + 1) n

/-- The lines of a tile with their targets, after all their address checks. -/
def State.tileTargets (s : State) (acc : Access) (a : Word) : List Nat → Res (List (Nat × Word × Target))
  | [] => .ok []
  | j :: t =>
    let va := a + word (64 * j)
    (s.access s.cur acc va 64).bind fun x => (s.tileTargets acc a t).bind fun r => .ok ((j, va, x) :: r)

/-- The far lines as requests, with the data and mask that a function gives a line. -/
def farLines (f : Nat → Nat × Nat) : List (Nat × Word × Target) → List LineReq
  | [] => []
  | (j, va, .far ga unit chip _) :: t =>
    { va := va, ga := ga, unit := unit, chip := chip, data := (f j).1, mask := (f j).2 } :: farLines f t
  | _ :: t => farLines f t

/-- The near lines. -/
def nearLines : List (Nat × Word × Target) → List (Nat × Word × Near)
  | [] => []
  | (j, va, .near t) :: r => (j, va, t) :: nearLines r
  | _ :: r => nearLines r

/-- The cells of a tile that lines at an address bring, each line by its virtual address; cells outside the mask are 0. -/
def loadedCells (a : Word) (fmt : Nat) (mask : Word) (got : List (Word × Nat)) (i : Nat) : Nat → List Nat
  | 0 => []
  | n + 1 =>
    let b := cellBytes fmt
    let v :=
      if inMask mask i then
        let va := a + word (64 * (b * i / 64))
        match got.find? fun g => g.1 == va with
        | some g => widenCell fmt (bitsOf g.2 (8 * (b * i % 64)) (8 * b))
        | none => 0
      else 0
    v :: loadedCells a fmt mask got (i + 1) n

/-- A near read that meets an uncorrectable word raises 0x5B. -/
def State.lineErrors (s : State) : List (Nat × Word × Near) → Res Unit
  | [] => .ok ()
  | (_, va, t) :: r => (require (s.nearError t 64).isNone 0x5B va).bind fun _ => s.lineErrors r

/-- Requests of a far tile leave while the slot may send; the rest stay. Structural on the number of lines. -/
def State.sendLines (s : State) (k : Nat) (store : Bool) : Nat → List LineReq → State × List LineReq
  | 0, rest => (s, rest)
  | _ + 1, [] => (s, [])
  | n + 1, r :: rest =>
    if !(s.slot k).farRoom 1 then (s, r :: rest)
    else
      let s :=
        if !store then s.sendRead k r.va r.ga r.unit r.chip 64 .blocking
        else if r.mask = 2 ^ 64 - 1 then s.sendWrite k 0x21 r.va r.ga r.unit r.chip (toBytes 64 r.data) .blocking
        else s.sendMasked k r.va r.ga r.unit r.chip (toBytes 64 r.data) r.mask
      s.sendLines k store n rest

/-- The payload that `mld` and `mst` accept: ACC, RM and SAT alone may be set (08_numbers.md R164). -/
def payTile (p : BitVec 17) : Bool := payA p == 0 && payB p == 0 && payScale p == 0 && payG p == 0

/-- The edge mask operand: all bits where the field is 0. -/
def State.edgeMask (s : State) (k : KOps) : Word := if k.rs2 = 0 then -1 else s.sl.xr k.rs2.toNat

/-- The sources of `mld` and `mst`. -/
def tileSrcs (k : KOps) : List Src := if k.rs2 = 0 then [x1 k] else [x1 k, x2 k]

/-- A slot's tile is loaded from what its lines brought. -/
def State.tileLoaded (s : State) (k tile : Nat) (a : Word) (fmt : Nat) (mask : Word) (got : List (Word × Nat)) : State :=
  (s.modCore (coreOf k) fun c => c.setTile tile (loadedCells a fmt mask got 0 1024)).completeAt k

/-- `mld` -/
def execMld (k : KOps) (s : State) : Host.Outcome State Fault Refusal :=
  let w := wordOf (.mld k)
  let t := k.rd.toNat
  .next (s.run { word := w, format := true, srcs := tileSrcs k }
    (let p := s.sl.payload
     let a := s.sl.xr k.rs1.toNat
     let mask := s.edgeMask k
     let b := cellBytes (payAcc p)
     (require (payTile p) 0x28 (formatAddr p w)).bind fun _ =>
     (require (a.toNat % 64 == 0) 0x3A a).bind fun _ =>
     (require (s.mayClaim t) 0x31 (word t)).bind fun _ =>
     (s.tileTargets .read a (maskLines mask b 0 (16 * b))).bind fun ls =>
     s.ordered false fun s =>
     (stallUnless (s.arrayFree s.curCore)).bind fun _ =>
     (s.lineErrors (nearLines ls)).bind fun _ =>
     let near := (nearLines ls).map fun l => (l.2.1, ofBytes (s.nearBytes s.cur l.2.2 64))
     let far := farLines (fun _ => (0, 0)) ls
     let fresh := !s.mine t
     let s := (nearLines ls).foldl (fun s l => s.corrected l.2.2 64) (s.claimTile t)
     if far.isEmpty then .ok (s.tileLoaded s.cur t a (payAcc p) mask near)
     else
       let s := far.foldl (fun s l => s.touched l.va) s
       let r := s.sendLines s.cur false far.length far
       .ok (r.1.modCur fun sl =>
         { sl with wait := .blocked (.tileLoad t a (payAcc p) mask fresh r.2) far.length
                             (near.map fun g => (g.1.toNat, [0, g.1] ++ wordsOf 8 (toBytes 64 g.2))) })))

/-- The memory bytes of the cells of line j of a tile as a number, the mask of the bytes that cells inside the edge mask
take, and the flags of rounding. -/
def storedLine (cells : List Nat) (fmt : Nat) (mode : Rounding) (sat : Bool) (mask : Word) (j : Nat) : Nat × Nat × Flags :=
  let b := cellBytes fmt
  let per := 64 / b
  (List.range per).foldl (fun acc i =>
    let n := j * per + i
    if inMask mask n then
      let r := narrowCell fmt mode sat (cells.getD n 0)
      (acc.1 + r.1 % 2 ^ (8 * b) * 2 ^ (8 * b * i), acc.2.1 + (2 ^ b - 1) * 2 ^ (b * i), acc.2.2 ||| r.2)
    else acc) (0, 0, 0)

/-- The words with errors that a masked line store does not cover whole. -/
def clearBadMask (bad : List Nat) (a mask : Nat) : List Nat :=
  bad.filter fun w => !(decide (a ≤ w) && decide (w + 8 ≤ a + 64) && bitsOf mask (w - a) 8 == 255)

/-- A near line of a tile is written under its mask. -/
def State.storeLine (s : State) (t : Near) (data mask : Nat) : State :=
  let put := fun (a : Nat) => { s with mem := memWriteMasked s.mem a mask (toBytes 64 data), nearBad := clearBadMask s.nearBad a mask, nearWeak := clearBadMask s.nearWeak a mask }
  match t with
  | .operand a => put a
  | .pad a _ => put a
  | .hole => s

/-- A slot's tile has been stored: the flags accrue, the tile is released, and the instruction completes. -/
def State.tileStored (s : State) (k tile : Nat) (flags : BitVec 5) : State :=
  (s.modCore (coreOf k) fun c => { c with claim := c.claim.del tile }).modSlot k fun sl => (sl.raise flags).complete

/-- `mst`. A near tile is written into its stripes as it is read out, behind the slot's earlier near stores. Its checks come before any
write; an acknowledgement that fails does not undo the writes of the other lines of a far tile (log 111). -/
def execMst (k : KOps) (s : State) : Host.Outcome State Fault Refusal :=
  let w := wordOf (.mst k)
  let t := k.rd.toNat
  .next (s.run { word := w, format := true, srcs := tileSrcs k }
    (let p := s.sl.payload
     let a := s.sl.xr k.rs1.toNat
     let mask := s.edgeMask k
     let b := cellBytes (payAcc p)
     (require (payTile p) 0x28 (formatAddr p w)).bind fun _ =>
     (require (a.toNat % 64 == 0) 0x3A a).bind fun _ =>
     (require (s.mine t) 0x30 (word t)).bind fun _ =>
     (s.tileTargets .write a (maskLines mask b 0 (16 * b))).bind fun ls =>
     s.ordered true fun s =>
     (stallUnless (s.arrayFree s.curCore)).bind fun _ =>
     let cells := (s.core s.curCore).tile t
     let line := storedLine cells (payAcc p) (payMode p) (paySat p) mask
     let flags := ls.foldl (fun f l => f ||| (line l.1).2.2) 0
     let s := s.drainAll s.cur s.sl.fwd.length
     let s := (nearLines ls).foldl (fun s l => s.storeLine l.2.2 (line l.1).1 (line l.1).2.1) s
     let far := farLines (fun j => ((line j).1, (line j).2.1)) ls
     if far.isEmpty then .ok (s.tileStored s.cur t flags)
     else
       let s := far.foldl (fun s l => s.touched l.va) s
       let r := s.sendLines s.cur true far.length far
       .ok (r.1.block (.tileStore t flags r.2) far.length)))

/-! ### `mlb` (R187) -/

/-- A block of n bytes lies in the near window, 64-aligned and wholly in the operand store or the scratchpad. -/
def State.nearBlock (s : State) (a : Word) (n : Nat) : Res Near :=
  if fld a 48 16 == 0 && isNear a.toNat && a.toNat % 64 == 0 then
    match nearTarget s.curCore (fld a 0 44) n with
    | .hole => .trap 0x33 a
    | t => .ok t
  else .trap 0x33 a

/-- The engine owns a tile of a block. -/
def State.blockOwned (s : State) (t : Near) (n : Nat) : Bool :=
  match t with
  | .pad _ cl => s.ownedByEngine s.cur cl n
  | _ => false

/-- `mlb` -/
def execMlb (k : KOps) (s : State) : Host.Outcome State Fault Refusal :=
  let l := k.rd.toNat
  .next (s.run { word := wordOf (.mlb k), srcs := tileSrcs k }
    (let a := s.sl.xr k.rs1.toNat
     let b := s.sl.xr k.rs2.toNat
     (s.nearBlock a 2048).bind fun ta =>
     (if k.rs2 = 0 then .ok .hole else s.nearBlock b 512).bind fun tb =>
     (require ((s.curLatch l).state != LatchState.await) 0x3B (word l)).bind fun _ =>
     (require (!s.blockOwned ta 2048) 0xA0 a).bind fun _ =>
     (require (!s.blockOwned tb 512) 0xA0 b).bind fun _ =>
     s.ordered false fun s =>
     (stallUnless (s.arrayFree s.curCore && !(slotsOf s.curCore).any fun j => (s.slot j).namesLatch s.sl.clause.ctx l)).bind fun _ =>
     (require (s.nearError ta 2048).isNone 0x5B a).bind fun _ =>
     (require (s.nearError tb 512).isNone 0x5B b).bind fun _ =>
     let side := if k.rs2 = 0 then List.replicate 512 0 else s.nearBytes s.cur tb 512
     let t := s.curLatch l
     let s' := s.setLatch s.curCore s.sl.clause.ctx l { t with state := .valid, elems := s.nearBytes s.cur ta 2048, side := side }
     .ok ((((s'.latchReady s.curCore s.sl.clause.ctx l).complete).corrected ta 2048).corrected tb 512)))

/-! ### Operands of a step (R180, R181) -/

/-- The class of an element format (08_numbers.md R165): 1 16-bit, 2 8- and 6-bit float, 3 4-bit float, 4 8-bit integer, 5 4-bit
integer, 0 none. -/
def elemClass (code : Nat) : Nat :=
  if code ≤ 1 then 1 else if code ≤ 5 then 2 else if code = 6 then 3
  else if 8 ≤ code && code ≤ 10 then 4 else if 12 ≤ code && code ≤ 14 then 5 else 0

/-- An element format is asymmetric. -/
def isAsym (code : Nat) : Bool := code == 10 || code == 14

/-- The step length of a class. -/
def stepLength (cls : Nat) : Nat := if cls = 1 then 32 else if cls = 2 || cls = 4 then 64 else 128

/-- The payloads that `mma` accepts (R165). -/
def payMma (p : BitVec 17) : Bool :=
  let a := payA p
  let b := payB p
  let c := elemClass a
  c != 0 && c == elemClass b &&
    (if c = 1 then a == b && payScale p == 0 && payG p == 0 && payAcc p == 0
     else if c ≤ 3 then decide (payScale p ≤ 1) && payG p == 0 && payAcc p == 0
     else if isAsym a || isAsym b then payScale p == 2 && payAcc p == 0
     else payScale p == 0 && payG p == 0 && (payAcc p == 0 || payAcc p == 3))

/-- The side word of group j of row m. -/
def sideWord (side : List Byte) (m j : Nat) : Nat := ofBytes ((side.drop (16 * m + 4 * j)).take 4)

/-- The side words that an operand of a format reads, in order. -/
def sideWords (code g kk : Nat) (side : List Byte) : List Nat :=
  if isAsym code then
    ((List.range 32).map fun m => (List.range (greatest 1 (kk / g))).map fun j => sideWord side m j).flatten
  else []

/-- The value of the element at position k of row m (R181). -/
def elemValue (p : BitVec 17) (code g kk : Nat) (side : List Byte) (m k q : Nat) : Val :=
  if isAsym code then
    let w := word (sideWord side m (k / least g kk))
    dequantise (paramScale w) (paramZero w) q
  else if payScale p = 1 then
    let x := ((side.drop (4 * m + k / 32)).headD 0).toNat
    if x = 255 then .nan true else ((elemType code).value q).scale ((x : Int) - 127)
  else (elemType code).value q

/-- The rows of an operand: the element codes of rows 0 to 31. -/
def codeRows (code kk : Nat) (elems : List Byte) : List (List Nat) :=
  (List.range 32).map fun m => lanesFrom (elemWidth code) (ofBytes ((elems.drop (64 * m)).take 64)) 0 kk

/-- The rows of an operand as exact values. -/
def valueRows (p : BitVec 17) (code g kk : Nat) (elems side : List Byte) : List (List Val) :=
  (codeRows code kk elems).zipIdx.map fun r => r.1.zipIdx.map fun q => elemValue p code g kk side r.2 q.2 q.1

/-! ### Exact-chunk accumulation (R182, R183) -/

/-- The products of two rows with the flags of reading them. -/
def products : List Val → List Val → List (Val × Flags)
  | a :: s, b :: t => a.mul b :: products s t
  | _, _ => []

/-- The flags of a list of products. -/
def productFlags : List (Val × Flags) → Flags
  | [] => 0
  | x :: t => x.2 ||| productFlags t

/-- The largest floor(log2 |p|) of the products that are not 0; none where all are. -/
def largestExp : List (Val × Flags) → Option Int
  | [] => none
  | (.fin _ n d, _) :: t =>
    if n = 0 then largestExp t
    else match largestExp t with
      | some e => some (if floorLog2 n d ≤ e then e else floorLog2 n d)
      | none => some (floorLog2 n d)
  | _ :: t => largestExp t

/-- floor(v / 2^x) of a finite value. -/
def floorAt (x : Int) : Val → Int
  | .fin s n d =>
    let num := if 0 ≤ x then n else n * 2 ^ (-x).toNat
    let den := if 0 ≤ x then d * 2 ^ x.toNat else d
    let v : Int := (if s then -1 else 1) * (num : Int)
    v / (den : Int)
  | _ => 0

/-- The exact sum of the floors of the products. -/
def floorSum (x : Int) : List (Val × Flags) → Int
  | [] => 0
  | p :: t => floorAt x p.1 + floorSum x t

/-- An integer times 2^x as a value. -/
def Val.ofScaled (i x : Int) : Val := (Val.ofInt i).scale x

/-- The sum S of a chunk and its flags. -/
def chunkSum (ps : List (Val × Flags)) : Val × Flags :=
  let f := productFlags ps
  let has := fun (v : Val) => ps.any fun p => p.1 == v
  if ps.any fun p => p.1.isNan then (.nan false, f)
  else if has (.inf false) && has (.inf true) then (.nan false, f ||| flagNV)
  else if has (.inf false) then (.inf false, f)
  else if has (.inf true) then (.inf true, f)
  else match largestExp ps with
    | none => (.fin false 0 1, f)
    | some e => (Val.ofScaled (floorSum (e - 47) ps) (e - 47), f)

/-- The exact sum of a list of finite products and a value. -/
def exactSum (acc : Val) : List (Val × Flags) → Val
  | [] => acc
  | p :: t => exactSum (acc.add .rne p.1).1 t

/-- Two finite values are equal as numbers. -/
def Val.same (a b : Val) : Bool :=
  match a, b with
  | .fin s n d, .fin t m e => (if n = 0 then m == 0 else n * e == m * d && s == t)
  | _, _ => false

/-- The tiny test of R162 on a value. -/
def Val.tiny (f : Fmt) (mode : Rounding) (v : Val) : Bool :=
  match v with
  | .fin s n d => n != 0 && f.isTiny mode s n d
  | _ => false

/-- All products of a chunk are finite. -/
def allFinite (ps : List (Val × Flags)) : Bool := ps.all fun p => match p.1 with | .fin _ _ _ => true | _ => false

/-- One chunk of products into one FP32 cell (R182). -/
def chunkStep (mode : Rounding) (sat : Bool) (cell : Nat) (ps : List (Val × Flags)) : Nat × Flags :=
  let acc := fp32.decode cell
  let s := chunkSum ps
  let exact := acc.add mode s.1
  let r := fp32.round mode sat exact.1
  let f := s.2 ||| exact.2
  match acc with
  | .fin _ _ _ =>
    if allFinite ps then
      let same := (fp32.decode r.1).same (exactSum acc ps)
      let ovf := r.2 &&& flagOF
      (r.1, f ||| ovf ||| flagIf (!same || ovf != 0) flagNX ||| flagIf (!same && exact.1.tiny fp32 mode) flagUF)
    else (r.1, f ||| r.2)
  | _ => (r.1, f ||| r.2)

/-- The chunks of a step into one cell, in ascending K. Structural on the number of chunks. -/
def chunkSteps (mode : Rounding) (sat : Bool) (cell : Nat) (f : Flags) : Nat → List Val → List Val → Nat × Flags
  | 0, _, _ => (cell, f)
  | n + 1, a, b =>
    let r := chunkStep mode sat cell (products (a.take 32) (b.take 32))
    chunkSteps mode sat r.1 (f ||| r.2) n (a.drop 32) (b.drop 32)

/-- The sum of the integer products of two rows. -/
def intProducts : List Int → List Int → Int
  | a :: s, b :: t => a * b + intProducts s t
  | _, _ => 0

/-- An integer step into one cell (R183). -/
def intStep (sat : Bool) (cell : Nat) (a b : List Int) : Nat × Flags :=
  let v := sext cell 32 + intProducts a b
  if sat then
    if v < -(2 ^ 31) then (lowBits (-(2 ^ 31)) 32, flagNV)
    else if 2 ^ 31 - 1 < v then (2 ^ 31 - 1, flagNV)
    else (lowBits v 32, 0)
  else (lowBits v 32, 0)

/-- The cells of a row of a tile after a step, from the columns. -/
def stepRow {α : Type} (f : Nat → α → α → Nat × Flags) (a : α) : List Nat → List α → List (Nat × Flags)
  | c :: cs, b :: bs => f c a b :: stepRow f a cs bs
  | _, _ => []

/-- The cells of a tile after a step, row by row. -/
def stepTile {α : Type} (f : Nat → α → α → Nat × Flags) (cells : List Nat) (cols : List α) : List α → List (Nat × Flags)
  | [] => []
  | a :: t => stepRow f a (cells.take 32) cols ++ stepTile f (cells.drop 32) cols t

/-- An integer element (08_numbers.md R156). -/
def intElem (code q : Nat) : Int := match intFmt code with | some (w, true, _) => sext q w | _ => q

/-- One step (R181 to R183): the new cells of a tile and the flags. -/
def matrixStep (p : BitVec 17) (cells : List Nat) (elemsA sideA elemsB sideB : List Byte) : List (Nat × Flags) :=
  let a := payA p
  let b := payB p
  let kk := stepLength (elemClass a)
  let g := 32 * 2 ^ payG p
  if payAcc p = 3 then
    let row := fun (code : Nat) (elems : List Byte) => (codeRows code kk elems).map fun r => r.map (intElem code)
    stepTile (intStep (paySat p)) cells (row b elemsB) (row a elemsA)
  else
    stepTile (fun c x y => chunkSteps (payMode p) (paySat p) c 0 (kk / 32) x y) cells
      (valueRows p b g kk elemsB sideB) (valueRows p a g kk elemsA sideA)

/-! ### `mma` (R188) -/

/-- The first tile of a run that the issuing slot has not claimed. -/
def State.unclaimed (s : State) (t : Nat) : Nat → Option Nat
  | 0 => none
  | n + 1 => if s.mine t then s.unclaimed (t + 1) n else some t

/-- The side block of the A tile of a step. -/
def State.sideA (s : State) (core a i : Nat) : List Byte := s.bytes (operandAddr core (a + i * 2560 + 2048)) 512

/-- The first side word that breaks 08_numbers.md R157 among those the steps read: of the A tiles, then of the latch. -/
def State.badSide (s : State) (core a count : Nat) (p : BitVec 17) (t : Latch) : Option Nat :=
  let kk := stepLength (elemClass (payA p))
  let g := 32 * 2 ^ payG p
  let bad := fun (code : Nat) (side : List Byte) => (sideWords code g kk side).find? fun w => !paramOk (word w) (elemWidth code)
  ((List.range count).findSome? fun i => bad (payA p) (s.sideA core a i)).orElse fun _ => bad (payB p) t.side

/-- A step of an accepted `mma`, or its end. A step that fails its residue check three times raises 0x39 with its number (R188), and one
whose A tile holds an uncorrectable word 0x5B (11_memory_access.md R197). -/
def State.mmaGo (s : State) (k tile a l count : Nat) (p : BitVec 17) : State :=
  let sl := s.slot k
  let core := coreOf k
  let i := sl.kprog.toNat
  if count ≤ i then
    ((s.modSlot k fun sl => Slot.complete { sl with kprog := 0 })).post (.shadowApply core sl.clause.ctx l)
  else if (s.core core).badArray then
    ((s.modCore core fun c => { c with badArray := false }).trapAt k 0x39 (word i)).post (.shadowApply core sl.clause.ctx l)
  else
    let off := a + i * tileStride p
    if (s.nearError (.operand (operandAddr core off)) (tileStride p)).isSome then
      (s.trapAt k 0x5B (word (0xF * 2 ^ 44 + off))).post (.shadowApply core sl.clause.ctx l)
    else
    let t := s.latch core sl.clause.ctx l
    let s := s.correct (operandAddr core off) (tileStride p)
    let elems := s.bytes (operandAddr core off) 2048
    let side := if payScale p = 0 then [] else s.bytes (operandAddr core (off + 2048)) 512
    let r := matrixStep p ((s.core core).tile (tile + i)) elems side t.elems t.side
    let s := s.modCore core fun c => c.setTile (tile + i) (r.map fun x => x.1)
    let s := s.modSlot k fun sl => { sl.raise (joinFlags r) with kprog := word (i + 1), wait := .mma tile a l count p true }
    s.post (.mmaStep k)

/-- MMA_STEP: the first step waits until the latch is VALID and the side words are checked. -/
def State.mmaStep (s : State) (k : Nat) : State :=
  let sl := s.slot k
  match sl.wait with
  | .mma tile a l count p begun =>
    if s.stopped k then s
    else if begun then s.mmaGo k tile a l count p
    else
      let t := s.latch (coreOf k) sl.clause.ctx l
      if t.state ≠ .valid then s
      else match (if payScale p = 2 then s.badSide (coreOf k) a count p t else none) with
        | some w => s.trapAt k 0x29 (word w)
        | none => s.mmaGo k tile a l count p
  | _ => s

/-- MMA_STEP -/
def execMmaStep (slot : Nat) (s : State) : Host.Outcome State Fault Refusal := .next (s.mmaStep slot)

/-- The checks and the acceptance of an `mma` of c steps. -/
def State.acceptMma (s : State) (w : BitVec 32) (tile : Nat) (a c : Word) (l : Nat) : Res State :=
  let p := s.sl.payload
  let n := c.toNat
  (require (payMma p) 0x28 (formatAddr p w)).bind fun _ =>
  if n = 0 then .ok s.complete
  else
    (require (decide (tile + n ≤ 16)) 0x32 c).bind fun _ =>
    (match s.unclaimed tile n with | some t => Res.trap 0x30 (word t) | none => .ok ()).bind fun _ =>
    (require (a.toNat % 64 == 0 && fld a 48 16 == 0 && isNear a.toNat && decide (fld a 0 44 + n * tileStride p ≤ operandSize)) 0x33 a).bind fun _ =>
    (require ((s.curLatch l).state != LatchState.empty) 0x34 (word l)).bind fun _ =>
    (stallUnless (s.arrayFree s.curCore)).bind fun _ =>
    .ok ((s.modCur fun sl => { sl with wait := .mma tile (fld a 0 44) l n p false }).post (.mmaStep s.cur))

/-- `mma` with a count register -/
def execMmaReg (k : KOps) (s : State) : Host.Outcome State Fault Refusal :=
  let w := wordOf (.mmaReg k)
  .next (s.run { word := w, format := true, srcs := [x1 k, x2 k] }
    (s.acceptMma w k.rd.toNat (s.sl.xr k.rs1.toNat) (s.sl.xr k.rs2.toNat) (k.w.toNat % 2)))

/-- `mma` with an immediate count -/
def execMmaImm (latch : Bool) (l : LOps) (s : State) : Host.Outcome State Fault Refusal :=
  let w := wordOf (.mmaImm latch l)
  .next (s.run { word := w, format := true, srcs := [lBase l] }
    (s.acceptMma w l.rd.toNat (s.sl.xr l.rs1.toNat) (word l.imm8.toNat) latch.toNat))

/-! ### Groups and ring transfers (R179, R190, R191) -/

def geoId (g : Word) : Nat := fld g 56 8
def geoRank (g : Word) : Nat := fld g 44 12
def geoSize (g : Word) : Nat := fld g 31 13
def geoValid (g : Word) : Bool := bit g 30
def geoRing (g : Word) : Bool := bit g 29

/-- The register that holds the membership of the issuing core in a group. -/
def State.membership (s : State) (gid : Nat) : Option Nat :=
  [0, 1, 2, 3].find? fun i => let g := (s.core s.curCore).kgeo.get i 0; geoValid g && geoId g == gid

/-- The membership in the group that `rs1` names, or 0x35. -/
def State.needMember (s : State) (k : KOps) : Res (Nat × Word) :=
  let gid := fld (s.sl.xr k.rs1.toNat) 0 8
  match s.membership gid with
  | none => .trap 0x35 (word gid)
  | some i => .ok (i, (s.core s.curCore).kgeo.get i 0)

/-- The physical core at a rank of a membership's group. -/
def State.rankCore (s : State) (i r : Nat) : Nat := ((s.core s.curCore).ranks.get i []).getD r s.curCore

/-- A slot's ring transfer waits for nothing of its own core but its port: its latch is VALID and its cluster runs. -/
def State.ringReady (s : State) (k : Nat) : Bool :=
  let sl := s.slot k
  match sl.wait with
  | .ring latch _ _ _ => !s.stopped k && (s.latch (coreOf k) sl.clause.ctx latch).state == .valid
  | _ => false

/-- A slot's ring transfer to a core, context and latch can be made: it is the first that its core's port serves, in issue order among
those whose latch is VALID (R189). -/
def State.ringSender (s : State) (core c l k : Nat) (sl : Slot) : Bool :=
  match sl.wait with
  | .ring latch dst _ _ =>
    latch == l && dst == core && sl.clause.ctx == c && s.ringReady k && ((s.core (coreOf k)).ring.find? fun j => s.ringReady j) == some k
  | _ => false

/-- The issuing slot's transfers join those of its core's port, in issue order. -/
def State.ringIssue (s : State) (l dst count : Nat) (pass : Bool) : State :=
  let busy := fun k => k != s.cur && (match (s.slot k).wait with | .ring _ _ _ _ => true | _ => false)
  ((s.modCore s.curCore fun c => { c with ring := c.ring.filter busy ++ [s.cur] }).modCur fun sl => { sl with wait := .ring l dst count pass }).post
    (.latchTransferArrival dst s.sl.clause.ctx l)

/-- A transfer of a slot has been accepted: a pass of `mring` leaves the sender's latch AWAIT, and the next pass follows; an
`mpass` completes. -/
def State.sent (s : State) (k : Nat) : State :=
  let sl := s.slot k
  let core := coreOf k
  let c := sl.clause.ctx
  match sl.wait with
  | .ring l _ count true =>
    let s := s.setLatch core c l { s.latch core c l with state := .await }
    let i := sl.kprog.toNat + 1
    let s := if count ≤ i then s.modSlot k fun sl => Slot.complete { sl with kprog := 0 }
             else s.setSlot k { sl with kprog := word i }
    s.applyShadow core c l
  | .ring _ _ _ false => s.completeAt k
  | _ => s

/-- LATCH_TRANSFER_ARRIVAL: a transfer for a latch is written into its shadow, if that is free; the sender goes on, and its core's port
serves the next. Of several cores' transfers for one shadow the lowest core's comes first: log 112. -/
def State.transfer (s : State) (core c l : Nat) : State :=
  let t := s.latch core c l
  if t.shadow.isSome then s
  else match s.slots.find? fun e => s.ringSender core c l e.1 e.2 with
    | none => s
    | some (k, _) =>
      let from_ := s.latch (coreOf k) c l
      let s := s.setLatch core c l { t with shadow := some (from_.elems, from_.side) }
      ((s.sent k).wakeRing (coreOf k)).applyShadow core c l

/-- LATCH_TRANSFER_ARRIVAL -/
def execLatchTransferArrival (core ctx latch : Nat) (s : State) : Host.Outcome State Fault Refusal :=
  .next (s.transfer core ctx latch)

/-- `mring` -/
def execMring (k : KOps) (s : State) : Host.Outcome State Fault Refusal :=
  let l := k.rd.toNat
  .next (s.run { word := wordOf (.mring k), srcs := tileSrcs k }
    ((s.needMember k).bind fun (i, g) =>
     let c := if k.rs2 = 0 then 1 else s.sl.xr k.rs2.toNat
     (require (geoRing g) 0x36 (word (geoId g))).bind fun _ =>
     (require (decide (c.toNat ≤ 4095)) 0x32 c).bind fun _ =>
     if c = 0 then .ok s.complete
     else
       (require ((s.curLatch l).state != LatchState.empty) 0x34 (word l)).bind fun _ =>
       if c.toNat ≤ s.sl.kprog.toNat then .ok (s.modCur fun sl => Slot.complete { sl with kprog := 0 })
       else
         let dst := s.rankCore i ((geoRank g + 1) % geoSize g)
         .ok (s.ringIssue l dst c.toNat true)))

/-- `mpass` -/
def execMpass (k : KOps) (s : State) : Host.Outcome State Fault Refusal :=
  let l := k.rd.toNat
  .next (s.run { word := wordOf (.mpass k), srcs := [x1 k, x2 k] }
    ((s.needMember k).bind fun (i, g) =>
     let r := s.sl.xr k.rs2.toNat
     let c := s.sl.clause.ctx
     (require (decide (r.toNat < geoSize g)) 0x37 r).bind fun _ =>
     if r.toNat = geoRank g then
       .ok ((s.setLatch s.curCore c l { s.curLatch l with state := .await }).applyShadow s.curCore c l).complete
     else
       (require ((s.curLatch l).state != LatchState.empty) 0x34 (word l)).bind fun _ =>
       let dst := s.rankCore i r.toNat
       .ok (s.ringIssue l dst 1 false)))

/-! ### `mgeo` (R192) -/

/-- The part of a total that falls to member i: its first element and its count. -/
def splitPart (t parts i : Nat) : Nat × Nat := (i * (t / parts) + least i (t % parts), t / parts + (decide (i < t % parts)).toNat)

/-- The mask of the last tile row or column. -/
def edgeBits (m tiles first count : Nat) : Nat :=
  if 0 < count && first + count == tiles && m % 32 != 0 then 2 ^ (m % 32) - 1 else 0xFFFFFFFF

/-- `mgeo` -/
def execMgeo (k : KOps) (s : State) : Host.Outcome State Fault Refusal :=
  .next (s.run { word := wordOf (.mgeo k), groups := [(k.rd.toNat, 4)], srcs := [x1 k], dsts := [toX k 4] }
    ((s.needMember k).bind fun (i, g) =>
     let ws := (s.core s.curCore).geo.get i []
     let n := fun (j : Nat) => (ws.getD j 0).toNat
     let p := n 2 % 2 ^ 16
     (require (p != 0 && decide (p ≤ geoSize g) && geoSize g % p == 0) 0x38 (word (n 2))).bind fun _ =>
     let tm := (n 0 + 31) / 32
     let tn := (n 1 + 31) / 32
     let r := splitPart tm (geoSize g / p) (geoRank g / p)
     let c := splitPart tn p (geoRank g % p)
     let ws := [word (r.1 + r.2 * 2 ^ 32), word (c.1 + c.2 * 2 ^ 32),
                word (edgeBits (n 0) tm r.1 r.2 + edgeBits (n 1) tn c.1 c.2 * 2 ^ 32), word (n 3)]
     .ok (s.modCur fun sl => (sl.setXs k.rd.toNat ws).complete)))

end Sys2Proof.Machine
end

