-- ==== Sys2Proof/Machine/Scalar.lean ====
section
/-!
DEFINITION. The custom scalar instructions of 05_scalar.md: the scalar extras (R84, R85), the hardware loops (R86, R87),
`align` (R94), and scalar floating point (R89 to R92).
-/
namespace Sys2Proof.Machine

/-! ### Scalar extras -/

/-- An instruction of two x sources and one x destination, without a cause of its own. -/
def scalar2 (w32 : BitVec 32) (k : KOps) (op : Word → Word → Word) (s : State) : State :=
  s.run { word := w32, srcs := [x1 k, x2 k], dsts := [toX k] }
    (.ok (s.finishX k.rd.toNat (op (s.sl.xr k.rs1.toNat) (s.sl.xr k.rs2.toNat))))

/-- An instruction of one x source and one x destination. -/
def scalar1 (w32 : BitVec 32) (k : KOps) (op : Word → Word) (s : State) : State :=
  s.run { word := w32, srcs := [x1 k], dsts := [toX k] } (.ok (s.finishX k.rd.toNat (op (s.sl.xr k.rs1.toNat))))

/-- a is not above b, compared natural or signed (R84). -/
def wordLe (natural : Bool) (a b : Word) : Bool := if natural then a.ule b else a.sle b

/-- `min`: the smaller of two words (R84). -/
def execMin (k : KOps) (s : State) : Host.Outcome State Fault Refusal :=
  .next (scalar2 (wordOf (.min k)) k (fun a b => if wordLe (k.w.getLsbD 0) a b then a else b) s)

/-- `max`: the larger of two words (R84). -/
def execMax (k : KOps) (s : State) : Host.Outcome State Fault Refusal :=
  .next (scalar2 (wordOf (.max k)) k (fun a b => if wordLe (k.w.getLsbD 0) a b then b else a) s)

/-- The number of zeros above the highest one of the low n bits of a number. -/
def leadingZeros (v : Nat) : Nat → Nat
  | 0 => 0
  | n + 1 => if bitOf v n then 0 else 1 + leadingZeros v n

/-- The number of zeros below the lowest one among n bits of a number from bit i up. -/
def trailingZeros (v i : Nat) : Nat → Nat
  | 0 => 0
  | n + 1 => if bitOf v i then 0 else 1 + trailingZeros v (i + 1) n

/-- The number of ones among the low n bits of a number. -/
def onesIn (v : Nat) : Nat → Nat
  | 0 => 0
  | n + 1 => (bitOf v n).toNat + onesIn v n

/-- `clz`: leading zeros, 64 for 0 (R84). -/
def execClz (k : KOps) (s : State) : Host.Outcome State Fault Refusal :=
  .next (scalar1 (wordOf (.clz k)) k (fun a => word (leadingZeros a.toNat 64)) s)

/-- `ctz`: trailing zeros, 64 for 0 (R84). -/
def execCtz (k : KOps) (s : State) : Host.Outcome State Fault Refusal :=
  .next (scalar1 (wordOf (.ctz k)) k (fun a => word (trailingZeros a.toNat 0 64)) s)

/-- `cpop`: the number of ones (R84). -/
def execCpop (k : KOps) (s : State) : Host.Outcome State Fault Refusal :=
  .next (scalar1 (wordOf (.cpop k)) k (fun a => word (onesIn a.toNat 64)) s)

/-- `csel`: the old destination selects a source (R84). -/
def execCsel (k : KOps) (s : State) : Host.Outcome State Fault Refusal :=
  .next (s.run { word := wordOf (.csel k), srcs := [x1 k, x2 k, xd k], dsts := [toX k] }
    (.ok (s.finishX k.rd.toNat (if s.sl.xr k.rd.toNat ≠ 0 then s.sl.xr k.rs1.toNat else s.sl.xr k.rs2.toNat))))

/-- `rol`: rotates left by the low six bits of rs2 (R84). -/
def execRol (k : KOps) (s : State) : Host.Outcome State Fault Refusal :=
  .next (scalar2 (wordOf (.rol k)) k (fun a b => a.rotateLeft (fld b 0 6)) s)

/-- `ror`: rotates right by the low six bits of rs2 (R84). -/
def execRor (k : KOps) (s : State) : Host.Outcome State Fault Refusal :=
  .next (scalar2 (wordOf (.ror k)) k (fun a b => a.rotateRight (fld b 0 6)) s)

/-- `rol` by an immediate (R84). -/
def execRolImm (l : LOps) (s : State) : Host.Outcome State Fault Refusal :=
  .next (s.run { word := wordOf (.rolImm l), srcs := [⟨false, l.rs1.toNat, 1, l.e1, 1⟩], dsts := [⟨false, l.rd.toNat, 1, 0⟩] }
    (.ok (s.finishX l.rd.toNat ((s.sl.xr l.rs1.toNat).rotateLeft (l.imm8.toNat % 64)))))

/-- `ror` by an immediate (R84). -/
def execRorImm (l : LOps) (s : State) : Host.Outcome State Fault Refusal :=
  .next (s.run { word := wordOf (.rorImm l), srcs := [⟨false, l.rs1.toNat, 1, l.e1, 1⟩], dsts := [⟨false, l.rd.toNat, 1, 0⟩] }
    (.ok (s.finishX l.rd.toNat ((s.sl.xr l.rs1.toNat).rotateRight (l.imm8.toNat % 64)))))

/-- The position and width that a field operand gives (R85). -/
def fieldPos (v : Word) : Nat := fld v 0 6
def fieldWidth (v : Word) : Nat := fld v 8 7

/-- A field operand is in range (R85). -/
def fieldOk (v : Word) : Bool := fieldWidth v != 0 && decide (fieldPos v + fieldWidth v ≤ 64)

/-- `bfx`: extracts a field, zero-extended; a bad range raises 0x18 (R85). -/
def execBfx (k : KOps) (s : State) : Host.Outcome State Fault Refusal :=
  .next (s.run { word := wordOf (.bfx k), srcs := [x1 k, x2 k], dsts := [toX k] }
    (let v := s.sl.xr k.rs2.toNat
     (require (fieldOk v) 0x18 v).bind fun _ =>
     .ok (s.finishX k.rd.toNat (word (fld (s.sl.xr k.rs1.toNat) (fieldPos v) (fieldWidth v))))))

/-- `bfi`: inserts a field into the old destination; a bad range raises 0x18 (R85). -/
def execBfi (k : KOps) (s : State) : Host.Outcome State Fault Refusal :=
  .next (s.run { word := wordOf (.bfi k), srcs := [x1 k, x2 k, xd k], dsts := [toX k] }
    (let v := s.sl.xr k.rs2.toNat
     (require (fieldOk v) 0x18 v).bind fun _ =>
     .ok (s.finishX k.rd.toNat
       (withFld (s.sl.xr k.rd.toNat) (fieldPos v) (fieldWidth v) (s.sl.xr k.rs1.toNat).toNat))))

/-! ### Hardware loops (R86) -/

/-- Loop k may start at address a with a body of len instructions; otherwise 0x17. -/
def Slot.loopOk (sl : Slot) (k : Bool) (a len : Nat) : Bool :=
  (if k then sl.kloop1 == 0 && (sl.kloop0 == 0 || (decide (sl.kls0.toNat ≤ a + 4) && decide (a + 4 * len ≤ sl.kle0.toNat)))
   else sl.kloop0 == 0 && sl.kloop1 == 0)
    && decide (a + 4 * len < sl.clause.codeBase.toNat + sl.clause.codeSize)

/-- A loop starts with a count, or its body is skipped where the count is 0. -/
def Slot.loopStart (sl : Slot) (k : Bool) (len : Nat) (count : Word) : Slot :=
  let a := sl.pc.toNat
  if count = 0 then sl.jump (word (a + 4 * len + 4))
  else if k then { sl.jump (word (a + 4)) with kloop1 := count, kls1 := word (a + 4), kle1 := word (a + 4 * len) }
  else { sl.jump (word (a + 4)) with kloop0 := count, kls0 := word (a + 4), kle0 := word (a + 4 * len) }

/-- `loopi`: starts a loop with an immediate count (R86). -/
def execLoopi (k : Bool) (l : LOps) (s : State) : Host.Outcome State Fault Refusal :=
  let len := bodyLength l.rd l.rs1
  .next (s.run { word := wordOf (.loopi k l) }
    ((require (s.sl.loopOk k s.sl.pc.toNat len) 0x17 s.sl.pc).bind fun _ =>
      .ok (s.modCur fun sl => sl.loopStart k len (l.imm8.setWidth 64))))

/-- `loop`: starts a loop with the count of a register (R86). -/
def execLoop (k : KOps) (s : State) : Host.Outcome State Fault Refusal :=
  let len := bodyLength k.rd k.rs2
  let n := k.w.getLsbD 0
  .next (s.run { word := wordOf (.loop k), srcs := [x1 k] }
    ((require (s.sl.loopOk n s.sl.pc.toNat len) 0x17 s.sl.pc).bind fun _ =>
      .ok (s.modCur fun sl => sl.loopStart n len (sl.xr k.rs1.toNat))))

/-! ### Alignment (R94) -/

/-- A slot is held at an `align` word at an address for a launch: a slot of another launch at that address neither counts nor is released.
DESIGN CHOICE, log 95. -/
def Slot.heldAt (sl : Slot) (a : Word) (launch : Nat) : Bool :=
  match sl.wait with
  | .align _ _ => sl.phase == .running && sl.pc == a && sl.clause.launch == launch
  | _ => false

/-- A slot has a clause of a launch bound. -/
def Slot.boundTo (sl : Slot) (launch : Nat) : Bool := sl.phase != .free && sl.clause.launch == launch

/-- The slots of a core, by slot number. -/
def State.coreSlotsOf (s : State) (core : Nat) : List Slot := (List.range 4).map fun i => s.slot (core * 4 + i)

/-- Every core of a cluster that has a slot bound to a clause of the launch has one held at the address. -/
def State.alignMet (s : State) (cluster : Nat) (a : Word) (launch : Nat) : Bool :=
  (List.range 8).all fun i =>
    let l := s.coreSlotsOf (cluster * 8 + i)
    l.all (fun sl => !sl.boundTo launch) || l.any fun sl => sl.heldAt a launch

/-- The wait of a slot held at `align` has run out. -/
def Slot.alignExpired (sl : Slot) : Bool :=
  match sl.wait with
  | .align since t => decide (since + 64 * (t + 1) ≤ sl.cycles)
  | _ => false

/-- `align`: holds the slot at the word; the release follows as the event ALIGN_RELEASE. -/
def execAlign (l : LOps) (s : State) : Host.Outcome State Fault Refusal :=
  .next (s.run { word := wordOf (.align l) }
    (let t := match s.sl.wait with
       | .align _ _ => s
       | _ => s.modCur fun sl => { sl with wait := .align sl.cycles l.imm8.toNat }
     if t.alignMet (clusterOf t.curCore) t.sl.pc t.sl.clause.launch || t.sl.alignExpired then
       .ok (t.post (.alignRelease t.cur))
     else .ok t))

/-- A slot held at the address is released to the next word. -/
def Slot.release (sl : Slot) (a : Word) (launch : Nat) : Slot := if sl.heldAt a launch then sl.complete else sl

/-- ALIGN_RELEASE of a slot: every slot of the cluster held at the address continues where the cores have met; a slot whose
wait has run out continues alone. -/
def execAlignRelease (slot : Nat) (s : State) : Host.Outcome State Fault Refusal :=
  let sl := s.slot slot
  let a := sl.pc
  let n := sl.clause.launch
  let cl := clusterOf (coreOf slot)
  .next (if !sl.heldAt a n || s.stopped slot then s
    else if s.alignMet cl a n then
      { s with slots := s.slots.map fun e => if clusterOf (coreOf e.1) = cl then (e.1, e.2.release a n) else e }
    else if sl.alignExpired then s.completeAt slot
    else s)

/-! ### Scalar floating point (R89 to R92) -/

/-- The format of a scalar floating-point type code: 00 FP32, 01 FP64. -/
def scalarFmt (w : BitVec 2) : Fmt := if w = 0 then fp32 else fp64

/-- The code of an operand: the low bits of the register that the format takes. -/
def operandCode (f : Fmt) (v : Word) : Nat := v.toNat % 2 ^ f.width

/-- The payload check of a scalar F instruction (08_numbers.md R164). -/
def scalarPayload (w32 : BitVec 32) (s : State) : Res Unit :=
  require (payPlain s.sl.payload) 0x28 (formatAddr s.sl.payload w32)

/-- A scalar floating-point instruction of two operands and one rounding. -/
def scalarFp2 (w32 : BitVec 32) (k : KOps) (op : Rounding → Val → Val → Val × Flags) (s : State) : State :=
  s.run { word := w32, format := true, srcs := [x1 k, x2 k], dsts := [toX k] }
    ((scalarPayload w32 s).bind fun _ =>
      let f := scalarFmt k.w
      let p := s.sl.payload
      let r := finishFp f p (op (payMode p) (f.decode (operandCode f (s.sl.xr k.rs1.toNat)))
        (f.decode (operandCode f (s.sl.xr k.rs2.toNat))))
      .ok (s.finishXF k.rd.toNat (word r.1) r.2))

/-- `fadd` (R90). -/
def execFadd (k : KOps) (s : State) : Host.Outcome State Fault Refusal :=
  .next (scalarFp2 (wordOf (.fadd k)) k (fun m a b => Val.add m a b) s)

/-- `fsub` (R90). -/
def execFsub (k : KOps) (s : State) : Host.Outcome State Fault Refusal :=
  .next (scalarFp2 (wordOf (.fsub k)) k (fun m a b => Val.add m a b.negate) s)

/-- `fmul` (R90). -/
def execFmul (k : KOps) (s : State) : Host.Outcome State Fault Refusal :=
  .next (scalarFp2 (wordOf (.fmul k)) k (fun _ a b => Val.mul a b) s)

/-- `fdiv` (R90). -/
def execFdiv (k : KOps) (s : State) : Host.Outcome State Fault Refusal :=
  .next (scalarFp2 (wordOf (.fdiv k)) k (fun _ a b => Val.div a b) s)

/-- `fmin` (R90). -/
def execFmin (k : KOps) (s : State) : Host.Outcome State Fault Refusal :=
  .next (scalarFp2 (wordOf (.fmin k)) k (fun _ a b => Val.pick true a b) s)

/-- `fmax` (R90). -/
def execFmax (k : KOps) (s : State) : Host.Outcome State Fault Refusal :=
  .next (scalarFp2 (wordOf (.fmax k)) k (fun _ a b => Val.pick false a b) s)

/-- `fma`: rs1 · rs2 + old rd, fused (R90). -/
def execFma (k : KOps) (s : State) : Host.Outcome State Fault Refusal :=
  let w32 := wordOf (.fma k)
  .next (s.run { word := w32, format := true, srcs := [x1 k, x2 k, xd k], dsts := [toX k] }
    ((scalarPayload w32 s).bind fun _ =>
      let f := scalarFmt k.w
      let p := s.sl.payload
      let v := fun (r : Reg) => f.decode (operandCode f (s.sl.xr r.toNat))
      let r := finishFp f p (Val.fma (payMode p) (v k.rs1) (v k.rs2) (v k.rd))
      .ok (s.finishXF k.rd.toNat (word r.1) r.2)))

/-- `fsqrt` (R90). -/
def execFsqrt (k : KOps) (s : State) : Host.Outcome State Fault Refusal :=
  let w32 := wordOf (.fsqrt k)
  .next (s.run { word := w32, format := true, srcs := [x1 k], dsts := [toX k] }
    ((scalarPayload w32 s).bind fun _ =>
      let f := scalarFmt k.w
      let r := finishFp f s.sl.payload (Val.sqrt (f.decode (operandCode f (s.sl.xr k.rs1.toNat))))
      .ok (s.finishXF k.rd.toNat (word r.1) r.2)))

/-- The relation mask of `fcmp` (R91). -/
def relMask (r : Rel) : Word :=
  match r with
  | .lt => 1
  | .eq => 2
  | .gt => 4
  | .un => 8

/-- `fcmp`: the relation mask of two operands; only a signalling NaN sets NV (R91). It takes no format. -/
def execFcmp (k : KOps) (s : State) : Host.Outcome State Fault Refusal :=
  .next (s.run { word := wordOf (.fcmp k), srcs := [x1 k, x2 k], dsts := [toX k] }
    (let f := scalarFmt k.w
     let a := f.decode (operandCode f (s.sl.xr k.rs1.toNat))
     let b := f.decode (operandCode f (s.sl.xr k.rs2.toNat))
     .ok (s.finishXF k.rd.toNat (relMask (a.rel b)) (flagIf (a.signals || b.signals) flagNV))))

/-- The destination and source types of an `fcvt` code (R91). -/
def fcvtTypes (code : Nat) : NumType × NumType :=
  match code with
  | 0 => (.fp fp64, .fp fp32)
  | 1 => (.fp fp32, .fp fp64)
  | 2 => (.fp fp32, .int 64 true)
  | 3 => (.fp fp64, .int 64 true)
  | 4 => (.fp fp32, .int 64 false)
  | 5 => (.fp fp64, .int 64 false)
  | 6 => (.int 64 true, .fp fp32)
  | 7 => (.int 64 true, .fp fp64)
  | 8 => (.int 64 false, .fp fp32)
  | 9 => (.int 64 false, .fp fp64)
  | 10 => (.int 32 true, .fp fp32)
  | 11 => (.int 32 true, .fp fp64)
  | 12 => (.int 32 false, .fp fp32)
  | 13 => (.int 32 false, .fp fp64)
  | 14 => (.fp fp32, .fp fp16)
  | 15 => (.fp fp16, .fp fp32)
  | 16 => (.fp fp32, .fp bf16)
  | _ => (.fp bf16, .fp fp32)

/-- The register that a conversion result makes: a signed 32-bit one is sign-extended, every other one zero-extended. -/
def fcvtResult (t : NumType) (code : Nat) : Word :=
  match t with
  | .int 32 true => wordInt (sext code 32)
  | _ => word code

/-- `fcvt` (R91). -/
def execFcvt (k : KOps) (s : State) : Host.Outcome State Fault Refusal :=
  let w32 := wordOf (.fcvt k)
  .next (s.run { word := w32, format := true, srcs := [x1 k], dsts := [toX k] }
    ((scalarPayload w32 s).bind fun _ =>
      let t := fcvtTypes k.rs2.toNat
      let p := s.sl.payload
      let r := t.1.encode (payMode p) (paySat p) (t.2.value ((s.sl.xr k.rs1.toNat).toNat % 2 ^ t.2.width))
      .ok (s.finishXF k.rd.toNat (fcvtResult t.1 r.1) r.2)))

end Sys2Proof.Machine
end

