-- ==== Sys2Proof/Machine/Sm3.lean ====
section
/-!
DEFINITION. The hash SM3 (GB/T 32905), which seals trace segments (25_debug.md R441) and measures the boot image (26_platform.md R449).
The spec names it; its steps are those of the standard. PRESUMED, log 17.
-/
namespace Sys2Proof.Machine

/-- The word whose bytes a list holds, first byte highest. -/
def bigEndian (bs : List Byte) : BitVec 32 := BitVec.ofNat 32 (bs.foldl (fun n b => n * 256 + b.toNat) 0)

/-- The words of a block. Structural on their number. -/
def blockWords : Nat → List Byte → List (BitVec 32)
  | 0, _ => []
  | n + 1, bs => bigEndian (bs.take 4) :: blockWords n (bs.drop 4)

/-- The permutations P0 and P1. -/
def sm3P0 (x : BitVec 32) : BitVec 32 := x ^^^ x.rotateLeft 9 ^^^ x.rotateLeft 17
def sm3P1 (x : BitVec 32) : BitVec 32 := x ^^^ x.rotateLeft 15 ^^^ x.rotateLeft 23

/-- The expanded words of a block, the newest first. Structural on the number of words to add. -/
def sm3Expand (ws : List (BitVec 32)) : Nat → List (BitVec 32)
  | 0 => ws
  | n + 1 =>
    let w := fun i => ws.getD (i - 1) 0
    sm3Expand ((sm3P1 (w 16 ^^^ w 9 ^^^ (w 3).rotateLeft 15) ^^^ (w 13).rotateLeft 7 ^^^ w 6) :: ws) n

/-- The chaining value, as eight words. -/
structure Sm3 where
  a : BitVec 32
  b : BitVec 32
  c : BitVec 32
  d : BitVec 32
  e : BitVec 32
  f : BitVec 32
  g : BitVec 32
  h : BitVec 32

/-- One round of the compression. -/
def Sm3.round (v : Sm3) (j : Nat) (w w' : BitVec 32) : Sm3 :=
  let t : BitVec 32 := (if j < 16 then 0x79CC4519 else 0x7A879D8A)
  let s1 := (v.a.rotateLeft 12 + v.e + t.rotateLeft (j % 32)).rotateLeft 7
  let s2 := s1 ^^^ v.a.rotateLeft 12
  let ff := if j < 16 then v.a ^^^ v.b ^^^ v.c else (v.a &&& v.b) ||| (v.a &&& v.c) ||| (v.b &&& v.c)
  let gg := if j < 16 then v.e ^^^ v.f ^^^ v.g else (v.e &&& v.f) ||| (~~~v.e &&& v.g)
  { a := ff + v.d + s2 + w', b := v.a, c := v.b.rotateLeft 9, d := v.c,
    e := sm3P0 (gg + v.h + s1 + w), f := v.e, g := v.f.rotateLeft 19, h := v.g }

/-- The rounds from j on over the expanded words from W j on. Structural on the number of rounds. -/
def Sm3.rounds (v : Sm3) (j : Nat) (ws : List (BitVec 32)) : Nat → Sm3
  | 0 => v
  | n + 1 => (v.round j (ws.getD 0 0) (ws.getD 0 0 ^^^ ws.getD 4 0)).rounds (j + 1) (ws.drop 1) n

/-- The chaining value after one block of 64 bytes. -/
def Sm3.block (v : Sm3) (bs : List Byte) : Sm3 :=
  let r := v.rounds 0 (sm3Expand (blockWords 16 bs).reverse 52).reverse 64
  { a := v.a ^^^ r.a, b := v.b ^^^ r.b, c := v.c ^^^ r.c, d := v.d ^^^ r.d, e := v.e ^^^ r.e, f := v.f ^^^ r.f, g := v.g ^^^ r.g, h := v.h ^^^ r.h }

/-- The chaining value after n blocks. -/
def Sm3.blocks (v : Sm3) (bs : List Byte) : Nat → Sm3
  | 0 => v
  | n + 1 => (v.block (bs.take 64)).blocks (bs.drop 64) n

/-- The first chaining value. -/
def sm3Iv : Sm3 :=
  { a := 0x7380166F, b := 0x4914B2B9, c := 0x172442D7, d := 0xDA8A0600, e := 0xA96F30BC, f := 0x163138AA, g := 0xE38DEE4D, h := 0xB0FB0E4E }

/-- The 32-byte hash of a list of bytes. -/
def sm3 (bs : List Byte) : List Byte :=
  let n := bs.length
  let padded := bs ++ [0x80] ++ List.replicate ((119 - n % 64) % 64) 0 ++ (toBytes 8 (8 * n)).reverse
  let v := sm3Iv.blocks padded (padded.length / 64)
  [v.a, v.b, v.c, v.d, v.e, v.f, v.g, v.h].flatMap fun w => (toBytes 4 w.toNat).reverse

end Sys2Proof.Machine
end

