-- ==== Sys2Proof/Machine/Estimate.lean ====
section
/-!
DEFINITION. Ending clauses wherever they stand (06_messages.md R132), which launch kills and estimator stops share, and the
estimator contexts of 22_launch_estimate.md: descriptors (R383), permutations (R384, R385), handing out (R386), acceptance
(R387, R388), stopping (R389), result records (R390) and the instructions `eitem`, `econ` and `estat` (R392, R395 to R397).
-/
namespace Sys2Proof.Machine

/-! ### Ending clauses -/

/-- The clause that a spawn message will start. -/
def childClause (m : Msg) : Clause :=
  let w2 := m.payload.getD 2 0
  { ctx := m.ctx.toNat, launch := m.launch, chan := BitVec.ofNat 8 (fld w2 40 8), prio := fld w2 32 8, homed := bit w2 48,
    parent := m.payload.getD 3 0, ordinal := BitVec.ofNat 32 (fld w2 0 32) }

/-- A spawn message whose child passes a test. -/
def isChild (p : Clause → Bool) (m : Msg) : Bool := m.kind == 0x03 && p (childClause m)

/-- The children of a context that have not started. -/
def Ctx.children (x : Ctx) (p : Clause → Bool) : List Msg :=
  x.held.filter (isChild p) ++ (x.pool.filter fun q => q.kind == .child && isChild p q.msg).map fun q => q.msg

/-- The context without them. -/
def Ctx.dropChildren (x : Ctx) (p : Clause → Bool) : Ctx :=
  { x with held := x.held.filter (fun m => !isChild p m), pool := x.pool.filter fun q => !(q.kind == .child && isChild p q.msg) }

/-- The children of a core that have not started. -/
def Core.children (c : Core) (p : Clause → Bool) : List Msg :=
  (c.outq.map fun o => o.msg).filter (isChild p) ++ (c.ctxs.map fun (e : Nat × Ctx) => e.2.children p).flatten

/-- The core without them. -/
def Core.dropChildren (c : Core) (p : Clause → Bool) : Core :=
  { c with outq := c.outq.filter (fun o => !isChild p o.msg), ctxs := c.ctxs.map fun (e : Nat × Ctx) => (e.1, e.2.dropChildren p) }

/-- A child has ended before it started: it reports to its parent as lost. -/
def State.childLost (s : State) (m : Msg) : State :=
  (s.sendResult m.dstCore.toNat (childClause m) m.srcVf.toNat (m.payload.getD 1 0) 0 0 true).clauseGone m.launch true

/-- Children that have not started, wherever their message is, end. -/
def State.killChildren (s : State) (p : Clause → Bool) : State :=
  let parked := (s.hub.launches.map fun e => e.2.parked.filter (isChild p)).flatten
  let ms := s.net.filter (isChild p) ++ (s.cores.map fun (e : Nat × Core) => e.2.children p).flatten ++ parked
  let s := { s with net := s.net.filter (fun m => !isChild p m), cores := s.cores.map fun (e : Nat × Core) => (e.1, e.2.dropChildren p) }
  let s := s.modHub fun h =>
    { h with launches := h.launches.map fun (e : Nat × Launch) => (e.1, { e.2 with parked := e.2.parked.filter fun m => !isChild p m }) }
  ms.foldl (fun s m => s.childLost m) s

/-- A pool entry for a resumed clause that passes a test. -/
def State.isResumed (s : State) (p : Clause → Bool) (c : Nat) (q : PoolItem) : Bool :=
  match q.kind with
  | .resumed core i => p (s.record core c i).clause
  | _ => false

/-- A context without the pool entries of clauses that pass a test. -/
def State.dropResumed (s : State) (p : Clause → Bool) (core c : Nat) : State :=
  let keep := fun (q : PoolItem) => !s.isResumed p c q
  let s' := s.modCtx core c fun x => { x with pool := x.pool.filter keep, savedPool := x.savedPool.filter keep }
  if (s.ctx core c).saved then s'.writeSaved core c else s'

/-- The contexts of the package, as core and context number. -/
def State.contexts (s : State) : List (Nat × Nat) := (s.cores.map fun e => e.2.ctxs.map fun x => (e.1, x.1)).flatten

/-- The records of a context whose clauses pass a test. -/
def State.recordsOf (s : State) (p : Clause → Bool) (core c : Nat) : List Nat :=
  ((s.ctx core c).recs.filter fun e => p e.2.clause).map fun e => e.1

/-- Every clause that passes a test is killed: bound, frozen, suspended, runnable and not yet started. -/
def State.killClauses (s : State) (p : Clause → Bool) : State :=
  let s := s.killChildren p
  let ks := (s.slots.filter fun e => e.2.phase != .free && p e.2.clause).map fun e => e.1
  let s := ks.foldl (fun s k => s.killSlot k) s
  let s := s.contexts.foldl (fun s x => s.dropResumed p x.1 x.2) s
  s.contexts.foldl (fun s x => (s.recordsOf p x.1 x.2).foldl (fun s i => s.killRecord x.1 x.2 i) s) s

/-! ### Descriptors (R383) -/

def edItems (d : List Word) : Nat := fld (d.getD 0 0) 0 48
def edPerm (d : List Word) : Nat := fld (d.getD 0 0) 48 2
def edPull (d : List Word) : Bool := bit (d.getD 0 0) 50
def edKillStop (d : List Word) : Bool := bit (d.getD 0 0) 51
def edBatch (d : List Word) : Nat := fld (d.getD 3 0) 0 32
def edMin (d : List Word) : Nat := fld (d.getD 3 0) 32 32
def edResult (d : List Word) : Nat := fld (d.getD 6 0) 0 48

/-- The exponent field of an FP64 value is not all ones. -/
def finite64 (w : Word) : Bool := fld w 52 11 != 0x7FF

/-- A descriptor of eight words is well formed. -/
def estDescOk (d : List Word) : Bool :=
  let z := d.getD 4 0
  let tol := d.getD 5 0
  edItems d != 0 && (edPerm d == 1 || edPerm d == 2) && fld (d.getD 0 0) 52 12 == 0 && (edPerm d != 2 || d.getD 2 0 == 0)
    && edBatch d != 0 && decide (2 ≤ edMin d) && finite64 z && !bit z 63 && z != 0 && finite64 tol && (!bit tol 63 || tol == word (2 ^ 63))
    && edResult d % 64 == 0 && edResult d != 0 && fld (d.getD 6 0) 48 16 == 0 && d.getD 7 0 == 0

/-! ### Permutations (R384, R385) -/

/-- The affine multiplier from a value on; structural on a bound of the steps. -/
def coprimeFrom (n a : Nat) : Nat → Nat
  | 0 => a
  | f + 1 => if a.gcd n = 1 then a else coprimeFrom n (if a + 1 = n then 1 else a + 1) f

/-- The multiplier that the estimator derives from A and N. -/
def affineMul (n a : Nat) : Nat := coprimeFrom n (if a % n = 0 then 1 else a % n) n

/-- The smallest b of at least 1 with 2^(2b) ≥ N; structural on the number of values tried. -/
def halfBits (n b : Nat) : Nat → Nat
  | 0 => b
  | f + 1 => if n ≤ 2 ^ (2 * b) then b else halfBits n (b + 1) f

/-- The Feistel rounds from round k on. -/
def feistelRounds (key : Word) (b l r k : Nat) : Nat → Nat × Nat
  | 0 => (l, r)
  | n + 1 => feistelRounds key b r (l ^^^ ((mix key (4 * r + k)).toNat % 2 ^ b)) (k + 1) n

/-- The Feistel permutation of [0, 2^(2b)). -/
def feistel (key : Word) (b y : Nat) : Nat :=
  let x := feistelRounds key b (y / 2 ^ b) (y % 2 ^ b) 0 4
  x.1 * 2 ^ b ||| x.2

/-- The cycle walk into [0, N); structural on a bound of its steps. -/
def cycleWalk (key : Word) (b n y : Nat) : Nat → Nat
  | 0 => y
  | f + 1 => if y < n then y else cycleWalk key b n (feistel key b y) f

/-- The item at a position. -/
def Est.item (x : Est) (i : Nat) : Nat :=
  if x.feistel then
    let b := halfBits x.items 1 32
    cycleWalk x.mul b x.items (Machine.feistel x.mul b i) (2 ^ (2 * b))
  else (x.mul.toNat * i + x.off.toNat) % x.items

/-! ### FP64 arithmetic, rounded to nearest even -/

/-- An FP64 result from an exact one. -/
def fp64Of (r : Val × Flags) : Word := word (fp64.round .rne false r.1).1

def f64 (w : Word) : Val := fp64.decode w.toNat
def fAdd (a b : Word) : Word := fp64Of (Val.add .rne (f64 a) (f64 b))
def fSub (a b : Word) : Word := fp64Of (Val.add .rne (f64 a) (f64 b).negate)
def fMul (a b : Word) : Word := fp64Of (Val.mul (f64 a) (f64 b))
def fDiv (a b : Word) : Word := fp64Of (Val.div (f64 a) (f64 b))
def fSqrt (a : Word) : Word := fp64Of (Val.sqrt (f64 a))
def fNat (n : Nat) : Word := fp64Of (Val.ofInt n, 0)

/-- One value is at most another; false for a NaN. -/
def fLe (a b : Word) : Bool := match (f64 a).rel (f64 b) with | .lt => true | .eq => true | _ => false

/-! ### The run (R386 to R390) -/

def State.est (s : State) (e : Nat) : Est := s.hub.ests.get e {}
def State.modEst (s : State) (e : Nat) (f : Est → Est) : State := s.modHub fun h => { h with ests := h.ests.set e (f (h.ests.get e {})) }

/-- Positions of the reorder window. -/
def estWindow : Nat := 4096

/-- A position can be handed out (R386). -/
def Est.canHand (x : Est) : Bool := x.state == 1 && decide (x.issued < x.items) && decide (x.issued < x.accepted + estWindow)

/-- The live state, which is the result record once the run has ended (R390, R397). -/
def Est.words (x : Est) : List Word :=
  [word x.accepted, x.mean, x.m2, x.half, word x.discarded, word x.issued, word (x.checks % 2 ^ 32 + x.state * 2 ^ 32), x.endTick]

/-- The acceptance of a value (R387). -/
def Est.accept (x : Est) (v : Word) : Est :=
  let delta := fSub v x.mean
  let mean := fAdd x.mean (fDiv delta (fNat (x.accepted + 1)))
  { x with accepted := x.accepted + 1, mean := mean, m2 := fAdd x.m2 (fMul delta (fSub v mean)), window := x.window.del x.accepted }

/-- The test of a checkpoint: the run with its half-width, and whether it stops (R388). -/
def Est.test (x : Est) : Est × Bool :=
  let nf := fNat x.accepted
  let d1 := fSub nf (fNat 1)
  let l := fMul (fMul x.z x.z) x.m2
  let r := fMul (fMul (fMul x.tol x.tol) nf) d1
  ({ x with checks := x.checks + 1, half := fMul x.z (fSqrt (fDiv x.m2 (fMul nf d1))) }, fLe l r)

/-- A request of the hub or an estimator for a function. -/
def State.hubMsg (s : State) (vf : Nat) (ga : Word) : Msg :=
  { dstChip := chipOf ga, srcChip := s.hub.chipId, srcVf := BitVec.ofNat 7 vf, tag := hubTag, unit := s.homeUnit (devOf ga), stamp := s.stamp }

/-- The result record is written (R390): on this chip at once, on another by a write that the completion waits for. -/
def State.writeResult (s : State) (e : Nat) : State :=
  let x := s.est e
  let m := { s.hubMsg (s.launch x.launch).vf x.record with unit := x.home }
  let bs := bytesOfWords x.words
  if chipOf x.record = s.hub.chipId then (s.homeWrite m x.record (2 ^ 64 - 1) bs false).1
  else if s.chipDown (chipOf x.record).toNat then s
  else (s.modEst e fun x => { x with writing := true }).route
    { m with kind := 0x21, units := 5, tag := estTag e, payload := [x.record, 64] ++ wordsOf 8 bs }

/-- The answer of an estimator: status, and two words. -/
def State.estAnswer (s : State) (m : Msg) (status : Nat) (ws : List Word) : State := s.sendReply m 0x33 ([word status, 0] ++ padUnit ws)

/-- Waiting `eitem` requests are answered while a position can be handed out or none will be (R395). -/
def State.serveItems (s : State) (e : Nat) : List Msg → State
  | [] => s.modEst e fun x => { x with waiting := [] }
  | m :: t =>
    let x := s.est e
    if x.canHand then
      ((s.modEst e fun x => { x with issued := x.issued + 1 }).estAnswer m 0 [word x.issued, word (x.item x.issued)]).serveItems e t
    else if x.state ≠ 1 || x.items ≤ x.issued then (s.estAnswer m 0 [-1, -1]).serveItems e t
    else s.modEst e fun x => { x with waiting := m :: t }

/-- An item message of a launch. -/
def isItem (n : Nat) (m : Msg) : Bool := m.kind == 0x0B && m.launch == n

/-- A context without the item messages of a launch; the pending bit of channel 241 says whether messages are left. -/
def Ctx.dropItems (x : Ctx) (n : Nat) : Ctx :=
  let ch := x.chans.get 241 {}
  let q := ch.queue.filter fun m => !isItem n m
  let pool := x.pool.filter fun p => !isItem n p.msg
  let saved := x.savedMsgs.filter fun m => !isItem n m
  let left := !q.isEmpty || saved.any (fun m => m.chan == 241) || pool.any (fun p => p.kind == .channel 241)
  let had := ch.queue.length != q.length || x.pool.length != pool.length || x.savedMsgs.length != saved.length
  { x with held := x.held.filter (fun m => !isItem n m), pool := pool, savedMsgs := saved,
           chans := if had then x.chans.set 241 { ch with queue := q, pending := left } else x.chans }

/-- A stop reaches the partition (R389): item messages are removed wherever they are, and with KILLSTOP the clauses of items end. -/
def State.stopReaches (s : State) (e : Nat) : State :=
  let n := (s.est e).launch
  let s := { s with net := s.net.filter (fun m => !isItem n m),
                    cores := s.cores.map fun (c : Nat × Core) =>
                      (c.1, { c.2 with ctxs := c.2.ctxs.map fun (x : Nat × Ctx) => (x.1, if x.2.launch = n then x.2.dropItems n else x.2) }) }
  let s := s.modLaunch n fun l => { l with parked := l.parked.filter fun m => !isItem n m }
  if (s.est e).killStop then s.killClauses fun c => c.launch == n && c.chan == 241 else s

/-- A run ends: its record is written, waiting requests are answered, and a stop is carried to the partition at once (R388 to
R390). -/
def State.endRun (s : State) (e state : Nat) : State :=
  let s := s.modEst e fun x =>
    { x with state := state, endTick := s.ktick, discarded := if state = 2 then x.issued - x.accepted else x.discarded,
             half := if state = 3 then 0 else x.half }
  let s := (s.writeResult e).serveItems e (s.est e).waiting
  (if state = 2 then s.stopReaches e else s).post (.launchCompletion (s.est e).launch)

/-- Contributions are accepted in permutation order as far as they have come (R387, R388). Structural on a bound of their number. -/
def State.acceptRun (s : State) (e : Nat) : Nat → State
  | 0 => s
  | n + 1 =>
    let x := s.est e
    if x.state ≠ 1 then s
    else match x.window.find x.accepted with
      | none => s
      | some v =>
        let x := x.accept v
        let r := if decide (x.least ≤ x.accepted) && x.accepted % x.batch == 0 then x.test else (x, false)
        let s := s.modEst e fun _ => r.1
        if r.2 then s.endRun e 2 else if x.accepted = x.items then s.endRun e 3 else s.acceptRun e n

/-- What may follow a change of a run: items to hand out. -/
def State.handOn (s : State) (e : Nat) : State :=
  let s := s.serveItems e (s.est e).waiting
  if (s.est e).canHand && !(s.est e).pull then s.post (.estimatorHandout e) else s

/-- A contribution: its status, and the run that it leaves (R396). -/
def State.contributeItem (s : State) (e n : Nat) (v : Word) : State × Nat :=
  let x := s.est e
  if (x.state == 2 || x.state == 4) && decide (x.accepted ≤ n) then (s, 4)
  else if x.issued ≤ n then (s, 6)
  else if n < x.accepted || (x.window.find n).isSome then (s, 5)
  else (((s.modEst e fun x => { x with window := x.window.set n v }).acceptRun e (x.window.length + 1)).handOn e, 0)

/-- Operations of estimator requests (kind 0x3F), in word 0 of their payload. -/
def estItem : Nat := 0
def estCon : Nat := 1
def estRead : Nat := 2

/-- A request at its estimator context (R395 to R397). A refused contribution sends its notice. -/
def State.estRequest (s : State) (m : Msg) : State :=
  let e := m.unit - 32
  let op := (m.payload.getD 0 0).toNat
  let w := m.payload.getD 1 0
  if op = estItem then
    let s := s.modEst e fun x => { x with waiting := x.waiting ++ [m] }
    s.serveItems e (s.est e).waiting
  else if op = estCon then
    let (s, st) := s.contributeItem e w.toNat (m.payload.getD 2 0)
    let s := s.estAnswer m st []
    if st = 5 || st = 6 then
      s.sendDevice { dstChip := m.srcChip, dstCore := m.tag.setWidth 12, chan := 254, kind := 0x0D, units := 2, srcVf := m.srcVf,
                     key := deviceKey 0x51 e, ctx := m.ctx, launch := m.launch, payload := [noticeWord 0x00B7 0xB7 st, w, 0, 0] }
    else s
  else s.estAnswer m 0 [(s.est e).words.getD w.toNat 0]

/-- ESTIMATOR_REQUEST (kind 0x3F): under REPRO it is applied as its window closes (R391). -/
def execEstimatorRequest (m : Msg) (s : State) : Host.Outcome State Fault Refusal := .next (s.orPark m fun s => s.estRequest m)

/-- The key of an estimator's item messages, and the core that position n goes to (R386). -/
def itemKey : Word := deviceKey 0x50 0
def State.itemCore (s : State) (node n : Nat) : Nat := s.coreAt node (hashRank (mix itemKey n) (s.logicalCount node))

/-- The next position of a push run leaves as an item message. -/
def State.handOut (s : State) (e : Nat) : State :=
  let x := s.est e
  if !x.canHand || x.pull then s
  else
    let l := s.launch x.launch
    let s := s.modEst e fun x => { x with issued := x.issued + 1 }
    let s := s.sendDevice
      { dstChip := s.hub.chipId, dstCore := BitVec.ofNat 12 (s.itemCore l.node x.issued), chan := 241, kind := 0x0B, units := 2,
        srcVf := BitVec.ofNat 7 l.vf, key := itemKey, ctx := BitVec.ofNat 2 l.ctx, launch := x.launch,
        payload := [word x.issued, word (x.item x.issued), x.args, word x.items] }
    if (s.est e).canHand then s.post (.estimatorHandout e) else s

/-- ESTIMATOR_HANDOUT -/
def execEstimatorHandout (est : Nat) (s : State) : Host.Outcome State Fault Refusal := .next (s.handOut est)

/-- ESTIMATOR_STOP -/
def execEstimatorStop (est : Nat) (s : State) : Host.Outcome State Fault Refusal := .next (s.stopReaches est)

/-! ### Instructions (R392, R395 to R397) -/

/-- The estimator context of the issuing clause's launch, or 0xB6. -/
def State.myEst (s : State) (pull : Bool) : Res Nat :=
  match (s.launch s.sl.clause.launch).est with
  | none => .trap 0xB6 0
  | some e => (require (!pull || (s.est e).pull) 0xB6 0).bind fun _ => .ok e

/-- A request of the issuing slot to its estimator context. -/
def State.askEst (s : State) (e : Nat) (use : FarUse) (ws : List Word) : State :=
  let p := padUnit ws
  s.sendFar s.cur 0x3F (estUnit e) s.hub.chipId 0 0 use (p.length / 2) p

/-- `eitem` -/
def execEitem (k : KOps) (s : State) : Host.Outcome State Fault Refusal :=
  .next (s.run { word := wordOf (.eitem k), groups := [(k.rd.toNat, 2)], dsts := [toX k 2] }
    ((s.myEst true).bind fun e =>
     s.ordered true fun s =>
     (stallUnless (s.sl.farRoom 1)).bind fun _ =>
     .ok ((s.askEst e .blocking [word estItem]).block (.estimator estItem k.rd.toNat) 1)))

/-- `econ`: posted. -/
def execEcon (k : KOps) (s : State) : Host.Outcome State Fault Refusal :=
  .next (s.run { word := wordOf (.econ k), srcs := [x1 k, x2 k] }
    ((s.myEst false).bind fun e =>
     s.ordered true fun s =>
     (stallUnless (s.sl.farRoom 1)).bind fun _ =>
     .ok (s.askEst e .posted [word estCon, s.sl.xr k.rs1.toNat, s.sl.xr k.rs2.toNat]).complete))

/-- `estat` -/
def execEstat (k : KOps) (s : State) : Host.Outcome State Fault Refusal :=
  let i := s.sl.xr k.rs1.toNat
  .next (s.run { word := wordOf (.estat k), srcs := [x1 k], dsts := [toX k] }
    ((s.myEst false).bind fun e =>
     (require (decide (i.toNat < 8)) 0xBA i).bind fun _ =>
     s.ordered true fun s =>
     (stallUnless (s.sl.farRoom 1)).bind fun _ =>
     .ok ((s.askEst e .blocking [word estRead, i]).block (.estimator estRead k.rd.toNat) 1)))

end Sys2Proof.Machine
end

