-- ==== Sys2Proof/Machine/Law.lean ====
section
/-!
DEFINITION. Time laws (17_tensed.md): a law entry and its validity (R296), trajectories and crossing finders of each kind (R303 to
R306), and conjugation in closed form (R302).
-/
namespace Sys2Proof.Machine

/-- A valid law entry (R296). `kind` is 1 hold, 2 integrate, 3 leak, 4 oscillate; `action` is 0 continue, 1 reset, 2 hold. -/
structure Law where
  kind   : Nat
  base   : Nat
  shift  : Nat
  down   : Bool
  action : Nat
  clamp  : Bool
  chan   : Nat
  thr    : Int
  a      : Int
  b      : Int
  deriving DecidableEq, Repr

/-- A control word that `lawset` admits: no reserved kind, action or field (R316). -/
def controlOk (c : Word) : Bool :=
  decide (fld c 0 3 ≤ 4) && fld c 19 2 != 3 && fld c 3 7 == 0 && fld c 22 2 == 0 && fld c 32 32 == 0

/-- The law of an entry's four words, if it is valid (R296). -/
def lawOf (c t a b : Word) : Option Law :=
  let kind := fld c 0 3
  if !controlOk c || kind == 0 || (bit c 21 && kind != 2) || (kind == 3 && !(decide (1 ≤ a.toNat) && decide (a.toNat < 2 ^ 32)))
      || (kind == 4 && a == 0) then none
  else some { kind := kind, base := fld c 10 3, shift := fld c 13 5, down := bit c 18, action := fld c 19 2, clamp := bit c 21,
              chan := fld c 24 8, thr := t.toInt, a := if kind = 2 then a.toInt else a.toNat, b := b.toInt }

/-- The entry of an index in a table of 1,024 words. -/
def lawAt (table : List Word) (i : Nat) : Option Law :=
  lawOf (table.getD (4 * i) 0) (table.getD (4 * i + 1) 0) (table.getD (4 * i + 2) 0) (table.getD (4 * i + 3) 0)

/-- A stored value as the law reads it: a turn fraction for oscillate, else signed (R294). -/
def Law.value (l : Law) (v : Word) : Int := if l.kind = 4 then v.toNat else v.toInt

/-- The smallest integer at or above a quotient of positive divisor. -/
def ceilDiv (a b : Int) : Int := -((-a) / b)

/-- The caps of integrate: clamp at B, then the 64-bit range, with SAT (R304). -/
def Law.cap (l : Law) (y : Int) : Int × Bool :=
  let y := if l.clamp && decide (l.b < y) then l.b else y
  if y > 2 ^ 63 - 1 then (2 ^ 63 - 1, true) else if y < -2 ^ 63 then (-2 ^ 63, true) else (y, false)

/-- The floored distance of a leak after δ ticks (R305). -/
def leakDist (x h δ : Nat) : Nat := x / 2 ^ (δ / h) * (2 * h - δ % h) / (2 * h)

/-- The trajectory tr(V, δ) of a kind (R303 to R306): the value and whether it saturated. -/
def Law.tr (l : Law) (v : Int) (δ : Nat) : Int × Bool :=
  match l.kind with
  | 2 => l.cap (v + l.a * δ)
  | 3 =>
    let d := leakDist (v - l.b).natAbs l.a.toNat δ
    (if v < l.b then l.b - d else l.b + d, false)
  | 4 => ((v + l.a * δ) % 2 ^ 64, false)
  | _ => (v, false)

/-- A value is on the crossed side of the threshold (R303); oscillate has no threshold. -/
def Law.crossed (l : Law) (v : Int) : Bool := l.kind != 4 && (if l.down then decide (v ≤ l.thr) else decide (l.thr ≤ v))

/-- The smallest q with X / 2^q at or below M. Structural on the number of values tried. -/
def leakHalves (x m q : Nat) : Nat → Nat
  | 0 => q
  | n + 1 => if x / 2 ^ q ≤ m then q else leakHalves x m (q + 1) n

/-- The first crossing of a leak from a distance X above the distance M of its threshold (R305). -/
def leakFirst (x m h : Nat) : Nat :=
  let q := leakHalves x m 1 64
  let y := x / 2 ^ (q - 1)
  let r := 2 * h - (2 * h * (m + 1) - 1) / y
  if r ≤ h - 1 then (q - 1) * h + r else q * h

/-- The crossing finder first(V) (R303 to R306). -/
def Law.first (l : Law) (v : Int) : Option Nat :=
  if l.kind = 4 then some (ceilDiv (2 ^ 64 - v) l.a).toNat
  else if l.crossed v then none
  else match l.kind with
    | 2 =>
      if !l.down then (if 0 < l.a && (!l.clamp || decide (l.thr ≤ l.b)) then some (ceilDiv (l.thr - v) l.a).toNat else none)
      else if l.a < 0 then some (ceilDiv (v - l.thr) (-l.a)).toNat else none
    | 3 =>
      let x := v - l.b
      if !l.down then (if x < 0 && decide (l.thr ≤ l.b) then some (leakFirst x.natAbs (l.b - l.thr).toNat l.a.toNat) else none)
      else if 0 < x && decide (l.b ≤ l.thr) then some (leakFirst x.natAbs (l.thr - l.b).toNat l.a.toNat) else none
    | _ => none

/-- The value that a reset action writes (R302). -/
def Law.resetValue (l : Law) : Int := if l.kind = 3 then l.b else 0

/-- What a conjugation comes to: the value, the number of crossings with the offsets of the first and last in ticks, whether the
word is held, and whether it saturated. -/
structure Conj where
  value : Int
  count : Nat := 0
  first : Nat := 0
  last  : Nat := 0
  held  : Bool := false
  sat   : Bool := false
  deriving DecidableEq, Repr

/-- A conjugation through Δ ticks in closed form (R302, R304, R306). -/
def Law.conjugate (l : Law) (v : Int) (Δ : Nat) : Conj :=
  if Δ = 0 then { value := v }
  else
    let none_ : Conj := let r := l.tr v Δ; { value := r.1, sat := r.2 }
    match l.first v with
    | none => none_
    | some δ =>
      if Δ < δ then none_
      else if l.action = 2 then
        let r := l.tr v δ
        { value := r.1, count := 1, first := δ, last := δ, held := true, sat := r.2 }
      else if l.action = 0 then
        let r := l.tr v Δ
        if l.kind = 4 then
          let n := ((v + l.a * Δ) / 2 ^ 64).toNat
          { value := r.1, count := n, first := δ, last := (ceilDiv (n * 2 ^ 64 - v) l.a).toNat }
        else { value := r.1, count := 1, first := δ, last := δ, sat := r.2 }
      else
        let rest := Δ - δ
        match l.first l.resetValue with
        | none => let r := l.tr l.resetValue rest; { value := r.1, count := 1, first := δ, last := δ, sat := r.2 }
        | some p =>
          let more := rest / p
          let r := l.tr l.resetValue (rest - more * p)
          { value := r.1, count := 1 + more, first := δ, last := δ + more * p, sat := r.2 }

/-- The exact result of an update, clamped and saturated as integrate is; oscillate wraps (R314). -/
def Law.update (l : Law) (y : Int) : Int × Bool := if l.kind = 4 then (y % 2 ^ 64, false) else l.cap y

end Sys2Proof.Machine
end

