-- ==== Sys2Proof/Machine/Tensed.lean ====
section
/-!
DEFINITION. Tensed words (17_tensed.md): the word and its touch at the law unit (R294, R298, R314), crossing messages (R307 to
R310), alarms (R311), sweeps (R299), the word instructions (R312 to R315), and `lawset`, `lawget` and `tbadv` with what the hub
does for them (R316, R317).
-/
namespace Sys2Proof.Machine

/-! ### The word (R294)

A word is its VALUE and the upper 64 bits, in which bit i stands for bit 64 + i of the word. -/

def twLast (hi : Word) : Nat := fld hi 0 32
def twTense (hi : Word) : Nat := fld hi 32 8
def twArmed (hi : Word) : Bool := bit hi 40
def twHeld (hi : Word) : Bool := bit hi 45
def twWin (hi : Word) : Bool := bit hi 46
def twOwner (hi : Word) : Nat := fld hi 52 12
def twFlags (hi : Word) : Nat := fld hi 40 8

/-- Bit 111 or bits [115:112] are not 0 (R313). -/
def twMalformed (hi : Word) : Bool := bit hi 47 || fld hi 48 4 != 0

/-- A flag of the word written. -/
def twSet (hi : Word) (i : Nat) (b : Bool) : Word := withFld hi i 1 b.toNat

/-- The law table of the page that holds a device address (R295): its owner's installed copy, or the kernel's. -/
def State.tableOf (s : State) (a : Nat) : Option (List Word) :=
  let e := s.dpit (pageOf a)
  if dpitKernel e then s.hub.klawTable else (s.vf (dpitOwner e)).law

/-- The law of a word (R295), if it is valid. -/
def State.lawFor (s : State) (a : Nat) (hi : Word) : Option Law := (s.tableOf a).bind fun t => lawAt t (twTense hi)

/-- The tick of a law now (R297), in free time: `ktick`, or the owner's logical counter; in a KERNEL page that of its OWNER field,
DESIGN CHOICE, log 123. -/
def State.tickNow (s : State) (l : Law) (a : Nat) : Nat :=
  (if l.base = 0 then s.ktick.toNat else ((s.vf (dpitOwner (s.dpit (pageOf a)))).bases.get l.base 0).toNat) / 2 ^ l.shift

/-! ### One touch (R298, R302, R307, R308) -/

/-- The crossings that a touch found: their number, and the ticks of the first and last. -/
structure Crossing where
  count : Nat
  first : Word
  last  : Word
  deriving DecidableEq, Repr

/-- A conjugation to a tick (R298, R302): value, upper half and crossings. A tick before the last touch takes no time. -/
def conjugateTo (l : Law) (v hi t : Word) : Word × Word × Option Crossing :=
  let Δ := (t.toNat + 2 ^ 32 - twLast hi) % 2 ^ 32
  if 2 ^ 31 ≤ Δ then (v, hi, none)
  else
    let hi := withFld hi 0 32 (fld t 0 32)
    if twHeld hi || Δ == 0 then (v, hi, none)
    else
      let r := l.conjugate (l.value v) Δ
      let hi := twSet (twSet hi 45 r.held) 44 (bit hi 44 || r.sat)
      let base := t - word Δ
      (wordInt r.value, hi,
       if r.count = 0 then none else some { count := r.count, first := base + word r.first, last := base + word r.last })

/-- The update of `twadd` (op 1) or `twset` (op 2) at a tick, with its crossing (R307, R308, R314). -/
def updateWord (l : Law) (op : Nat) (v hi t x : Word) (c : Option Crossing) : Word × Word × Option Crossing :=
  let hi := twSet hi 45 false
  let hi := if op = 2 then twSet (twSet hi 44 false) 43 false else hi
  let exact := if op = 2 then l.value x else l.value v + x.toInt
  let r := l.update exact
  let hi := twSet hi 44 (bit hi 44 || r.2)
  let hit := if l.kind = 4 then op == 1 && decide (0 < x.toInt) && decide (2 ^ 64 ≤ exact) else !l.crossed (l.value v) && l.crossed r.1
  if !hit then (wordInt r.1, hi, c)
  else
    let new := if l.action = 1 then l.resetValue else r.1
    (wordInt new, if l.action = 2 then twSet hi 45 true else hi,
     match c with
     | some c => some { c with count := c.count + 1, last := t }
     | none => some { count := 1, first := t, last := t })

/-- The tick of the next crossing from a state after a touch at a tick (R311, R314). -/
def predict (l : Option Law) (v hi t : Word) : Option Word :=
  match l with
  | none => none
  | some l =>
    if twHeld hi then none
    else (l.first (l.value v)).map fun f => t - wordInt (sext ((t.toNat + 2 ^ 32 - twLast hi) % 2 ^ 32) 32) + word f

/-! ### Alarms (R311) -/

/-- Entries of an alarm list, and of an outbound crossing queue (R310). -/
def alarmLimit : Nat := 65536
def crossingLimit : Nat := 256

/-- An alarm's base has reached its tick. Alarms under window time fire at window closes (R301). -/
def State.alarmDue (s : State) (x : Alarm) : Bool :=
  !x.win && decide (x.tick.toNat ≤
    (if x.base = 0 then s.ktick.toNat else ((s.vf (dpitOwner (s.dpit (pageOf x.addr)))).bases.get x.base 0).toNat) / 2 ^ x.shift)

/-- The alarm of a word placed, replaced or removed: the state and the word's upper half. -/
def State.placeAlarm (s : State) (unit a : Nat) (l : Option Law) (v hi t : Word) : State × Word :=
  let s := s.modStack unit fun k => { k with alarms := k.alarms.filter fun x => x.addr != a }
  if !twArmed hi then (s, hi)
  else match l, predict l v hi t with
    | some l, some p =>
      if alarmLimit ≤ (s.stack unit).alarms.length then (s, twSet hi 41 true)
      else
        let x : Alarm := { addr := a, tick := p, base := l.base, shift := l.shift, win := twWin hi }
        let s := s.modStack unit fun k => { k with alarms := k.alarms ++ [x] }
        let s :=
          if s.alarmDue x then s.post (.alarm unit)
          else if l.base = 0 && !x.win then { s with timers := s.timers ++ [(p.toNat * 2 ^ l.shift, .alarm unit)] }
          else s
        (s, twSet hi 41 false)
    | _, _ => (s, hi)

/-! ### Crossing messages (R309, R310) -/

/-- The function whose enforced budget word lies at a device address (22_launch_estimate.md R380). -/
def State.budgetOf (s : State) (a : Nat) : Option Nat :=
  (s.hub.vfs.find? fun v => bit v.2.bud 63 && fld v.2.bud 16 40 == a / 16).map fun v => v.1

/-- The message that carries the crossings of one touch. `rpay` marks a crossing of a budget word, whose function stands in the
source field: it goes to the dispatcher (22_launch_estimate.md R380). -/
def State.crossingMsg (s : State) (unit a : Nat) (l : Law) (v hi : Word) (c : Crossing) (launch window : Nat) : Msg :=
  let owner := dpitOwner (s.dpit (pageOf a))
  let bud := s.budgetOf a
  { dstChip := s.hub.chipId, dstCore := BitVec.ofNat 12 (twOwner hi), chan := BitVec.ofNat 8 l.chan, kind := 0x09, units := 4,
    srcChip := s.hub.chipId, srcVf := BitVec.ofNat 7 (bud.getD owner), key := deviceKey (0x10 + unit) (a / 16), stamp := s.stamp,
    rpay := bud.isSome, unit := unit, launch := launch, window := window,
    payload := [c.first, word (least (2 ^ 64 - 1) c.count), word (twFlags hi + twTense hi * 2 ^ 8), c.last, v,
                word (s.hub.chipId.toNat * 2 ^ 44 + a), 0, 0] }

/-- A waiting message with the crossings of a later touch (R310). -/
def mergeCrossing (m new : Msg) : Msg :=
  let p := new.payload
  { m with payload := [m.payload.getD 0 0, word (least (2 ^ 64 - 1) ((m.payload.getD 1 0).toNat + (p.getD 1 0).toNat)), p.getD 2 0, p.getD 3 0,
                       p.getD 4 0, p.getD 5 0, 0, 0] }

/-- The global address of a crossing message's word. -/
def crossingAddr (m : Msg) : Nat := devOf (m.payload.getD 5 0)

/-- Crossings go into the unit's outbound queue: the state and the word's upper half, with LATE and PENDING (R309, R310). The
event that the queue's head leaves is a crossing event whose message has kind 0. -/
def State.queueCrossing (s : State) (unit a : Nat) (l : Law) (v hi t : Word) (c : Crossing) (launch window : Nat) : State × Word :=
  let hi := twSet (twSet hi 43 (decide (c.first.toNat < t.toNat))) 42 true
  let m := s.crossingMsg unit a l v hi c launch window
  let q := (s.stack unit).crossings
  if q.any fun x => crossingAddr x == a then
    (s.modStack unit fun k => { k with crossings := k.crossings.map fun x => if crossingAddr x = a then mergeCrossing x m else x }, hi)
  else ((s.modStack unit fun k => { k with crossings := k.crossings ++ [m] }).post (.crossing { unit := unit }), hi)

/-- The head of a unit's outbound queue leaves: PENDING is cleared; without a context of the function at the owner core the
message is discarded with a record (R309). Its sequence counts the messages of the unit. A crossing in a KERNEL page has no context:
DESIGN CHOICE, log 123. -/
def State.crossingLeaves (s : State) (unit : Nat) : State :=
  match (s.stack unit).crossings with
  | [] => s
  | m :: rest =>
    let a := crossingAddr m
    let s := s.modStack unit fun k => { k with crossings := rest }
    let s := s.devWrite (a + 8) (toBytes 8 (twSet (word (s.devLoad (a + 8) 8)) 42 false).toNat)
    let core := s.served m.dstCore.toNat
    let vf := m.srcVf.toNat
    let e := s.dpit (pageOf a)
    let rec_ := memoryRecord 0x0080 vf unit (m.payload.getD 5 0) s.ktick m.dstCore.toNat
    if m.rpay then { s with net := s.net ++ [m] }
    else if dpitKernel e then s.kernelRecord (memoryRecord 0x0080 0xFFFF unit (m.payload.getD 5 0) s.ktick m.dstCore.toNat)
    else match s.ctxOfVf core vf with
      | none => s.errorRecord vf rec_
      | some c =>
        let src := (deviceKey (0x10 + unit) 0).toNat % 2 ^ 48 + m.launch * 2 ^ 48
        let n := s.srcSeq.get src 0
        { s with srcSeq := s.srcSeq.set src (n + 1), net := s.net ++ [{ m with ctx := BitVec.ofNat 2 c, seq := BitVec.ofNat 32 n, stamp := s.stamp }] }

/-- A law unit with a full crossing queue performs nothing until an entry leaves (R310). -/
def State.makeRoom (s : State) (unit : Nat) : State :=
  if crossingLimit ≤ (s.stack unit).crossings.length then s.crossingLeaves unit else s

/-! ### The operations of the unit (R314) -/

/-- What a touch is made for: the f3b code of an instruction, or 6 for an alarm or a sweep, with its operand, the issuing core, the
clock of an access, and the launch and window that its crossings belong to. -/
structure Touch where
  op     : Nat
  x      : Word := 0
  core   : Nat := 0
  win    : Option Bool := none
  launch : Nat := 0
  window : Nat := 0

/-- A word touched at a tick under its law (R314): the state and the result. -/
def State.touchWord (s : State) (unit a : Nat) (l : Law) (t : Word) (o : Touch) : State × Word :=
  let v := word (s.devLoad a 8)
  let hi := word (s.devLoad (a + 8) 8)
  let (v, hi, c) := conjugateTo l v hi t
  let got := v
  let (v, hi, c) := if o.op = 1 || o.op = 2 then updateWord l o.op v hi t o.x c else (v, hi, c)
  let pred := (predict (some l) v hi t).getD (-1)
  let retense := (o.op == 3 || o.op == 4) && bit o.x 8
  let hi := if retense then withFld hi 32 8 (fld o.x 0 8) else hi
  let hi := if o.op = 3 then twSet (withFld hi 52 12 o.core) 40 true else if o.op = 4 then twSet (twSet hi 40 false) 41 false else hi
  let hi := match o.win with | some w => twSet hi 46 w | none => hi
  let (s, hi) := s.placeAlarm unit a (s.lawFor a hi) v hi t
  let (s, hi) := match c with
    | some c => s.queueCrossing unit a l v hi t c o.launch o.window
    | none => (s, hi)
  (s.devWrite a (toBytes 8 v.toNat ++ toBytes 8 hi.toNat), if o.op = 5 then pred else got)

/-- A word that an alarm or sweep touches at a tick, where it may; one that is malformed or poisoned stays as it is. DEDUCED, log 124. -/
def State.autoTouch (s : State) (unit a : Nat) (tick : Law → Nat) (launch window : Nat) : State :=
  let s := s.makeRoom unit
  let hi := word (s.devLoad (a + 8) 8)
  match s.lawFor a hi, s.media a with
  | some l, some m =>
    if twMalformed hi || s.poisoned m 16 then s
    else (s.touchWord unit a l (word (tick l)) { op := 6, launch := launch, window := window }).1
  | _, _ => s

/-- Fields of a tensed request (R313). -/
def twOp (m : Msg) : Nat := fld (m.payload.getD 1 0) 0 3
def twAt (m : Msg) : Bool := bit (m.payload.getD 1 0) 3
def twClock (m : Msg) : Bool := bit (m.payload.getD 1 0) 4

/-- The answer of the law unit; a budget charge has none. -/
def State.tensedAnswer (s : State) (m : Msg) (status : Nat) (ws : List Word) : State :=
  if m.rpay then s else s.sendReply m 0x35 ([word status, 0] ++ ws)

/-- A tensed request is performed whole at its home (R314), after a full crossing queue has lost an entry (R310). -/
def State.tensedAtHome (s : State) (m : Msg) : State :=
  s.atHome m fun s =>
    let s := s.makeRoom m.unit
    let ga := m.payload.getD 0 0
    let a := devOf ga
    let op := twOp m
    let read := op == 0 || op == 5
    match s.findLine m ga m.rpay read (!read) with
    | .refused st rec => (s.recordLost m ga rec).tensedAnswer m st []
    | .at media _ =>
      let s := ((s.heated m.unit a).detect media 16).sweepPage (pageOf a) none
      let hi := word (s.load (media + 8) 8)
      match s.lawFor a hi with
      | none => s.tensedAnswer m 5 []
      | some l =>
        if twMalformed hi then s.tensedAnswer m 6 []
        else if s.poisoned media 16 then s.tensedAnswer m 1 []
        else
          let win := twClock m && l.base == 0
          let t := if twAt m then m.payload.getD 3 0 else if win then word (m.window / 2 ^ l.shift) else word (s.tickNow l a)
          if twAt m && decide (2 ^ 31 ≤ (t.toNat + 2 ^ 32 - twLast hi) % 2 ^ 32) then s.tensedAnswer m 4 []
          else
            let (s, r) := s.touchWord m.unit a l t
              { op := op, x := m.payload.getD 2 0, core := tagCore m.tag, win := some win,
                launch := if (s.launch m.launch).repro then m.launch else 0, window := m.window }
            s.tensedAnswer m 0 (if read then [r, 0] else [])

/-- TENSED_REQUEST (kind 0x34): under REPRO it is applied as its window closes. -/
def execTensedRequest (m : Msg) (s : State) : Host.Outcome State Fault Refusal := .next (s.orPark m fun s => s.tensedAtHome m)

/-- The alarm of a list with the lowest tick, and of those the lowest address. DESIGN CHOICE, log 125. -/
def firstAlarm : List Alarm → Option Alarm
  | [] => none
  | x :: t =>
    match firstAlarm t with
    | some y => if x.tick.toNat < y.tick.toNat || (x.tick == y.tick && decide (x.addr ≤ y.addr)) then some x else some y
    | none => some x

/-- An alarm fires: its entry is removed and its word conjugated to exactly its tick (R311). -/
def State.fireAlarm (s : State) (unit : Nat) (x : Alarm) (launch window : Nat) : State :=
  let s := s.modStack unit fun k => { k with alarms := k.alarms.filter fun y => y.addr != x.addr }
  s.autoTouch unit x.addr (fun _ => x.tick.toNat) launch window

/-- ALARM: the first alarm of a unit whose base has reached its tick fires; others that are due follow. -/
def State.alarmEvent (s : State) (unit : Nat) : State :=
  let due := fun (s : State) => (s.stack unit).alarms.filter fun x => s.alarmDue x
  match firstAlarm (due s) with
  | none => s
  | some x =>
    let s := s.fireAlarm unit x 0 0
    if (due s).isEmpty then s else s.post (.alarm unit)

/-- ALARM -/
def execAlarm (stack : Nat) (s : State) : Host.Outcome State Fault Refusal := .next (s.alarmEvent stack)

/-- Alarms of words under window time of a function that the index of a closed window reaches, over all units, whatever the base of
their laws (R301). -/
def State.windowAlarms (s : State) (vf k : Nat) : List (Nat × Alarm) :=
  (s.stackTab.map fun e => (e.2.alarms.filter fun x =>
    x.win && dpitOwner (s.dpit (pageOf x.addr)) == vf && decide (x.tick.toNat ≤ k / 2 ^ x.shift)).map fun x => (e.1, x)).flatten

/-- Alarms under window time fire as a window of a launch closes; one that a firing places at a tick already reached fires
too. Structural on a bound of their number. -/
def State.fireWindow (s : State) (vf launch k : Nat) : Nat → State
  | 0 => s
  | n + 1 =>
    let due := s.windowAlarms vf k
    match firstAlarm (due.map fun e => e.2) with
    | none => s
    | some x =>
      match due.find? fun e => e.2 == x with
      | none => s
      | some e => (s.fireAlarm e.1 x launch k).fireWindow vf launch k n

/-! ### Sweeps (R299) -/

/-- The valid entries of a node of n entries at a device address. -/
def State.nodeEntries (s : State) (base n : Nat) : List Nat :=
  (List.range n).filterMap fun i => match s.tableEntry (base + 8 * i) with
    | some e => if bitOf e 0 then some e else none
    | none => none

/-- The leaf entries under a region entry, each with its page size code (12_main_memory.md R221). -/
def State.leavesOf (s : State) (region : Nat) : List (Nat × Nat) :=
  if !bitOf region 0 || regionMalformed region then []
  else
    let psize := bitsOf region 1 2
    let roots := s.nodeEntries (bitsOf region 12 32 * 4096) (rootSize psize / 8)
    let es := if psize = 2 then roots
      else (roots.filter fun e => !nodeMalformed e).flatMap fun e => s.nodeEntries (bitsOf e 16 28 * 65536) 8192
    (es.filter fun e => !leafMalformed psize e).map fun e => (e, psize)

/-- The leaf entries of this chip's tables that map pages of this chip. -/
def State.leaves (s : State) : List (Nat × Nat) :=
  (s.hub.regions.flatMap fun e => s.leavesOf e.2.toNat).filter fun e => chipOf (s.globalOf e.1 e.2 0) == s.hub.chipId

/-- The first device page of a leaf, and how many it maps. -/
def leafPages (e : Nat × Nat) : Nat × Nat := (bitsOf e.1 16 28, 2 ^ (pageBits e.2 - 16))

/-- The leaf entries that map a device page. -/
def State.mappings (s : State) (page : Nat) : List Nat :=
  (s.leaves.filter fun e => decide ((leafPages e).1 ≤ page) && decide (page < (leafPages e).1 + (leafPages e).2)).map fun e => e.1

/-- A tracked page is still `TENSED`: where it was first found, or in another mapping. One that only another package's tables map was
reached by a request of that package, and stays so while no leaf here maps it as plain memory. -/
def State.stillTensed (s : State) (page : Nat) (via : Option (Nat × Word)) : Bool :=
  let there := match via with
    | none => false
    | some (asid, va) =>
      match s.walk asid va.toNat with
      | .ok leaf ps => leafTensed leaf && pageOf (devOf (s.globalOf leaf ps va.toNat)) == page
      | .fail _ => false
  there || (let ms := s.mappings page; (via.isNone && ms.isEmpty) || ms.any leafTensed)

/-- The advances that waited for a sweep pass are tried again. -/
def State.releaseAdvances (s : State) : State := { s.modHub fun h => { h with advances := [] } with net := s.net ++ s.hub.advances }

/-- A sweep pass has taken 2^30 ns, in which each page's every unit was touched: the next pass begins, and the advances that
waited are tried again. Without a `TENSED` page nothing waits for a pass. -/
def State.passDone (s : State) : State :=
  if s.hub.tensed.isEmpty then s.releaseAdvances
  else if s.ktick.toNat < s.hub.passStart + 2 ^ 30 then s
  else
    (s.modHub fun h =>
      { h with passStart := s.ktick.toNat, vfs := h.vfs.map fun v => (v.1, { v.2 with swept := v.2.passing, passing := v.2.bases }) }).releaseAdvances

/-- The event that the law units look for `TENSED` pages. -/
def findPages : Word := -1

/-- While the region file has a valid entry, the law units look for `TENSED` pages in every pass. -/
def State.armFind (s : State) : State :=
  if (s.hub.regions.any fun e => bit e.2 0) && !s.timers.any (fun t => t.2 == .sweepTouch findPages) then
    { s with timers := s.timers ++ [(s.ktick.toNat + 2 ^ 30, .sweepTouch findPages)] }
  else s

/-- Every `TENSED` page that a leaf of this chip's tables maps is swept from here on. -/
def State.findTensed (s : State) : State :=
  ((s.leaves.filter fun e => leafTensed e.1).flatMap fun e => (List.range (leafPages e).2).map fun i => (leafPages e).1 + i).foldl
    (fun s p => s.sweepPage p none) s

/-- SWEEP_TOUCH: a unit of a page is conjugated to the present, unless it was last touched under window time; the page's next unit
follows. One without an address looks for pages. -/
def State.sweep (s : State) (ga : Word) : State :=
  if ga = findPages then s.findTensed.armFind
  else
    let page := pageOf (devOf ga)
    match s.hub.tensed.find page with
    | none => s
    | some via =>
      if s.stillTensed page via then
        let a := devOf ga
        let s := if twWin (word (s.devLoad (a + 8) 8)) then s else s.autoTouch (s.homeUnit a) a (fun l => s.tickNow l a) 0 0
        let next := word (ga.toNat / 65536 * 65536 + (ga.toNat % 65536 + 16) % 65536)
        State.passDone { s with timers := s.timers ++ [(s.ktick.toNat + sweepStep, .sweepTouch next)] }
      else (s.modHub fun h => { h with tensed := h.tensed.del page }).passDone

/-- SWEEP_TOUCH -/
def execSweepTouch (ga : Word) (s : State) : Host.Outcome State Fault Refusal := .next (s.sweep ga)

/-! ### Word instructions (R312, R313, R315) -/

/-- A word instruction by its f3b code. `twld` and `twpred` fill `rd` with their reply; the others are posted. -/
def State.tensedInstr (s : State) (i : Instr) (op : Nat) (k : KOps) : State :=
  let read := op == 0 || op == 5
  let upd := op == 1 || op == 2
  let at_ := k.w == 1
  let named := k.rs2 != 0
  s.run { word := wordOf i,
          srcs := [x1 k] ++ (if upd || (read && at_) || (!read && !upd && named) then [x2 k] else []) ++ (if upd && at_ then [xd k] else []),
          dsts := if read then [toX k] else [] }
    (let a := s.sl.xr k.rs1.toNat
     let x2v := s.sl.xr k.rs2.toNat
     let operand := if upd || (!read && named) then x2v else 0
     let tick := if !at_ then 0 else if read then x2v else s.sl.xr k.rd.toNat
     (require (a.toNat % 16 == 0) 0x83 a).bind fun _ =>
     (require (fld a 48 16 == 0) 0x53 a).bind fun _ =>
     (require (!isNear a.toNat) 0x84 a).bind fun _ =>
     (s.translate s.cur a).bind fun (ga, unit, chip, leaf) =>
     (require (if read then leafR leaf else leafW leaf) 0x51 a).bind fun _ =>
     (require (leafTensed leaf) 0x80 a).bind fun _ =>
     (require (read || upd || !named || (fld x2v 9 55 == 0 && bit x2v 8)) 0x86 x2v).bind fun _ =>
     s.ordered true fun s =>
     (stallUnless (s.sl.farRoom 1)).bind fun _ =>
     let s := s.touched a
     let s := if chip = s.hub.chipId then s.sweepPage (pageOf (devOf ga)) (some (s.asid s.cur, a)) else s
     let p := [ga, word (op + at_.toNat * 8 + s.sl.repro.toNat * 16), operand, tick]
     let s := s.sendFar s.cur 0x34 unit chip a ga (if read then .fillX k.rd.toNat 8 1 false else .posted) 2 p
     .ok (s.modCur fun sl => (if read then sl.emptyRegs false k.rd.toNat 1 else sl).complete))

/-- `twld` -/
def execTwld (k : KOps) (s : State) : Host.Outcome State Fault Refusal := .next (s.tensedInstr (.twld k) 0 k)
/-- `twadd` -/
def execTwadd (k : KOps) (s : State) : Host.Outcome State Fault Refusal := .next (s.tensedInstr (.twadd k) 1 k)
/-- `twset` -/
def execTwset (k : KOps) (s : State) : Host.Outcome State Fault Refusal := .next (s.tensedInstr (.twset k) 2 k)
/-- `twarm` -/
def execTwarm (k : KOps) (s : State) : Host.Outcome State Fault Refusal := .next (s.tensedInstr (.twarm k) 3 k)
/-- `twdis` -/
def execTwdis (k : KOps) (s : State) : Host.Outcome State Fault Refusal := .next (s.tensedInstr (.twdis k) 4 k)
/-- `twpred` -/
def execTwpred (k : KOps) (s : State) : Host.Outcome State Fault Refusal := .next (s.tensedInstr (.twpred k) 5 k)

/-! ### `lawset`, `lawget` and `tbadv` (R316, R317) -/

/-- The hub as the performing unit of a request: it counts in `kreqx`. -/
def hubUnit : Nat := 17

/-- Operations of hub requests (kind 0x36), in word 0 of their payload. -/
def hubLawset : Nat := 0
def hubLawget : Nat := 1
def hubTbadv : Nat := 2
def hubLaunch : Nat := 3
def hubLstat : Nat := 4
def hubLkill : Nat := 5
def hubSqkill : Nat := 6

/-- A blocking hub request of the issuing slot. -/
def State.askHub (s : State) (op rd : Nat) (va : Word) (ws : List Word) : Res State :=
  s.ordered true fun s =>
  (stallUnless (s.sl.farRoom 1)).bind fun _ =>
  let p := padUnit (word op :: ws)
  .ok ((s.sendFar s.cur 0x36 hubUnit s.hub.chipId va 0 .blocking (p.length / 2) p).block (.hub op rd) 1)

/-- `lawset` -/
def execLawset (k : KOps) (s : State) : Host.Outcome State Fault Refusal :=
  .next (s.run { word := wordOf (.lawset k), srcs := [x1 k, x2 k] }
    (let i := s.sl.xr k.rs1.toNat
     let v := s.sl.xr k.rs2.toNat
     (require (fld i 10 54 == 0) 0x85 i).bind fun _ =>
     (require (fld i 8 2 != 0 || controlOk v) 0x86 v).bind fun _ => s.askHub hubLawset 0 i [i, v]))

/-- `lawget` -/
def execLawget (k : KOps) (s : State) : Host.Outcome State Fault Refusal :=
  .next (s.run { word := wordOf (.lawget k), srcs := [x1 k], dsts := [toX k] }
    (let i := s.sl.xr k.rs1.toNat
     (require (fld i 10 54 == 0) 0x85 i).bind fun _ => s.askHub hubLawget k.rd.toNat i [i]))

/-- `tbadv`: `rd` is empty until the hub has replied, and the slot stands (R317, R318). -/
def execTbadv (k : KOps) (s : State) : Host.Outcome State Fault Refusal :=
  .next (s.run { word := wordOf (.tbadv k), srcs := [x1 k, x2 k], dsts := [toX k] }
    (let b := s.sl.xr k.rs1.toNat
     let n := s.sl.xr k.rs2.toNat
     (require (b != 0 && decide (b.toNat ≤ 7)) 0x87 b).bind fun _ =>
     (require (decide (n.toNat < 2 ^ 31)) 0x87 n).bind fun _ =>
     (s.askHub hubTbadv k.rd.toNat b [b, n]).bind fun s => .ok (s.modCur fun sl => sl.emptyRegs false k.rd.toNat 1)))

/-- A hub reply (kind 0x37): status and result. -/
def State.hubAnswer (s : State) (m : Msg) (status : Nat) (ws : List Word) : State := s.sendReply m 0x37 ([word status, 0] ++ padUnit ws)

/-- `lawset` at the hub: the installed copy and the table's memory take the word (R316). Status 5: no installed table. -/
def State.hubSetLaw (s : State) (m : Msg) : State :=
  let v := m.srcVf.toNat
  let i := m.payload.getD 1 0
  let w := m.payload.getD 2 0
  let at_ := fld i 0 8 * 4 + fld i 8 2
  match (s.vf v).law with
  | none => s.hubAnswer m 5 []
  | some t =>
    let s := s.modVf v fun x => { x with law := some (t.set at_ w) }
    let s := match (s.vf v).lawAt[at_]? with
      | some ga =>
        if chipOf (word ga) = s.hub.chipId then s.devStore (ga % 2 ^ 44) (toBytes 8 w.toNat)
        else s.route { dstChip := chipOf (word ga), kind := 0x21, units := 2, srcChip := s.hub.chipId, srcVf := BitVec.ofNat 7 v, stamp := s.stamp,
                       unit := ga / 2 ^ 64, tag := hubTag, payload := [word ga, 8, w, 0] }
      | none => s
    s.hubAnswer m 0 []

/-- `lawget` at the hub. -/
def State.hubGetLaw (s : State) (m : Msg) : State :=
  let i := m.payload.getD 1 0
  match (s.vf m.srcVf.toNat).law with
  | none => s.hubAnswer m 5 []
  | some t => s.hubAnswer m 0 [t.getD (fld i 0 8 * 4 + fld i 8 2) 0]

/-- `tbadv` at the hub (R317): it waits for a sweep pass where R299 says so, then every copy of the counter has the new value, and
alarms that it reaches fire. -/
def State.hubAdvance (s : State) (m : Msg) : State :=
  let v := m.srcVf.toNat
  let b := (m.payload.getD 1 0).toNat
  let x := s.vf v
  let new := x.bases.get b 0 + m.payload.getD 2 0
  if !s.hub.tensed.isEmpty && decide ((x.swept.get b 0).toNat + 2 ^ 31 ≤ new.toNat) then
    s.modHub fun h => { h with advances := h.advances ++ [m] }
  else
    let s := s.setVf v { x with bases := x.bases.set b new }
    let s := s.stackTab.foldl (fun s e => if e.2.alarms.any fun a => a.base == b && s.alarmDue a then s.post (.alarm e.1) else s) s
    s.hubAnswer m 0 [new]

end Sys2Proof.Machine
end

