-- ==== Sys2Proof/Machine/Launch.lean ====
section
/-!
DEFINITION. Launches (22_launch_estimate.md): packets and their checks (03_language.md R55 to R57, R371), launch names (R372),
dispatch (R373 to R375), completion (R376 to R378), kills (R379), budgets (R380 to R382), and the instructions `launch`,
`lstat` and `lkill` (R392 to R394).
-/
namespace Sys2Proof.Machine

/-! ### Packets (03_language.md R55) -/

def pkFlag (p : List Word) (i : Nat) : Bool := bit (p.getD 0 0) (8 + i)
def pkRepro (p : List Word) : Bool := pkFlag p 0
def pkGroup (p : List Word) : Bool := pkFlag p 1
def pkEstimate (p : List Word) : Bool := pkFlag p 2
def pkExpire (p : List Word) : Bool := pkFlag p 3
def pkPrio (p : List Word) : Nat := fld (p.getD 0 0) 32 8
def pkHorizon (p : List Word) : Nat := fld (p.getD 0 0) 40 24
def pkDeadline (p : List Word) : Nat := (p.getD 1 0).toNat
def pkCode (p : List Word) : Word := p.getD 2 0
def pkCodeSize (p : List Word) : Nat := fld (p.getD 3 0) 0 32
def pkEntry (p : List Word) : Nat := fld (p.getD 3 0) 32 32
def pkHandlers (p : List Word) : Word := p.getD 4 0
def pkGroups (p : List Word) : Word := p.getD 5 0
def pkArgs (p : List Word) : Word := p.getD 6 0
def pkName (p : List Word) : BitVec 128 := p.getD 8 0 ++ p.getD 7 0
def pkRoute (p : List Word) : Nat := fld (p.getD 9 0) 0 32
def pkReply (p : List Word) : BitVec 32 := BitVec.ofNat 32 (fld (p.getD 9 0) 32 32)
def pkStarts (p : List Word) : Nat := (p.getD 10 0).toNat
def pkLaws (p : List Word) : Word := p.getD 11 0
def pkDesc (p : List Word) : Word := p.getD 12 0
def pkWdog (p : List Word) : Nat := (p.getD 13 0).toNat

/-- A packet passes the checks of R56 and R371. -/
def packetOk (p : List Word) : Bool :=
  fld (p.getD 0 0) 0 8 == 1 && fld (p.getD 0 0) 12 4 == 0 && decide (pkPrio p ≤ 7) && pkCode p &&& 63 == 0 && pkCodeSize p != 0
    && pkCodeSize p % 64 == 0 && decide (pkEntry p ≤ 240) && pkHandlers p != 0 && pkHandlers p &&& 2047 == 0
    && (pkGroups p != 0) == pkGroup p && decide (1 ≤ pkStarts p) && decide (pkStarts p ≤ 2 ^ 32) && pkLaws p &&& 31 == 0
    && (pkDesc p != 0) == pkEstimate p && (pkWdog p == 0 || (decide (4096 ≤ pkWdog p) && decide (pkWdog p ≤ 67108864)))
    && (if tagKind (pkReply p) = 0 then p.getD 9 0 == 0 else tagCore (pkReply p) == pkRoute p % 4096)
    && p.getD 14 0 == 0 && p.getD 15 0 == 0 && !(pkExpire p && pkDeadline p == 0)

/-- The watchdog bound of a packet in cycles. -/
def pkBound (p : List Word) : Nat := if pkWdog p = 0 then 1048576 else pkWdog p

/-! ### Reads of the dispatcher (R371, R375)

The hub reads memory of this package at once. A line of another package is asked for, and what needed it is tried again with
that line at hand. -/

/-- What a read of the hub comes to: a state and a value; a cause with its address; or a line that must come from elsewhere. -/
inductive Fetch (α : Type) where
  | ok (s : State) (a : α)
  | fail (s : State) (cause : Nat) (va : Word)
  | need (ga : Word) (unit : Nat)

/-- Goes on with what was read. -/
def Fetch.bind {α β : Type} (r : Fetch α) (f : State → α → Fetch β) : Fetch β :=
  match r with
  | .ok s a => f s a
  | .fail s c va => .fail s c va
  | .need ga u => .need ga u

/-- A failure of any kind becomes one cause. -/
def Fetch.causing {α : Type} (r : Fetch α) (cause : Nat) : Fetch α :=
  match r with
  | .fail s _ va => .fail s cause va
  | r => r

/-- One 64-byte line read by the hub for a function under an address-space id. A near address and a down peer fail the read: DESIGN
CHOICE, log 127. -/
def State.hubLine (s : State) (got : List (Nat × Nat × List Byte)) (vf asid va : Nat) : Fetch (List Byte) :=
  let w := word va
  if 2 ^ 48 ≤ va || isNear va then .fail s 0x50 w
  else match s.leafFor hubCache asid va with
    | .fail c => .fail (if c = causeAbsent then s.walkRecord hubCache asid vf w else s) c w
    | .ok leaf ps =>
      let s := s.fillTlb hubCache asid va
      let ga := s.globalOf leaf ps (va / 64 * 64)
      if !leafR leaf then .fail s 0x51 w
      else if leafTensed leaf then .fail s 0x5C w
      else if chipOf ga = s.hub.chipId then
        let (s, st, bs) := s.homeRead { s.hubMsg vf ga with unit := homeOf (leafPlacement leaf) (devOf ga) } ga 64 false
        if st = 0 then .ok s bs else .fail s (statusCause st) w
      else if s.chipDown (chipOf ga).toNat then .fail s 0x92 w
      else match got.find? fun g => g.1 == ga.toNat with
        | some g => if g.2.1 = 0 then .ok s g.2.2 else .fail s (statusCause g.2.1) w
        | none => .need ga (homeOf (leafPlacement leaf) (devOf ga))

/-- Lines from an address on, joined. -/
def State.hubLines (s : State) (got : List (Nat × Nat × List Byte)) (vf asid va : Nat) : Nat → Fetch (List Byte)
  | 0 => .ok s []
  | n + 1 => (s.hubLine got vf asid va).bind fun s bs =>
    (s.hubLines got vf asid (va / 64 * 64 + 64) n).bind fun s t => .ok s (bs ++ t)

/-- n bytes from an address. -/
def State.hubBytes (s : State) (got : List (Nat × Nat × List Byte)) (vf asid : Nat) (va : Word) (n : Nat) : Fetch (List Byte) :=
  let a := va.toNat
  (s.hubLines got vf asid a ((a + n + 63) / 64 - a / 64)).bind fun s bs => .ok s ((bs.drop (a % 64)).take n)

/-- The request for a line of another package. -/
def State.askLine (s : State) (vf : Nat) (ga : Word) (unit : Nat) : State :=
  s.route { s.hubMsg vf ga with kind := 0x20, units := 1, unit := unit, window := ga.toNat, payload := [ga, 64] }

/-! ### Launch names (R372) -/

/-- A launch with a name that has been enqueued. -/
def State.launchNamed (s : State) (n : BitVec 128) : Option Nat := (s.hub.launches.find? fun e => e.2.name == n).map fun e => e.1

/-- The hub takes the next value of the package counter (19_names.md R326). -/
def State.hubName (s : State) : Option (State × BitVec 128) :=
  if s.nameTable.isNone then none
  else
    let s := s.reserveNames
    if s.hub.canIssue then some (s.modHub fun h => { h with issued := h.issued + 1 }, s.hub.boot.serial ++ BitVec.ofNat 80 s.hub.issued) else none

/-- The attribute word of a launch name: class 4, LIVE, owned by its function, with no rights. -/
def launchAttr (vf : Nat) : Word := word (2 ^ 30 + vf * 2 ^ 8 + 4)

/-- The binding of a launch name: the number of its record on the hub. -/
def launchBinding (n : Nat) : Word := word (0x100000000 + n)

/-- A new launch name with a binding, if one can be issued; else the enqueue is refused with 0xB4: DESIGN CHOICE, log 127. -/
def State.newLaunchName (s : State) (vf : Nat) (binding : Word) : Option (State × BitVec 128) :=
  match s.hubName with
  | none => none
  | some (s, n) => (s.insertName n binding (launchAttr vf)).map fun s => (s, n)

/-- The entry of a reserved name of a function: LIVE, of class 4, with binding 0, and not enqueued. -/
def State.reservedEntry (s : State) (n : BitVec 128) : Option (Nat × Nat) :=
  if nameSerial n ≠ s.hub.boot.serial || s.nameTable.isNone || (s.launchNamed n).isSome then none
  else match s.lookup n with
    | .inl _ => none
    | .inr a =>
      let attr := s.entryAttr a
      if attrState attr = 1 && attrClass attr == 4 && s.entryBinding a == 0 then some (a, attrOwner attr) else none

/-- The tag of the hub's rebind of a reserved name, whose answer names the launch in its window field. -/
def bindTag : BitVec 32 := estTag 0

/-- The name of a launch that is enqueued, bound to its record; none where R372 refuses it. A reserved name is rebound at its home, under
the protocol of 19_names.md R333. -/
def State.bindLaunchName (s : State) (vf : Nat) (n : BitVec 128) (binding : Word) : Option (State × BitVec 128) :=
  if n = 0 then s.newLaunchName vf binding
  else match s.reservedEntry n with
    | some (_, owner) =>
      if owner = vf then
        some (s.route { dstChip := s.hub.chipId, srcChip := s.hub.chipId, kind := 0x38, units := 5, unit := s.nameUnit n, stamp := s.stamp,
                        tag := bindTag, window := s.hub.nextLaunch, payload := namePayload opCas 0 0 n [0, binding, 0, -1, 3, 0] }, n)
      else none
    | none => none

/-! ### Enqueue (R370, R371) -/

/-- LQCFG of a queue. -/
def State.queueCfg (s : State) (q : Nat) : Word := s.hub.queues.get q 0
def cfgPart (c : Word) : Nat := fld c 32 16

/-- A queue takes launches of a function. -/
def State.queueOpen (s : State) (q vf : Nat) : Bool :=
  let c := s.queueCfg q
  let x := s.vf vf
  decide (q < 1024) && bit c 63 && fld c 56 7 == vf && bit x.ctl 63 && !x.resetting

/-- The launches of a queue. -/
def State.queued (s : State) (q : Nat) : List (Nat × Launch) := s.hub.launches.filter fun e => e.2.state == 0 && e.2.queue == q

/-- An expiry scan is due for a launch that can expire. -/
def State.armExpiry (s : State) (part vf : Nat) : State :=
  if s.timers.any fun t => t.2 == .launchExpiryScan part vf then s
  else { s with timers := s.timers ++ [(s.ktick.toNat + 65536, .launchExpiryScan part vf)] }

/-- The outcome of an enqueue: refused with a cause and what `kaddr` holds, or accepted with the launch's name. -/
inductive Enq where
  | refused (cause : Nat) (kaddr : Word)
  | accepted (name : BitVec 128)

/-- An accepted launch is QUEUED under the next number, which is its place in the enqueue order. -/
def State.accept (s : State) (q vf : Nat) (p d : List Word) (n : BitVec 128) : State :=
  let l : Launch := { packet := p, desc := d, queue := q, vf := vf, name := n, starts := pkStarts p, repro := pkRepro p }
  let part := cfgPart (s.queueCfg q)
  let s := (s.setLaunch s.hub.nextLaunch l).modHub fun h => { h with nextLaunch := h.nextLaunch + 1 }
  (if pkExpire p then s.armExpiry part vf else s).post (.dispatchDecision part vf)

/-- RESULT of an estimator descriptor lies in a writable page (R383). -/
def State.resultWritable (s : State) (asid : Nat) (d : List Word) : Bool :=
  let va := edResult d
  !isNear va && (match s.leafFor hubCache asid va with | .ok leaf _ => leafW leaf && !leafTensed leaf && !leafSync leaf | .fail _ => false)

/-- An enqueue of a packet (R371): the checks in their order, the estimator descriptor copied, and the name bound. -/
def State.enqueue (s : State) (got : List (Nat × Nat × List Byte)) (q vf asid : Nat) (pkt : List Word) (addr : Word) : Fetch Enq :=
  let p := pkt.set 0 (withFld (pkt.getD 0 0) 16 16 vf)
  if !s.queueOpen q vf then .ok s (.refused 0xB3 (word q))
  else if !packetOk p then .ok s (.refused 0xB1 addr)
  else
    let desc : Fetch (Option (List Word)) :=
      if !pkEstimate p then .ok s (some [])
      else if pkDesc p &&& 63 != 0 then .ok s none
      else match s.hubBytes got vf asid (pkDesc p) 64 with
        | .ok s bs => let d := wordsOf 8 bs; .ok s (if estDescOk d && s.resultWritable asid d then some d else none)
        | .fail s _ _ => .ok s none
        | .need ga u => .need ga u
    desc.bind fun s d =>
    match d with
    | none => .ok s (.refused 0xB9 addr)
    | some d =>
      match s.bindLaunchName vf (pkName p) (launchBinding s.hub.nextLaunch) with
      | none => .ok s (.refused 0xB4 (nameLow (pkName p)))
      | some (t, n) =>
        if 256 ≤ (s.queued q).length then .ok s (.refused 0xB2 (word q)) else .ok (t.accept q vf p d n) (.accepted n)

/-- The answer of an enqueue: a hub reply, or ENQSTAT and NAME of a function (26_platform.md R446). -/
def State.enqueued (s : State) (x : Enqueue) (r : Enq) : State :=
  match x.msg, r with
  | some m, .accepted n => s.hubAnswer m 0 [nameLow n, nameHigh n]
  | some m, .refused c a => s.hubAnswer m c [a]
  | none, .accepted n => s.modVf x.vf fun v => { v with enqStat := word (2 ^ 63), lastName := n }
  | none, .refused c _ => s.modVf x.vf fun v => { v with enqStat := word (2 ^ 63 + c) }

/-- What an enqueue waits for in place of a line: the rebind of its reserved name. -/
def bindMark (n : Nat) : Nat := 2 ^ 64 + n

/-- An enqueue waits for a line of another package, with its packet as far as it has been read. -/
def State.awaitLine (s : State) (x : Enqueue) (ga : Word) (unit : Nat) : State :=
  (s.modHub fun h => { h with enqueues := h.enqueues ++ [{ x with awaits := ga.toNat }] }).askLine x.vf ga unit

/-- The packet of an enqueue: the one that the hub holds, or its bytes in memory. -/
def State.readPacket (s : State) (x : Enqueue) : Fetch (List Word) :=
  if !x.packet.isEmpty then .ok s x.packet
  else (s.hubBytes x.got x.vf x.asid x.addr 128).bind fun s bs => .ok s (wordsOf 16 bs)

/-- An enqueue goes as far as it can: to its answer, or to the line or the rebind that it must wait for. A packet that a `launch` names
is read first; its translation causes are the cause of the instruction. A packet that has been read is never read again (03_language.md
R56). -/
def State.tryEnqueue (s : State) (x : Enqueue) : State :=
  match s.readPacket x with
  | .fail s c va => s.enqueued x (.refused c va)
  | .need ga u => s.awaitLine x ga u
  | .ok s p =>
    match s.enqueue x.got x.queue x.vf x.asid p x.addr with
    | .fail s c va => s.enqueued x (.refused c va)
    | .need ga u => s.awaitLine { x with packet := p } ga u
    | .ok s (.refused c va) => s.enqueued x (.refused c va)
    | .ok s (.accepted n) =>
      if pkName p = 0 then s.enqueued x (.accepted n)
      else s.modHub fun h => { h with enqueues := h.enqueues ++ [{ x with packet := p, awaits := bindMark (h.nextLaunch - 1) }] }

/-- The reserved name of a launch has been bound: its enqueue is answered (R372). -/
def State.launchBound (s : State) (n : Nat) : State :=
  (s.hub.enqueues.filter fun x => x.awaits == bindMark n).foldl (fun s x => s.enqueued x (.accepted (s.launch n).name))
    (s.modHub fun h => { h with enqueues := h.enqueues.filter fun x => x.awaits != bindMark n })

/-- `launch` at the hub: payload words 1 to 3 hold the queue, the address-space id and the packet address, and the packet follows
where the clause read it from the near window. Address 0 issues a reserved name (R372, R393). -/
def State.hubLaunchOp (s : State) (m : Msg) : State :=
  let q := m.payload.getD 1 0
  let vf := m.srcVf.toNat
  let p := m.payload.getD 3 0
  if !s.queueOpen q.toNat vf then s.hubAnswer m 0xB3 [q]
  else if p = 0 then
    match s.newLaunchName vf 0 with
    | some (s, n) => s.hubAnswer m 0 [nameLow n, nameHigh n]
    | none => s.hubAnswer m 0xB4 [0]
  else s.tryEnqueue { msg := some m, queue := q.toNat, vf := vf, asid := (m.payload.getD 2 0).toNat, packet := (m.payload.drop 4).take 16, addr := p }

/-- HOST_ENQUEUE (26_platform.md R446): the host has staged a packet and written a queue number to ENQ. Ignored while an enqueue is
in progress. -/
def execHostEnqueue (vf : Nat) (queue : BitVec 10) (packet : List Word) (s : State) : Host.Outcome State Fault Refusal :=
  let x := s.vf vf
  .next (if !bit x.enqStat 63 || s.hub.boot.diverged then s
    else
      let s := s.captureInput 0 0 0 inHost ([word (vf + queue.toNat * 2 ^ 8)] ++ packet) 3
      let s := s.setVf vf { x with packet := packet, enqStat := 0 }
      if bit x.ctl 63 && !x.resetting then
        s.tryEnqueue { msg := none, queue := queue.toNat, vf := vf, asid := fld x.ctl 0 16, packet := (packet ++ List.replicate 16 0).take 16, addr := 0 }
      else s.modVf vf fun v => { v with enqStat := word (2 ^ 63 + 0xB3) })

/-! ### The status word and the end of a launch (R377, R378) -/

/-- The status word of a launch. It has no field for the virtual function that 03_language.md R57 has `lstat` report: log 90. -/
def Launch.status (l : Launch) : Word :=
  word (l.state * 2 ^ 60 + l.cause * 2 ^ 52 + l.late.toNat * 2 ^ 51 + l.estate * 2 ^ 48 + least (2 ^ 32 - 1) l.live)

/-- The status word with the state of a run that is not yet copied into the record. -/
def State.launchStatus (s : State) (n : Nat) : Word :=
  let l := s.launch n
  Launch.status (match l.est with | some e => { l with estate := (s.est e).state } | none => l)

/-- The completion message of a launch, for a reply tag that asks for one (R378). -/
def State.completionMsg (s : State) (l : Launch) (ws : List Word) : State :=
  let tag := pkReply l.packet
  let m : Msg := { dstChip := BitVec.ofNat 20 (pkRoute l.packet / 4096), dstCore := BitVec.ofNat 12 (pkRoute l.packet), units := 4,
                   srcVf := BitVec.ofNat 7 l.vf, key := deviceKey 0x40 0, payload := ws }
  let (s, m) := s.numbered m
  let own := m.dstChip == s.hub.chipId
  let c := fun (core : Nat) => s.receiver core s.hub.chipId l.vf none
  match tagKind tag with
  | 0 => s
  | 1 =>
    let m := { m with kind := 0x00, chan := BitVec.ofNat 8 (tagChan tag) }
    if own then (match c m.dstCore.toNat with | some c => s.route { m with ctx := BitVec.ofNat 2 c } | none => s) else s.route m
  | 2 => s.route { m with kind := 0x01, tag := tag }
  | _ => s.route { m with kind := 0x02, tag := tag, ctx := BitVec.ofNat 2 ((if own then c m.dstCore.toNat else none).getD 0) }

/-- The completion record of a launch. -/
def State.completionOf (s : State) (l : Launch) : List Word :=
  let mean := match l.est with | some e => (s.est e).mean | none => 0
  [nameLow l.name, nameHigh l.name, withFld l.status 0 32 0, if pkEstimate l.packet then mean else l.result, l.dispatched, s.ktick,
   word l.kills, 0]

/-- Messages that wait to be taken in when the launch of their context ends are counted as late (R376). -/
def Ctx.countHeld (x : Ctx) : Ctx := x.held.foldl (fun y _ => y.countErr 16) x

/-- A context that a launch has left (R376). Records held by replies that nobody has paid are free with it (06_messages.md R111). -/
def Ctx.freed (x : Ctx) (n : Nat) : Ctx :=
  if x.launch = n then { x.countHeld with launch := 0, repro := false, chans := [], pool := [], recs := [], held := [], savedMsgs := [], savedPool := [], lastChan := 255 } else x

/-- Streams of a launch that its end leaves are over (11_memory_access.md R209). -/
def Cluster.dropStreams (c : Cluster) (n : Nat) : Cluster := { c with streams := c.streams.keep fun _ t => t.launch != n }

/-- The hub kills the name of a launch under the protocol of 19_names.md R333. -/
def State.killLaunchName (s : State) (n : BitVec 128) : State :=
  s.route { dstChip := s.hub.chipId, srcChip := s.hub.chipId, kind := 0x38, units := 5, unit := s.nameUnit n, stamp := s.stamp,
            payload := namePayload opKill 0 0 n [0, 0, 0, 0, 3, 0] }

/-- A management slot that waits for the ends of launches has one less to wait for; the last lets it write the number killed. -/
def State.mgmtWaitOver (s : State) (k : Nat) : State :=
  match (s.slot k).wait with
  | .blocked (.system op rd) n got =>
    if n ≤ 1 then s.modSlot k fun sl => (sl.setX rd (word ((got.head?.map fun g => g.1).getD 0))).complete
    else s.modSlot k fun sl => { sl with wait := .blocked (.system op rd) (n - 1) got }
  | _ => s

/-- A request that waited for the end of a launch is answered with the final status. -/
def State.launchOver (s : State) (m : Msg) (status : Word) : State :=
  if m.kind = 0x36 then s.hubAnswer m 0 [status] else s.mgmtWaitOver m.unit

/-- The contexts of a function and partition with a queued launch that waits for an estimator context are looked at again (R373). -/
def State.wakeEstimates (s : State) : State :=
  (s.hub.launches.filter fun (e : Nat × Launch) => e.2.state == 0 && pkEstimate e.2.packet).foldl
    (fun s e => s.post (.dispatchDecision (cfgPart (s.queueCfg e.2.queue)) e.2.vf)) s

/-- A launch has ended in a state with a cause (R376 to R378): the record and the message come first, then the kill of the name;
its context is free, and requests that waited are answered. -/
def State.finishLaunch (s : State) (n state cause : Nat) : State :=
  let l := s.launch n
  let est := match l.est with | some e => (s.est e).state | none => 0
  let l := { l with state := state, cause := cause, estate := est, live := 0 }
  let ws := s.completionOf l
  let s := ((s.setLaunch n { l with parked := [], got := [], awaits := none, waiting := [], est := none }).completionRecord l.vf ws).completionMsg l ws
  let s := s.killLaunchName l.name
  let s := { s with cores := s.cores.map (fun (c : Nat × Core) => (c.1, { c.2 with ctxs := c.2.ctxs.map fun (x : Nat × Ctx) => (x.1, x.2.freed n) })),
                    clusters := s.clusters.map fun (c : Nat × Cluster) => (c.1, c.2.dropStreams n) }
  let s := match l.est with | some e => (s.modHub fun h => { h with ests := h.ests.del e }).wakeEstimates | none => s
  let s := l.waiting.foldl (fun s m => s.launchOver m l.status) s
  (s.post (.dispatchDecision (cfgPart (s.queueCfg l.queue)) l.vf)).post (.dispatchDecision l.node l.vf)

/-- The estimator of a launch has ended its run and written its record. -/
def State.estOver (s : State) (l : Launch) : Bool :=
  match l.est with
  | some e => (s.est e).state != 1 && !(s.est e).writing
  | none => true

/-- LAUNCH_COMPLETION: a RUNNING launch whose start messages are sent, whose clauses and commands have ended and whose estimator is
done completes (R376); one that is killed needs no more starts (R379). -/
def State.checkLaunch (s : State) (n : Nat) : State :=
  let l := s.launch n
  if (l.state = 2 || (l.prepared && l.killing && l.state = 1)) && l.live == 0 && l.commands == 0 && s.estOver l && (l.killing || (l.started == l.starts && l.pending == 0)) then
    s.finishLaunch n (if l.killing then 4 else 3) 0
  else s

/-- LAUNCH_COMPLETION -/
def execLaunchCompletion (launch : Nat) (s : State) : Host.Outcome State Fault Refusal := .next (s.checkLaunch launch)

/-! ### Dispatch (R16, R373 to R375) -/

/-- The entries that a partition's context for a function is numbered under. -/
def State.contextFor (s : State) (part vf : Nat) : Option Nat :=
  match s.hub.parts.find part with
  | none => none
  | some p => (p.ctxs.find? fun e => e.2 == vf).map fun e => e.1

/-- A launch of a context is DISPATCHING or RUNNING. -/
def State.activeIn (s : State) (part c : Nat) : Option Nat :=
  (s.hub.launches.find? fun e => (e.2.state == 1 || e.2.state == 2) && e.2.node == part && e.2.ctx == c).map fun e => e.1

/-- A free estimator context of a die (R373). -/
def State.freeEst (s : State) (die : Nat) : Option Nat :=
  ((List.range 16).map fun i => die * 16 + i).find? fun e => (s.hub.ests.find e).isNone

/-- The die of a partition's lowest logical core. -/
def State.lowDie (s : State) (part : Nat) : Nat := s.coreAt part 0 / 1024

/-- The class of a launch at a tick (R373). -/
def classOf (l : Launch) (now : Nat) : Nat := let d := pkDeadline l.packet; if d = 0 then 3 else if now ≤ d then 1 else 2

/-- The rank of a launch: class, deadline, priority, enqueue order. -/
def rankOf (e : Nat × Launch) (now : Nat) : List Nat :=
  let c := classOf e.2 now
  [c, if c < 3 then pkDeadline e.2.packet else 0, 7 - pkPrio e.2.packet, e.1]

/-- The first launch in rank order. -/
def firstRanked (now : Nat) : List (Nat × Launch) → Option (Nat × Launch)
  | [] => none
  | e :: t =>
    match firstRanked now t with
    | none => some e
    | some f => if before (rankOf f now) (rankOf e now) then some f else some e

/-- The launches queued for a function and a partition. -/
def State.queuedFor (s : State) (part vf : Nat) : List (Nat × Launch) :=
  s.hub.launches.filter fun e => e.2.state == 0 && e.2.vf == vf && cfgPart (s.queueCfg e.2.queue) == part

/-- A launch has expired (R374). -/
def expired (l : Launch) (now : Nat) : Bool := pkExpire l.packet && decide (pkDeadline l.packet + 1024 * pkHorizon l.packet < now)

/-- Expired launches are cancelled (R374). -/
def State.expire (s : State) (part vf : Nat) : State :=
  ((s.queuedFor part vf).filter fun e => expired e.2 s.ktick.toNat).foldl (fun s e => s.finishLaunch e.1 5 0xB0) s

/-- LAUNCH_EXPIRY_SCAN: looked at again after 65,536 ns while launches that can expire are queued. -/
def State.expiryScan (s : State) (part vf : Nat) : State :=
  let s := s.expire part vf
  if (s.queuedFor part vf).any fun e => pkExpire e.2.packet then s.armExpiry part vf else s

/-- LAUNCH_EXPIRY_SCAN -/
def execLaunchExpiryScan (part vf : Nat) (s : State) : Host.Outcome State Fault Refusal := .next (s.expiryScan part vf)

/-- A group: its id, its members as physical cores, its geometry words and its RING flag. -/
structure Group where
  id   : Nat
  mems : List Nat
  geo  : List (BitVec 32)
  ring : Bool

/-- The 16-bit numbers of a list of bytes. -/
def halves : List Byte → List Nat
  | a :: b :: t => ofBytes [a, b] :: halves t
  | _ => []

/-- The memberships of a list of groups that name a logical core. -/
def countMember (gs : List Group) (core : Nat) : Nat := (gs.map fun g => g.mems.count core).foldl (· + ·) 0

/-- Step 1 of R375: the groups from an id on. The reserved bits of an entry, and an offset of its list that is not a multiple of 8, are
ignored: log 91. The groups, each member checked against the logical core count and the four-group limit. -/
def State.readGroups (s : State) (l : Launch) (asid id : Nat) (acc : List Group) : Nat → Fetch (List Group)
  | 0 => .ok s acc
  | n + 1 =>
    let base := pkGroups l.packet
    ((s.hubBytes l.got l.vf asid (base + word (32 * id)) 32).causing 0xBB).bind fun s e =>
    let size := ofBytes ((e.drop 8).take 4)
    if size = 0 then s.readGroups l asid (id + 1) acc n
    else
      let count := s.logicalCount l.node
      if 4 * count < size then .fail s 0xB5 0
      else
        ((s.hubBytes l.got l.vf asid (base + word (ofBytes (e.take 8))) (2 * size)).causing 0xBB).bind fun s bs =>
        let ms := halves bs
        let g : Group := { id := id, mems := ms.map fun i => s.coreAt l.node i,
                           geo := [16, 20, 24, 28].map fun o => BitVec.ofNat 32 (ofBytes ((e.drop o).take 4)), ring := ofBytes ((e.drop 12).take 1) % 2 == 1 }
        let gs := acc ++ [g]
        if ms.any (fun i => decide (count ≤ i)) || g.mems.any (fun c => decide (4 < countMember gs c)) then .fail s 0xB5 0
        else s.readGroups l asid (id + 1) gs n

/-- The law table as words, and the global address of each word with its home. -/
def State.readLaws (s : State) (l : Launch) (asid : Nat) : Fetch (Option (List Word × List Nat)) :=
  let a := pkLaws l.packet
  if a = 0 then .ok s none
  else ((s.hubBytes l.got l.vf asid a 8192).causing 0xBB).bind fun s bs =>
    let at_ := (List.range 1024).map fun i =>
      let va := a.toNat + 8 * i
      match s.leafFor hubCache asid va with
      | .ok leaf ps => let ga := s.globalOf leaf ps va; ga.toNat + homeOf (leafPlacement leaf) (devOf ga) * 2 ^ 64
      | .fail _ => 0
    .ok s (some (wordsOf 1024 bs, at_))

/-- RESULT of an estimating launch, translated for a write (R383). DEDUCED, log 116. -/
def State.resultAddr (s : State) (l : Launch) (asid : Nat) : Fetch (Word × Nat) :=
  let va := edResult l.desc
  let unit := estCache (l.est.getD 0)
  if !pkEstimate l.packet then .ok s (0, 0)
  else if isNear va then .fail s 0xB9 0
  else match s.leafFor unit asid va with
    | .fail c => .fail (if c = causeAbsent then s.walkRecord unit asid l.vf (word va) else s) 0xB9 0
    | .ok leaf ps =>
      let ga := s.globalOf leaf ps va
      if leafW leaf && !leafTensed leaf && !leafSync leaf then .ok (s.fillTlb unit asid va) (ga, homeOf (leafPlacement leaf) (devOf ga))
      else .fail s 0xB9 0

/-- What steps 1 and 2 read: the groups, the handler table, RESULT and the law table, in this order. -/
structure Tables where
  groups : List Group
  htab   : List Word
  result : Word × Nat
  laws   : Option (List Word × List Nat)

/-- The reads of steps 1 and 2 (R375). With GROUP, the start count is the size of group 0. -/
def State.readTables (s : State) (l : Launch) : Fetch Tables :=
  let asid := fld (s.vf l.vf).ctl 0 16
  (if pkGroup l.packet then s.readGroups l asid 0 [] 256 else .ok s []).bind fun s gs =>
  if pkGroup l.packet && !(gs.any fun g => g.id == 0 && g.mems.length == l.starts) then .fail s 0xB5 0
  else
    ((s.hubBytes l.got l.vf asid (pkHandlers l.packet) 2048).causing 0xBB).bind fun s hs =>
    (s.resultAddr l asid).bind fun s ga =>
    (s.readLaws l asid).bind fun s laws => .ok s { groups := gs, htab := wordsOf 256 hs, result := ga, laws := laws }

/-- Positions of a core in a member list. -/
def ranksIn (mems : List Nat) (core : Nat) : List Nat := (mems.zipIdx.filter fun m => m.1 == core).map fun m => m.2

/-- The memberships of a core in ascending group id: the word of `kgeo`, the geometry and the members (10_matrix.md R179). A core that a
group lists twice has a membership for each listing: log 92. -/
def memberships (gs : List Group) (core : Nat) : List (Word × List (BitVec 32) × List Nat) :=
  (gs.map fun g => (ranksIn g.mems core).map fun r =>
    (word (g.id * 2 ^ 56 + r * 2 ^ 44 + g.mems.length * 2 ^ 31 + 2 ^ 30 + g.ring.toNat * 2 ^ 29), g.geo, g.mems)).flatten

/-- The channels that a handler table gives: the entries that are not 0, with EN as the enable bit (03_language.md R45). -/
def handlerChans (i : Nat) : List Word → Tab Chan
  | [] => []
  | w :: t => if w = 0 then handlerChans (i + 1) t else (i, { entry := w, enable := bit w 35, seen := bit w 35 }) :: handlerChans (i + 1) t

/-- A context of a partition's core takes a launch; its latches are EMPTY for it (10_matrix.md R178). -/
def Ctx.loaded (x : Ctx) (n : Nat) (l : Launch) (htab : List Word) : Ctx :=
  { x with launch := n, codeBase := pkCode l.packet, codeSize := pkCodeSize l.packet, wdog := word (pkBound l.packet), repro := l.repro,
           chans := handlerChans 0 htab, lastChan := 255, bl := [] }

/-- Steps 1 and 2 at one core: its memberships, the handler table and the code bounds. -/
def State.loadCore (s : State) (n : Nat) (l : Launch) (t : Tables) (core : Nat) : State :=
  let ms := memberships t.groups core
  let s := s.modCore core fun c =>
    { c with kgeo := ms.zipIdx.map (fun m => (m.2, m.1.1)), geo := ms.zipIdx.map (fun m => (m.2, m.1.2.1)), ranks := ms.zipIdx.map fun m => (m.2, m.1.2.2) }
  s.modCtx core l.ctx fun x => x.loaded n l t.htab

/-- The cores of a partition. -/
def State.nodeCores (s : State) (node : Nat) : List Nat := ((s.nodeClusters node).map fun c => (List.range 8).map fun i => 8 * c + i).flatten

/-- An estimator context is bound to a launch (R375, R384). -/
def estOf (n : Nat) (l : Launch) (result : Word × Nat) : Est :=
  let d := l.desc
  let items := edItems d
  let feistel := edPerm d == 2
  { launch := n, state := 1, items := items, feistel := feistel, pull := edPull d, killStop := edKillStop d,
    mul := if feistel then d.getD 1 0 else word (affineMul items (d.getD 1 0).toNat), off := if feistel then 0 else word ((d.getD 2 0).toNat % items),
    batch := edBatch d, least := edMin d, z := d.getD 4 0, tol := d.getD 5 0, record := result.1, home := result.2, args := pkArgs l.packet }

/-- A function's law table is installed (17_tensed.md R295). -/
def State.installLaws (s : State) (vf : Nat) (laws : Option (List Word × List Nat)) : State :=
  match laws with
  | none => s
  | some (ws, at_) => s.modVf vf fun x => { x with law := some ws, lawAt := at_ }

/-- Steps 1 and 2 of R375 for a DISPATCHING launch, as far as its reads have come. -/
def State.prepare (s : State) (n : Nat) : State :=
  let l := s.launch n
  match s.readTables l with
  | .need ga u => if l.awaits.isSome then s else (s.setLaunch n { l with awaits := some ga.toNat }).askLine l.vf ga u
  | .fail s cause _ => s.finishLaunch n 6 cause
  | .ok s t =>
    let est := l.est
    let g0 := (t.groups.find? fun g => g.id == 0).map fun g => g.mems
    let l := { l with group0 := g0.getD [], got := [], prepared := true }
    let s := (s.nodeCores l.node).foldl (fun s c => s.loadCore n l t c) s
    let s := match est with | some e => s.modHub fun h => { h with ests := h.ests.set e (estOf n l t.result) } | none => s
    let s := (s.setLaunch n l).installLaws l.vf t.laws
    if l.killing then
      let s := match est with | some e => s.endRun e 4 | none => s
      s.checkLaunch n
    else s.post (.dispatchDecision l.node l.vf)

/-- A launch is chosen: it is DISPATCHING from now on, and an estimating one holds an estimator context (R373, R375). -/
def State.beginDispatch (s : State) (part vf c n : Nat) : State :=
  let l := s.launch n
  let late := classOf l s.ktick.toNat == 2
  let est := if pkEstimate l.packet then s.freeEst (s.lowDie part) else none
  let s := s.setLaunch n { l with state := 1, node := part, ctx := c, late := late, dispatched := s.ktick, est := est }
  let s := match est with | some e => s.modEst e fun _ => { launch := n } | none => s
  let s := if late then s.modVf vf fun x => { x with cnt := withFld x.cnt 32 32 (least (2 ^ 32 - 1) (fld x.cnt 32 32 + 1)) } else s
  s.prepare n

/-- The next start message of a launch leaves (step 3 of R375). With the first the launch turns RUNNING, and its estimator begins to hand
out. -/
def State.sendStart (s : State) (n : Nat) : State :=
  let l := s.launch n
  if l.starts ≤ l.started || l.killing then s
  else
    let i := l.started
    let core := if pkGroup l.packet then l.group0.getD i 0 else s.hashCore l.node (mix 0 i)
    let s := s.setLaunch n { l with started := i + 1, pending := l.pending + 1, state := 2 }
    let s := s.sendDevice { dstChip := s.hub.chipId, dstCore := BitVec.ofNat 12 core, chan := BitVec.ofNat 8 (pkEntry l.packet), kind := 0x08,
                            units := 1, srcVf := BitVec.ofNat 7 l.vf, key := deviceKey 0x40 0, ctx := BitVec.ofNat 2 l.ctx, launch := n,
                            payload := [pkArgs l.packet, word i] }
    let s := match l.est with | some e => if i = 0 then s.handOn e else s | none => s
    if i + 1 < l.starts then s.post (.dispatchDecision l.node l.vf) else s

/-- DISPATCH_DECISION of a context: expired launches are cancelled; a launch being dispatched goes on; else, where the function may
run and is not pre-empted, the first launch in rank order that can be dispatched is. -/
def State.decideDispatch (s : State) (part vf : Nat) : State :=
  let s := s.expire part vf
  match s.contextFor part vf with
  | none => s
  | some c =>
    match s.activeIn part c with
    | some n => if (s.launch n).prepared then s.sendStart n else s.prepare n
    | none =>
      let x := s.vf vf
      if !bit x.ctl 63 || bit x.bud 62 then s
      else
        let room := (s.freeEst (s.lowDie part)).isSome
        match firstRanked s.ktick.toNat ((s.queuedFor part vf).filter fun e => room || !pkEstimate e.2.packet) with
        | none => s
        | some e => s.beginDispatch part vf c e.1

/-- DISPATCH_DECISION -/
def execDispatchDecision (part vf : Nat) (s : State) : Host.Outcome State Fault Refusal := .next (s.decideDispatch part vf)

/-! ### Fabric windows that this chip declares (24_system.md R424) -/

/-- WINSTAT reports a result. -/
def State.winResult (s : State) (r : Nat) : State := s.modHub fun h => { h with winstat := word (r * 2 ^ 60) }

/-- The declaration block as a window without its contributors, with the address and the length of their list, if it is well-formed. -/
def State.windowBlock (s : State) (id : Nat) : Option (Window × Word × Nat) :=
  let b := s.devBytes (devOf s.hub.winblk) 64
  let base := dsc b 0 8
  let len := dsc b 8 8
  let code := dsc b 16 1
  let c := dsc b 18 2
  let status := word (dsc b 24 8)
  if base % 64 = 0 && base < 2 ^ 44 && len % 64 = 0 && 0 < len && len ≤ 67108864 && base + len ≤ 2 ^ 44 && code % 4 ≠ 3 && code < 12
      && dsc b 17 1 < 2 && 1 ≤ c && c ≤ 4096 && dsc b 20 4 = 0 && dsc b 40 24 = 0 && status.toNat % 64 = 0 && chipOf status = s.hub.chipId then
    some ({ home := s.hub.chipId, id := id, base := base, len := len, code := code, repro := dsc b 17 1 == 1, status := status },
          word (dsc b 32 8), c)
  else none

/-- The contributors of a list in this package's memory. -/
def State.membersAt (s : State) (list : Word) (c : Nat) : List Nat := (List.range c).map fun i => s.devLoad (devOf list + 4 * i) 4 % 2 ^ 20

/-- The declaration block as a window, where it is well-formed and its list of contributors lies in this package. -/
def State.declared (s : State) (id : Nat) : Option Window :=
  match s.windowBlock id with
  | some (w, list, c) => if chipOf list = s.hub.chipId then some { w with members := s.membersAt list c } else none
  | none => none

/-- A window takes effect: its status block is COMPLETE-able with an empty map. -/
def State.installWindow (s : State) (w : Window) : State :=
  (s.modHub fun h => { h with windows := h.windows.filter (fun x => !(x.home == w.home && x.id == w.id)) ++ [w] }).devStore (devOf w.status)
    ([1] ++ List.replicate 575 0)

/-- A window that this chip homes is declared no more. -/
def State.dropWindow (s : State) (id : Nat) : State :=
  s.modHub fun h => { h with windows := h.windows.filter fun x => !(x.home == h.chipId && x.id == id) }

/-- A window with its contributors is declared, or the result is reported: one that cannot reach a contributor is withdrawn everywhere, and
with it the window that it would replace. A package counts the windows that it homes and those that it contributes to. -/
def State.declareAs (s : State) (w : Window) (fresh : Bool) : State :=
  if w.members.any fun c => c != s.hub.chipId.toNat && s.chipDown c then (s.dropWindow w.id).winResult 3
  else if fresh && decide (64 ≤ s.hub.windows.length) then s.winResult 4
  else (s.installWindow w).winResult 0

/-! ### Tables that the hub reads at other packages (24_system.md R423, R424) -/

/-- The entry size and the number of the use of a table. -/
def TableUse.size : TableUse → Nat
  | .law => 8
  | .map => 16
  | .members _ _ => 4
def TableUse.number : TableUse → Nat
  | .law => 0
  | .map => 1
  | .members _ _ => 2

/-- The bytes of a table that has come whole. -/
def TableRead.bytes (r : TableRead) : List Byte := (r.got.flatten.drop (r.addr.toNat % 64)).take (r.what.size * r.count)

/-- A line of a table, as the window field of its request names it. -/
def TableRead.mark (r : TableRead) : Nat := r.what.number * 2 ^ 64 + r.addr.toNat / 64 * 64 + 64 * r.got.length

/-- Entries of a serial map from one on rise strictly. Structural on their number. -/
def serialsRise (serial : Nat → Nat) (i : Nat) (last : Option Nat) : Nat → Bool
  | 0 => true
  | n + 1 => (match last with | some l => decide (l < serial i) | none => true) && serialsRise serial (i + 1) (some (serial i)) n

/-- A serial map of a number of entries has been read: it goes live with its copy, or is refused. -/
def State.mapRead (s : State) (map : Word) (n : Nat) (serial : Nat → Nat) (copy : List (List Byte)) : State :=
  if serialsRise serial 0 none n then s.modHub fun h => { h with smapn := word n, smapLive := map, smapCopy := copy }
  else s.modHub fun h => { h with smapn := 0, smapLive := map }

/-- The kernel's table is installed at every law unit, or none is. -/
def State.klawRead (s : State) (t : Option (List Word)) : State := s.modHub fun h => { h with klawTable := t }

/-- A table that could not be read: a law table is not installed, a serial map is refused, and so is a declaration. -/
def State.tableFailed (s : State) (r : TableRead) : State :=
  match r.what with
  | .law => s.klawRead none
  | .map => s.modHub fun h => { h with smapn := 0, smapLive := r.addr }
  | .members _ _ => s.winResult 2

/-- A table has come whole. -/
def State.tableRead (s : State) (r : TableRead) : State :=
  match r.what with
  | .law => s.klawRead (some (wordsOf 1024 r.bytes))
  | .map => s.mapRead r.addr r.count (fun i => dsc (r.got.getD (i / 4) []) (16 * (i % 4)) 6) r.got
  | .members w fresh => s.declareAs { w with members := (List.range r.count).map fun i => dsc r.bytes (4 * i) 4 % 2 ^ 20 } fresh

/-- A table goes on being read: its next line is asked for, or it has come whole. -/
def State.readTable (s : State) (r : TableRead) : State :=
  let ga := word (r.mark % 2 ^ 64)
  if (r.addr.toNat % 64 + r.what.size * r.count + 63) / 64 ≤ r.got.length then s.tableRead r
  else if s.chipDown (chipOf r.addr).toNat then s.tableFailed r
  else (s.modHub fun h => { h with reads := h.reads ++ [r] }).route
    { s.hubMsg 0 ga with kind := 0x20, units := 1, tag := tableTag, window := r.mark, payload := [ga, 64] }

/-- A line of a table has come, or a status in its place. -/
def State.tableLineCame (s : State) (window status : Nat) (bs : List Byte) : State :=
  match s.hub.reads.find? fun r => r.mark == window with
  | none => s
  | some r =>
    let s := s.modHub fun h => { h with reads := h.reads.erase r }
    if status = 0 then s.readTable { r with got := r.got ++ [bs] } else s.tableFailed r

/-- A line that the hub asked another package for has come: what waited for it goes on. -/
def State.hubLineCame (s : State) (ga status : Nat) (bs : List Byte) : State :=
  let line := (ga, status, bs)
  let xs := s.hub.enqueues.filter fun x => x.awaits == ga
  let ls := s.hub.launches.filter fun e => e.2.awaits == some ga
  let s := s.modHub fun h => { h with enqueues := h.enqueues.filter fun x => x.awaits != ga }
  let s := xs.foldl (fun s x => s.tryEnqueue { x with got := line :: x.got }) s
  ls.foldl (fun s e => (s.modLaunch e.1 fun l => { l with got := line :: l.got, awaits := none }).post (.dispatchDecision e.2.node e.2.vf)) s

/-! ### Kills (R379) -/

/-- A parked item of a killed launch that is not discarded: a request to a home or unit that has left, or an answer that a slot is
owed. Handler messages, resumes and spawns are discarded. -/
def outlives (m : Msg) : Bool := decide (0x20 ≤ m.kind.toNat) || m.kind == 0x01 || m.kind == 0x04

/-- A context whose launch is killed: its queued messages are discarded. -/
def Ctx.emptied (x : Ctx) (n : Nat) : Ctx :=
  if x.launch = n then
    { x with held := [], savedMsgs := [], pool := x.pool.filter (fun p => match p.kind with | .channel _ => false | _ => true),
             chans := x.chans.map fun (e : Nat × Chan) => (e.1, { e.2 with queue := [], pending := false, seenPending := false }) }
  else x

/-- A launch is killed: QUEUED ones end, DISPATCHING ones finish their reads and start nothing, RUNNING ones lose their clauses,
messages, commands and estimator run. -/
def State.killLaunch (s : State) (n : Nat) : State :=
  let l := s.launch n
  if l.state = 0 then s.finishLaunch n 4 0
  else if 2 < l.state || l.killing then s
  else if !l.prepared then s.setLaunch n { l with killing := true }
  else
    let kept := l.parked.filter outlives
    let s := s.setLaunch n { l with killing := true, parked := l.parked.filter fun m => !outlives m }
    let s := (s.killClauses fun c => c.launch == n).killCommands n
    let s := { (s.modLaunch n fun l => { l with parked := [] }) with
      net := s.net ++ kept,
      cores := s.cores.map fun (c : Nat × Core) => (c.1, { c.2 with ctxs := c.2.ctxs.map fun (x : Nat × Ctx) => (x.1, x.2.emptied n) }) }
    let s := match l.est with
      | some e => if (s.est e).state = 1 then s.endRun e 4 else s
      | none => s
    s.post (.launchCompletion n)

/-- `lstat` and `lkill` at the hub (R394): payload words 1 and 2 hold the name. -/
def State.hubStatus (s : State) (m : Msg) (kill : Bool) : State :=
  let n : BitVec 128 := m.payload.getD 2 0 ++ m.payload.getD 1 0
  match s.launchNamed n with
  | none => s.hubAnswer m 0 [word ((if (s.reservedEntry n).isSome then 8 else 7) * 2 ^ 60)]
  | some i =>
    if !kill || 2 < (s.launch i).state then s.hubAnswer m 0 [s.launchStatus i]
    else (s.modLaunch i fun l => { l with waiting := l.waiting ++ [m] }).killLaunch i

/-- A request to the hub (kind 0x36) by its operation. -/
def State.hubOp (s : State) (m : Msg) : State :=
  match (m.payload.getD 0 0).toNat with
  | 0 => s.hubSetLaw m
  | 1 => s.hubGetLaw m
  | 2 => s.orPark m fun s => s.hubAdvance m
  | 3 => s.hubLaunchOp m
  | 4 => s.hubStatus m false
  | _ => s.hubStatus m true

/-- HUB_REQUEST (kind 0x36) -/
def execHubRequest (m : Msg) (s : State) : Host.Outcome State Fault Refusal := .next (s.hubOp m)

/-! ### Budgets (R380 to R382) -/

/-- A core's charge of a context leaves as a `twadd` to the budget word, and is cleared (R381). -/
def State.reportCharge (s : State) (core c : Nat) : State :=
  let x := s.ctx core c
  let bud := (s.vf x.vf).bud
  if x.charge = 0 then s
  else
    let s := s.setCtx core c { x with charge := 0 }
    if !bit bud 63 then s
    else
      let a := fld bud 16 40 * 16
      s.route { dstChip := s.hub.chipId, kind := 0x34, units := 2, srcChip := s.hub.chipId, srcVf := BitVec.ofNat 7 x.vf, rpay := true,
                unit := s.homeUnit a, stamp := s.stamp, tag := BitVec.ofNat 32 (core % 4096),
                payload := [word (s.hub.chipId.toNat * 2 ^ 44 + a), 1, wordInt (-((x.charge : Int) * 2 ^ 32)), 0] }

/-- BUDGET_CHARGE_REPORT -/
def execBudgetChargeReport (core ctx : Nat) (s : State) : Host.Outcome State Fault Refusal := .next (s.reportCharge core ctx)

/-- The contexts of a function, as core and context number. -/
def State.contextsOf (s : State) (vf : Nat) : List (Nat × Nat) :=
  s.contexts.filter fun x => (s.ctx x.1 x.2).assigned && (s.ctx x.1 x.2).vf == vf

/-- A context is pre-empted (06_messages.md R119). -/
def State.preempt (s : State) (core c : Nat) : State := (s.modCtx core c fun x => { x with preempted := true }).saveContext core c

/-- The partitions that hold a function are looked at for a dispatch. -/
def State.wakeDispatch (s : State) (vf : Nat) : State :=
  s.hub.parts.foldl (fun s e => if (s.contextFor e.1 vf).isSome then s.post (.dispatchDecision e.1 vf) else s) s

/-- The tense of a budget word is changed with `twarm` semantics (17_tensed.md R314); its owner core stays. -/
def State.retense (s : State) (a idx : Nat) : State :=
  let hi := word (s.devLoad (a + 8) 8)
  match s.lawFor a hi, s.media a with
  | some l, some m =>
    if twMalformed hi || s.poisoned m 16 then s
    else (s.touchWord (s.homeUnit a) a l (word (s.tickNow l a)) { op := 3, x := word (0x100 + idx), core := twOwner hi }).1
  | _, _ => s

/-- A crossing of a function's budget word reaches the dispatcher (R382): one of a law with direction down pre-empts the function,
one with direction up restores it. -/
def State.budgetCrossed (s : State) (m : Msg) : State :=
  let vf := m.srcVf.toNat
  let bud := (s.vf vf).bud
  let a := crossingAddr m
  let tense := fld (m.payload.getD 2 0) 8 8
  match s.hub.klawTable.bind fun t => lawAt t tense with
  | none => s
  | some l =>
    if l.down == bit bud 62 then s
    else
      let s := s.modVf vf fun x => { x with bud := withFld x.bud 62 1 l.down.toNat }
      let s := s.retense a (if l.down then fld bud 8 8 else fld bud 0 8)
      if l.down then (s.contextsOf vf).foldl (fun s x => s.preempt x.1 x.2) s
      else ((s.contextsOf vf).foldl (fun s x => s.restoreContext x.1 x.2) s).wakeDispatch vf

/-- CROSSING: the head of a unit's outbound queue leaves (a message of kind 0), a crossing of a budget word reaches the dispatcher, or
a crossing message (kind 0x09) arrives at its owner core (17_tensed.md R309). -/
def execCrossing (m : Msg) (s : State) : Host.Outcome State Fault Refusal :=
  .next (if m.kind = 0 then s.crossingLeaves m.unit else if m.rpay then s.budgetCrossed m else s.channelMsg m)

/-- BUDGET_CROSSING -/
def execBudgetCrossing (m : Msg) (s : State) : Host.Outcome State Fault Refusal := .next (s.budgetCrossed m)

/-- CONTEXT_SAVE -/
def execContextSave (core ctx : Nat) (s : State) : Host.Outcome State Fault Refusal := .next (s.saveContext core ctx)

/-! ### Instructions (R392 to R394) -/

/-- The packet of a `launch`: read by the clause from the near window, else named by its address for the hub to read (R393). -/
def State.packetOf (s : State) (p : Word) : Res (List Word) :=
  (s.access s.cur .read p 8).bind fun t =>
  match t with
  | .near _ =>
    (s.access s.cur .read p 128).bind fun t =>
    match t with
    | .near t => (require (s.nearError t 128).isNone 0x5B p).bind fun _ => .ok (wordsOf 16 (s.nearBytes s.cur t 128))
    | .far _ _ _ _ => .ok []
  | .far _ _ _ _ => (s.access s.cur .read (p + 120) 8).bind fun _ => .ok []

/-- `launch` -/
def execLaunch (k : KOps) (s : State) : Host.Outcome State Fault Refusal :=
  let p := s.sl.xr k.rs1.toNat
  let q := s.sl.xr k.rs2.toNat
  let c := s.queueCfg q.toNat
  .next (s.run { word := wordOf (.launch k), groups := [(k.rd.toNat, 2)], srcs := [x1 k, x2 k], dsts := [toX k 2] }
    ((require (p.toNat % 8 == 0) 0xB8 p).bind fun _ =>
     (require (decide (q.toNat < 1024) && bit c 63 && fld c 56 7 == s.curCtx.vf) 0xB3 q).bind fun _ =>
     (if p = 0 then .ok [] else s.packetOf p).bind fun ws =>
     (stallUnless (s.released s.cur 2)).bind fun _ =>
     let s := if p = 0 then s else (s.touched p).correctedAt p 128
     s.askHub hubLaunch k.rd.toNat p ([q, s.curCtx.kasid, p] ++ ws)))

/-- A hub request of the issuing slot to the hub of the package that issued a launch name. -/
def State.askIssuer (s : State) (i : Instr) (k : KOps) (op right : Nat) : State :=
  let n := s.sl.name k.rs1.toNat
  s.run { word := wordOf i, groups := [(k.rs1.toNat, 2)], srcs := [namePair k], dsts := [toX k] }
    ((s.issuer n).bind fun chip =>
     s.withName n right (some (32 + k.rd.toNat)) fun s _ attr =>
     (require (attrClass attr == 4) 0xB4 (nameLow n)).bind fun _ =>
     s.ordered false fun s =>
     (stallUnless (s.sl.farRoom 1)).bind fun _ =>
     .ok ((s.sendFar s.cur 0x36 hubUnit chip (nameLow n) 0 .blocking 2 [word op, nameLow n, nameHigh n, 0]).block (.hub op k.rd.toNat) 1))

/-- `lstat` -/
def execLstat (k : KOps) (s : State) : Host.Outcome State Fault Refusal := .next (s.askIssuer (.lstat k) k hubLstat 0)

/-- `lkill` -/
def execLkill (k : KOps) (s : State) : Host.Outcome State Fault Refusal := .next (s.askIssuer (.lkill k) k hubLkill 3)

end Sys2Proof.Machine
end

