-- ==== Sys2Proof/Machine/Movement.lean ====
section
/-!
DEFINITION. The life of device pages (12_main_memory.md): moves (R227, R228, R237), heat words (R229), the hot-page tracker (R230,
R231), patrol scrub (R234), and hints and queries at their home (R240, R241).
-/
namespace Sys2Proof.Machine

/-! ### Moves (R227) -/

/-- The homes of a page under a placement. -/
def pageHomes (p : Nat) : List Nat :=
  if p = 8 then [tierUnit] else if p < 4 then List.range 16 else [4 * (p - 4), 4 * (p - 4) + 1, 4 * (p - 4) + 2, 4 * (p - 4) + 3]

/-- PAGE_MOVE: the mover sets MOVING and sends its begin notices. A page that moves already stays as it is. -/
def State.startMove (s : State) (page entry : Nat) (after : Option (Nat × Nat)) (waiter : Option Nat)
    (tracked whole : Bool := false) : State :=
  let e := s.dpit page
  if !dpitValid e || dpitMoving e then s
  else
    let homes := pageHomes (dpitPlacement e)
    let s := (s.setDpit page (withBits e 62 1 1)).modHub fun h =>
      { h with moves := h.moves.set page { entry := withBits entry 62 1 0, homes := homes, after := after, waiter := waiter, tracked := tracked,
                                            whole := whole } }
    homes.foldl (fun s u => s.post (.moveBeginNotice page u)) s

/-- MOVE_BEGIN_NOTICE: a home takes the notice; what it accepted before is complete. With the last one the copy follows. -/
def State.takeNotice (s : State) (page home : Nat) : State :=
  match s.hub.moves.find page with
  | none => s
  | some v =>
    let v := { v with taken := insertNat v.taken home }
    let s := s.modHub fun h => { h with moves := h.moves.set page v }
    if v.homes.all fun u => v.taken.contains u then s.post (.moveCopy page) else s

/-- MOVE_BEGIN_NOTICE -/
def execMoveBeginNotice (page home : Nat) (s : State) : Host.Outcome State Fault Refusal := .next (s.takeNotice page home)

/-- The poison units of n bytes of media written afresh: poisoned where asked. -/
def setPoison (poison : List Nat) (media : Nat) (bad : Bool) : List Nat :=
  let u := poisonUnit media
  if bad then insertNat poison u else poison.filter fun x => x != u

/-- One line copied from old to new media with its poison. An atom that the copy finds it cannot correct becomes poison there (R237). -/
def State.copyLine (s : State) (old new : Nat) : State :=
  let s := (s.detect old 64).overwrite new 64
  let lo := s.poison.contains (poisonUnit old)
  let hi := s.poison.contains (poisonUnit (old + 32))
  let narrow := decide (old < 2 ^ 40) && decide (new < 2 ^ 40)
  let p := setPoison s.poison new (if narrow then lo else lo || hi)
  { s.storeBytes new (s.bytes old 64) with poison := if new < 2 ^ 40 then setPoison p (new + 32) (if narrow then hi else lo || hi) else p }

/-- Page numbers from this one on name blocks of the media reserve at PAGE_MOVE: 16,777,216 · stack and the block above it. The model's
own numbers: log 109. -/
def reservePages : Nat := 2 ^ 28

/-- A block of a stack's reserve moves to a supplied block (R239): its bytes are copied with their poison, and the stack's reserve map of
32 entries names it from then on. -/
def State.moveReserve (s : State) (stack block frame : Nat) : State :=
  let map := (s.stack stack).reserveMap
  if 16 ≤ stack || block < reserveBlock || 2 ^ 24 ≤ block || ((map.find block).isNone && 32 ≤ map.length) then s
  else
    let old := hbmAddr stack (map.get block block * 4096)
    let new := hbmAddr stack (frame * 4096)
    ((List.range 64).foldl (fun s i => s.copyLine (old + 64 * i) (new + 64 * i)) s).modStack stack fun k =>
      { k with reserveMap := k.reserveMap.set block frame }

/-- PAGE_MOVE: of a device page, or of a block of the reserve. -/
def execPageMove (page : Nat) (entry : Word) (s : State) : Host.Outcome State Fault Refusal :=
  .next (if page < reservePages then s.startMove page entry.toNat none none
    else s.moveReserve ((page - reservePages) / 2 ^ 24) ((page - reservePages) % 2 ^ 24) (fld entry 0 28))

/-- The record of poison that a move carries, for the page's owner or the kernel (R237). -/
def State.recordMoved (s : State) (page e a : Nat) : State :=
  let ga := word (s.hub.chipId.toNat * 2 ^ 44 + a)
  let ws := fun (vf : Nat) => memoryRecord 0x0002 vf (homeOf (dpitPlacement e) (page * 65536 + a % 65536)) ga s.ktick 0xFFFFFFFF
  if dpitKernel e then s.kernelRecord (ws 0xFFFF) else s.errorRecord (dpitOwner e) (ws (dpitOwner e))

/-- The lines of a page from line i on, copied. -/
def State.copyPage (s : State) (page old new i : Nat) : Nat → State
  | 0 => s
  | n + 1 =>
    let a := page * 65536 + 64 * i
    let from_ := mediaOfEntry old a
    let to_ := mediaOfEntry new a
    let s := s.copyLine from_ to_
    (if s.poisoned to_ 64 then s.recordMoved page old a else s).copyPage page old new (i + 1) n

/-- A management instruction that waited for a page is over. -/
def State.mgmtDone (s : State) (k : Nat) (status : Word) : State :=
  match (s.slot k).wait with
  | .blocked (.system _ rd) _ _ => s.modSlot k fun sl => (sl.setX rd status).complete
  | _ => s

/-- An entry of a ring of free frames. -/
def State.freeFrame (s : State) (base : Word) (i : Nat) : Word := word (s.devLoad (devOf base + 8 * i) 8)

/-- The first ring entry that passes a test, from entry i on. -/
def State.findFrame (s : State) (base : Word) (p : Word → Bool) (i : Nat) : Nat → Option Nat
  | 0 => none
  | n + 1 => if p (s.freeFrame base i) then some i else s.findFrame base p (i + 1) n

/-- A ring entry written. -/
def State.setFrame (s : State) (base : Word) (i : Nat) (v : Word) : State := s.devWrite (devOf base + 8 * i) (toBytes 8 v.toNat)

/-- A freed frame returns to a ring: to its first entry that is not VALID. DESIGN CHOICE, log 16. -/
def State.returnFrame (s : State) (base : Word) (shape frame : Nat) : State :=
  match s.findFrame base (fun w => !bit w 63) 0 4096 with
  | some i => s.setFrame base i (word (2 ^ 63 + shape * 2 ^ 28 + frame))
  | none => s

/-- An entry with other media: TIER, SHAPE and FRAME. -/
def withMedia (e tier shape frame : Nat) : Nat := withBits (withBits (withBits e 60 1 tier) 52 4 shape) 0 28 frame

/-! ### Heat (R229) -/

/-- The law of heat words under HOTCTL. -/
def heatLaw (ctl : Word) : Law :=
  { kind := 3, base := 0, shift := 10, down := false, action := 0, clamp := false, chan := 0, thr := (fld ctl 48 16 : Int) * 2 ^ 32,
    a := 2 ^ (fld ctl 24 8 % 32), b := 0 }

/-- The tick of heat words. -/
def State.heatTick (s : State) : Word := word (s.ktick.toNat / 1024)

/-- The integer heat of a page, conjugated to the present. -/
def State.heatOf (s : State) (page : Nat) : Nat :=
  let a := s.heatAddr page
  let r := conjugateTo (heatLaw s.hub.tracker.ctl) (word (s.load a 8)) (word (s.load (a + 8) 8)) s.heatTick
  (r.1.toInt / 2 ^ 32).toNat

/-- A page enters the candidate queue of 1,024 pages, or is dropped. -/
def State.candidate (s : State) (page : Nat) : State :=
  if 1024 ≤ s.hub.tracker.queue.length then s
  else s.modHub fun h => { h with tracker := { h.tracker with queue := h.tracker.queue ++ [page] } }

/-- Requests are added to the heat word of a page; an upward crossing of a TIER 1 page makes it a candidate. -/
def State.addHeat (s : State) (page n : Nat) : State :=
  let a := s.heatAddr page
  let l := heatLaw s.hub.tracker.ctl
  let t := s.heatTick
  let (v, hi, c) := conjugateTo l (word (s.load a 8)) (word (s.load (a + 8) 8)) t
  let (v, hi, c) := updateWord l 1 v hi t (word (n * 2 ^ 32)) c
  let s := (s.store a 8 v.toNat).store (a + 8) 8 hi.toNat
  if c.isSome && dpitValid (s.dpit page) && dpitTier (s.dpit page) == 1 then s.candidate page else s

/-- HEAT_WRITEBACK: the entries of a home's buffer are written back. -/
def execHeatWriteback (stack : Nat) (s : State) : Host.Outcome State Fault Refusal :=
  let h := (s.stack stack).heat
  .next (h.foldl (fun s e => s.addHeat e.1 e.2) (s.modStack stack fun k => { k with heat := [] }))

/-! ### The tracker (R230, R231) -/

def hotEnabled (ctl : Word) : Bool := bit ctl 0
def hotPromote (ctl : Word) : Nat := fld ctl 48 16
def hotDemote (ctl : Word) : Nat := fld ctl 32 16
def hotLimit (ctl : Word) : Nat := fld ctl 4 12
def hotPeriod (ctl : Word) : Nat := 2 ^ least 24 (fld ctl 16 8) * 1024

/-- The HBM frame for a page: one of its own placement first. -/
def State.hbmFrame (s : State) (place : Nat) : Option Nat :=
  let b := s.hub.tracker.hbm
  (s.findFrame b (fun w => bit w 63 && fld w 28 4 == place) 0 4096).orElse fun _ => s.findFrame b (fun w => bit w 63) 0 4096

/-- HOTSTAT counts a promotion or a demotion. -/
def State.countMove (s : State) (lo : Nat) : State :=
  s.modHub fun h => { h with tracker := { h.tracker with stat := withFld h.tracker.stat lo 32 (fld h.tracker.stat lo 32 + 1) } }

/-- A page may be a victim of the tracker. -/
def State.isVictim (s : State) (page : Nat) : Bool :=
  let e := s.dpit page
  dpitValid e && dpitTier e == 0 && !dpitPinned e && !dpitMoving e && dpitHint e != 1
    && (decide (s.heatOf page < hotDemote s.hub.tracker.ctl) || dpitHint e == 2)

/-- The scan of the clock hand: the hand it leaves, and the victim. -/
def State.scanVictims (s : State) (hand : Nat) : Nat → Nat × Option Nat
  | 0 => (hand, none)
  | n + 1 =>
    let next := (hand + 1) % 2 ^ 28
    if s.isVictim hand then (next, some hand) else s.scanVictims next n

/-- The tracker's queue without its head. -/
def State.dropHead (s : State) : State := s.modHub fun h => { h with tracker := { h.tracker with queue := h.tracker.queue.drop 1 } }

/-- The period ends, or goes on with the moves it has made. -/
def State.setPeriod (s : State) (p : Option Nat) : State := s.modHub fun h => { h with tracker := { h.tracker with period := p } }

/-- The loop of R231 up to its next move, which it waits for; structural on a bound of its iterations. -/
def State.track (s : State) (moves : Nat) : Nat → State
  | 0 => s.setPeriod none
  | n + 1 =>
    let t := s.hub.tracker
    match t.queue with
    | [] => s.setPeriod none
    | p :: _ =>
      let e := s.dpit p
      if hotLimit t.ctl ≤ moves then s.setPeriod none
      else if dpitTier e = 0 || dpitPinned e || decide (s.heatOf p < hotPromote t.ctl) then s.dropHead.track moves n
      else if dpitMoving e then s.setPeriod (some moves)
      else match s.hbmFrame (dpitPlacement e) with
        | some i =>
          let w := s.freeFrame t.hbm i
          let s := s.setFrame t.hbm i (withFld w 63 1 0)
          (((s.startMove p (withMedia e 0 (fld w 28 4) (fld w 0 28)) none none true).countMove 0).dropHead).setPeriod (some (moves + 1))
        | none =>
          let (hand, v) := s.scanVictims t.hand 4096
          let s := s.modHub fun h => { h with tracker := { h.tracker with hand := hand } }
          match v, s.findFrame t.cxl (fun w => bit w 63) 0 4096 with
          | some v, some i =>
            let w := s.freeFrame t.cxl i
            let f := s.dpit v
            let s := s.setFrame t.cxl i (withFld w 63 1 0)
            let s := s.startMove v (withMedia f 1 0 (fld w 0 28)) (some (p, withMedia e 0 (dpitShape f) (dpitFrame f))) none true
            (((s.countMove 0).countMove 32).dropHead).setPeriod (some (moves + 2))
          | _, _ => s.setPeriod none

/-- A move has ended: the period that waits for it goes on, unless another move of the tracker is still under way. -/
def State.trackOn (s : State) : State :=
  match s.hub.tracker.period with
  | none => s
  | some moves => if s.hub.moves.any fun (e : Nat × Move) => e.2.tracked then s else s.track moves (s.hub.tracker.queue.length + 1)

/-- A period of the tracker is due. -/
def State.armTracker (s : State) : State :=
  if s.timers.any fun t => t.2 == .trackerPeriod then s
  else { s with timers := s.timers ++ [(s.ktick.toNat + hotPeriod s.hub.tracker.ctl, .trackerPeriod)] }

/-- TRACKER_PERIOD -/
def execTrackerPeriod (s : State) : Host.Outcome State Fault Refusal :=
  .next (if !hotEnabled s.hub.tracker.ctl then s
    else if s.hub.tracker.period.isSome then s.armTracker
    else (s.track 0 (s.hub.tracker.queue.length + 1)).armTracker)

/-! ### The end of a move (R227) -/

/-- The entry that a move leaves: the whole new one, or the present one, with a HINT that a home has taken meanwhile, on the new media. -/
def Move.final (v : Move) (now : Nat) : Nat :=
  if v.whole then v.entry else withBits (withMedia now (dpitTier v.entry) (dpitShape v.entry) (dpitFrame v.entry)) 62 1 0

/-- MOVE_COPY: the page is copied, the new entry takes effect at every home, and held requests are performed before any that come
later. -/
def State.finishMove (s : State) (page : Nat) : State :=
  match s.hub.moves.find page with
  | none => s
  | some v =>
    if !(v.homes.all fun u => v.taken.contains u) then s
    else
      let old := s.dpit page
      let s := s.copyPage page old v.entry 0 1024
      let s := s.setDpit page (v.final old)
      let s := if v.tracked && dpitTier old == 1 then s.returnFrame s.hub.tracker.cxl 0 (dpitFrame old) else s
      let s := { s.modHub (fun h => { h with moves := h.moves.del page }) with net := v.held ++ s.net }
      let s := match v.waiter with | some k => s.mgmtDone k 0 | none => s
      match v.after with
      | some (p, e) => s.startMove p (withMedia (s.dpit p) (dpitTier e) (dpitShape e) (dpitFrame e)) none none v.tracked
      | none => s.trackOn

/-- MOVE_COPY -/
def execMoveCopy (page : Nat) (s : State) : Host.Outcome State Fault Refusal := .next (s.finishMove page)

/-! ### Patrol scrub (R234) -/

/-- PATROL_SCRUB -/
def execPatrolScrub (atom errors : Nat) (s : State) : Host.Outcome State Fault Refusal :=
  .next ({ s with weak := s.weak.del (32 * atom) }.scrub atom (errors + s.weak.get (32 * atom) 0))

/-! ### Hints and queries at their home (R240, R241) -/

/-- A hint at its home. -/
def State.hintAtHome (s : State) (m : Msg) : State :=
  s.atHome m fun s =>
    let ga := m.payload.getD 0 0
    let k := fld (m.payload.getD 1 0) 0 2
    match s.findLine m ga false false false with
    | .refused _ rec => s.recordLost m ga rec
    | .at _ e =>
      let p := pageOf (devOf ga)
      let s := (s.heated m.unit (devOf ga)).setDpit p (withBits e 28 2 k)
      if k = 1 && dpitTier e == 1 then s.candidate p else s

/-- HINT_REQUEST (kind 0x3C) -/
def execHintRequest (m : Msg) (s : State) : Host.Outcome State Fault Refusal := .next (s.orPark m fun s => s.hintAtHome m)

/-- The result of a query (R241). -/
def queryWord (e heat page : Nat) : Word :=
  word ((dpitValid e).toNat * 2 ^ 63 + dpitTier e * 2 ^ 62 + (dpitMoving e).toNat * 2 ^ 61 + (dpitPinned e).toNat * 2 ^ 60
    + dpitPlacement e * 2 ^ 56 + dpitShape e * 2 ^ 52 + dpitHint e * 2 ^ 50 + least 65535 heat * 2 ^ 32 + page % 2 ^ 28)

/-- A query at its home, which a move holds as it holds every request but a read (R227). -/
def State.queryAtHome (s : State) (m : Msg) : State :=
  s.atHome m fun s =>
    let ga := m.payload.getD 0 0
    let p := pageOf (devOf ga)
    match s.findLine m ga false true false with
    | .refused st rec => (s.recordLost m ga rec).sendReply m 0x3E [word st, 0]
    | .at _ e =>
      let s := s.heated m.unit (devOf ga)
      s.sendReply m 0x3E [0, 0, queryWord e (s.heatOf p) p, 0]

/-- QUERY_REQUEST (kind 0x3D) -/
def execQueryRequest (m : Msg) (s : State) : Host.Outcome State Fault Refusal := .next (s.orPark m fun s => s.queryAtHome m)

end Sys2Proof.Machine
end

