-- ==== Sys2Proof/Machine/System.lean ====
section
/-!
DEFINITION. Traps, translation, partitions and the kernel's registers (24_system.md): the system instructions (R408 to R414, R425),
the trap ring (R406), translation caches (R411, R412), partition operations (R415 to R418), resets of functions (R426), names and
laws of the kernel (R423, R455), fabric window declarations (R424), and packages that go down and return (R427, 19_names.md R336).
-/
namespace Sys2Proof.Machine

/-! ### `sresume` and `skill` (R409, R410) -/

/-- The slot that a slot word names. -/
def wordSlot (w : Word) : Nat := fld w 0 12 * 4 + fld w 12 2

/-- The issuing slot may act on the slot that a slot word names: with PRIV 01, only on its own context of its own core. -/
def State.mayActOn (s : State) (w : Word) : Bool :=
  fld w 24 8 == 0
    && (s.sl.priv != 1 || (fld w 0 12 == s.curCore && (s.slot (wordSlot w)).clause.ctx == s.sl.clause.ctx))

/-- A slot is frozen by the trap that a slot word reports. -/
def Slot.frozenBy (sl : Slot) (w : Word) : Bool :=
  sl.phase == .frozen && sl.gen % 1024 == fld w 14 10 && sl.trapNo.toNat == fld w 32 32

/-- An address of the code region of a clause, on a word boundary. -/
def Clause.holds (c : Clause) (a : Word) : Bool :=
  a.toNat % 4 == 0 && decide (c.codeBase.toNat ≤ a.toNat) && decide (a.toNat < c.codeBase.toNat + c.codeSize)

/-- `sresume`: an `rs2` field of 0 selects `kepc`. A word at which the slot is resumed where it trapped passes its breakpoints
(25_debug.md R434). -/
def execSresume (k : KOps) (s : State) : Host.Outcome State Fault Refusal :=
  let w := s.sl.xr k.rs1.toNat
  let t := wordSlot w
  let sl := s.slot t
  let a := if k.rs2 = 0 then sl.kepc else s.sl.xr k.rs2.toNat
  .next (s.run { word := wordOf (.sresume k), priv := 1, srcs := [x1 k] ++ (if k.rs2 = 0 then [] else [x2 k]) }
    (if !s.mayActOn w then .ok (s.finishX k.rd.toNat 2)
     else if !sl.frozenBy w then .ok (s.finishX k.rd.toNat 1)
     else if !sl.clause.holds a then .ok (s.finishX k.rd.toNat 3)
     else .ok ((s.setSlot t { sl.resumeAt a with skipBreak := a == sl.kepc }).finishX k.rd.toNat 0)))

/-- `skill` -/
def execSkill (k : KOps) (s : State) : Host.Outcome State Fault Refusal :=
  let w := s.sl.xr k.rs1.toNat
  .next (s.run { word := wordOf (.skill k), priv := 1, srcs := [x1 k] }
    (if !s.mayActOn w then .ok (s.finishX k.rd.toNat 2)
     else if !(s.slot (wordSlot w)).frozenBy w then .ok (s.finishX k.rd.toNat 1)
     else .ok ((s.killSlot (wordSlot w)).finishX k.rd.toNat 0)))

/-- Reports of no slot enter the trap ring while it has room. -/
def State.heldEntries (s : State) : List (List Word) → State
  | [] => s.modHub fun h => { h with heldReports := [] }
  | p :: t => if ringFull s.hub.ktrapHead s.hub.ktrapTail 4096 then s.modHub fun h => { h with heldReports := p :: t } else (s.trapRingWrite p).heldEntries t

/-- TRAP_RING_ENTRY: reports held at the hub, then the one held at a slot, enter the trap ring once it has room; a slot that was not frozen
is then free (R406). -/
def State.ringEntry (s : State) (k : Nat) : State :=
  let s := if s.hub.heldReports.isEmpty then s else s.heldEntries s.hub.heldReports
  match (s.slot k).ringReport with
  | none => s
  | some p =>
    if ringFull s.hub.ktrapHead s.hub.ktrapTail 4096 then s
    else ((s.trapRingWrite p).modSlot k fun sl => { sl with ringReport := none }).wake (coreOf k)

/-- TRAP_RING_ENTRY -/
def execTrapRingEntry (slot : Nat) (s : State) : Host.Outcome State Fault Refusal := .next (s.ringEntry slot)

/-- MACHINE_CHECK_RECORD (R421) -/
def execMachineCheckRecord (r : McRecord) (s : State) : Host.Outcome State Fault Refusal := .next (s.machineCheck r)

/-! ### `sqkill` (R425) -/

/-- The launches of a queue that have not ended. -/
def State.unended (s : State) (q : Nat) : List Nat :=
  (s.hub.launches.filter fun e => decide (e.2.state < 3) && e.2.queue == q).map fun e => e.1

/-- `sqkill`: the slot waits until every launch killed has ended. -/
def execSqkill (k : KOps) (s : State) : Host.Outcome State Fault Refusal :=
  .next (s.run { word := wordOf (.sqkill k), priv := 3, srcs := [x1 k] }
    (let q := s.sl.xr k.rs1.toNat
     let ns := s.unended q.toNat
     if 1024 ≤ q.toNat then .ok (s.finishX k.rd.toNat (-1))
     else if ns.isEmpty then .ok (s.finishX k.rd.toNat 0)
     else
       let s := s.modCur fun sl => { sl with wait := .blocked (.system 2 k.rd.toNat) ns.length [(ns.length, [])] }
       let s := ns.foldl (fun s n => s.modLaunch n fun l => { l with waiting := l.waiting ++ [{ unit := s.cur }] }) s
       .ok (ns.foldl (fun s n => s.killLaunch n) s)))

/-! ### `tlbinv` (R411, R412)

Cores, engines, estimator contexts and the hub keep translations in caches of their own. -/

/-- A control word selects an address-space id. -/
def invAsid (c : Word) (asid : Nat) : Bool := bit c 17 || asid == fld c 0 16

/-- A control word and an address select a virtual page of a size. -/
def invPage (c va : Word) (ps a : Nat) : Bool := bit c 16 || a / 2 ^ pageBits ps == va.toNat / 2 ^ pageBits ps

/-- A translating unit without the translations that an invalidation selects. -/
def Core.dropped (x : Core) (c va : Word) : Core :=
  { x with tlb := x.tlb.filter fun e => !(invAsid c e.1 && (bit c 16 || e.2.2.1 == va.toNat / 2 ^ pageBits e.2.1)),
           regionCache := if bit c 18 then x.regionCache.keep fun i _ => !invAsid c (i / 16) else x.regionCache }

/-- The page size code of a virtual address as a core sees it. -/
def State.sizeAt (s : State) (core asid va : Nat) : Nat :=
  bitsOf (((s.core core).regionCache.find (asid * 16 + bitsOf va 44 4)).getD (word (s.region asid va))).toNat 1 2

/-- An invalidation selects an address as a core sees its page. -/
def State.selects (s : State) (c va : Word) (core asid a : Nat) : Bool := invAsid c asid && invPage c va (s.sizeAt core asid va.toNat) a

/-- A slot without a fetch line that was translated through an entry dropped; one under way from another package is to be asked for
afresh. -/
def State.lineDropped (s : State) (k : Nat) (sl : Slot) (c va : Word) : Slot :=
  let sl := match sl.line with
    | some l => if s.selects c va (coreOf k) l.asid l.va.toNat then { sl with line := none } else sl
    | none => sl
  if sl.fetchFar.isSome && s.selects c va (coreOf k) (s.asid k) sl.lineVa.toNat then { sl with fetchDropped := true } else sl

/-- The drop point of one core. -/
def State.dropAt (s : State) (core : Nat) (c va : Word) : State :=
  { s with cores := s.cores.map (fun (e : Nat × Core) => if e.1 = core then (e.1, e.2.dropped c va) else e),
           slots := s.slots.map fun (e : Nat × Slot) => if coreOf e.1 = core then (e.1, s.lineDropped e.1 e.2 c va) else e }

/-- The drop points of all translating units. -/
def State.dropAll (s : State) (c va : Word) : State :=
  { s with cores := s.cores.map (fun (e : Nat × Core) => (e.1, e.2.dropped c va)),
           slots := s.slots.map fun (e : Nat × Slot) => (e.1, s.lineDropped e.1 e.2 c va) }

/-- TLB_INVALIDATION: the drop point of a unit, for an invalidation whose message holds the address and the control word. -/
def execTlbInvalidation (unit : Nat) (m : Msg) (s : State) : Host.Outcome State Fault Refusal :=
  .next (s.dropAt unit (m.payload.getD 1 0) (m.payload.getD 0 0))

/-- TABLE_WALK: a core's cache takes the leaf and the region entry of an address. -/
def execTableWalk (core asid : Nat) (va : Word) (s : State) : Host.Outcome State Fault Refusal := .next (s.fillTlb core asid va.toNat)

/-- A request whose virtual address the core translated. -/
def Far.translated (f : Far) : Bool := f.kind != 0x36 && f.kind != 0x38 && f.kind != 0x3F

/-- The mark of a request that an invalidation waits for: its slot, generation and sequence number. -/
def farMark (k : Nat) (f : Far) : Word := word (k + f.gen * 2 ^ 16 + f.seq.toNat * 2 ^ 32)

/-- The mark of a row of an engine that is out. -/
def engineMark (e : Nat) : Word := word (2 ^ 31 + e)

/-- The mark of a fetch line on its way from another package. -/
def fetchMark (k : Nat) : Word := word (2 ^ 30 + k)

/-- The requests, fetch lines and engine rows that issued through entries an invalidation drops, as marks. -/
def State.through (s : State) (c va : Word) : List Word :=
  (s.slots.map fun (e : Nat × Slot) =>
    let hit := fun a => s.selects c va (coreOf e.1) (s.asid e.1) a
    (if e.2.fetchFar.isSome && hit e.2.lineVa.toNat then [fetchMark e.1] else [])
      ++ (e.2.far.filter fun f => f.translated && hit f.va.toNat).map fun f => farMark e.1 f).flatten
  ++ (engineNumbers.filter fun e =>
      match (s.engine e).running with | some x => x.left != 0 && invAsid c x.asid | none => false).map engineMark

/-- A marked request, line or row is still out. -/
def State.stillOut (s : State) (w : Word) : Bool :=
  if bit w 31 then (match (s.engine (fld w 0 31)).running with | some x => x.left != 0 | none => false)
  else if bit w 30 then (s.slot (fld w 0 16)).fetchDropped
  else (s.slot (fld w 0 16)).far.any fun f => farMark (fld w 0 16) f == w

/-- `tlbinv`: the drop points come first; the slot stands until every request through an entry dropped is answered. -/
def execTlbinv (k : KOps) (s : State) : Host.Outcome State Fault Refusal :=
  let va := s.sl.xr k.rs1.toNat
  let c := s.sl.xr k.rs2.toNat
  .next (s.run { word := wordOf (.tlbinv k), priv := 3, srcs := [x1 k, x2 k] }
    (if fld c 19 45 != 0 || (!bit c 16 && fld va 48 16 != 0) then .ok (s.finishX k.rd.toNat 1)
     else match s.sl.fetched with
       | [] =>
         let out := s.through c va
         let s := s.dropAll c va
         .ok (if out.isEmpty then s.finishX k.rd.toNat 0 else s.modCur fun sl => { sl with fetched := out })
       | out => (stallUnless (!out.any fun w => s.stillOut w)).bind fun _ => .ok (s.finishX k.rd.toNat 0)))

/-! ### `dpitset` (R414) -/

/-- The frame that a TIER 1 entry of a page may name (12_main_memory.md R218, R225). -/
def cxlFrames : Nat := 2 ^ 28

/-- A new indirection entry that R414 admits for a page: its fields are as R223 and R225 say, VALID or not. -/
def entryOk (page : Word) (e : Nat) : Bool :=
  decide (page.toNat < 268435456) && bitsOf e 30 14 == 0 && !dpitMoving e && dpitHint e != 3
    && placementListed (dpitPlacement e) && ((dpitPlacement e == 8) == decide (16777216 ≤ page.toNat))
    && (if dpitTier e = 0 then
          placementListed (dpitShape e) && dpitShape e != 8 && decide (dpitFrame e < reserveBlock)
            && (decide (dpitShape e < 4) || dpitFrame e % 4 == 0)
        else dpitShape e == 0 && decide (dpitFrame e < cxlFrames))

/-- Two entries name the same media. -/
def sameMedia (a b : Nat) : Bool := dpitTier a == dpitTier b && dpitShape a == dpitShape b && dpitFrame a == dpitFrame b

/-- `dpitset`: a change of media is a move, which the slot waits for; a page that moves is waited for first. -/
def execDpitset (k : KOps) (s : State) : Host.Outcome State Fault Refusal :=
  let p := s.sl.xr k.rs1.toNat
  let e := (s.sl.xr k.rs2.toNat).toNat
  let rd := k.rd.toNat
  .next (s.run { word := wordOf (.dpitset k), priv := 3, srcs := [x1 k, x2 k] }
    (if !entryOk p e then .ok (s.finishX rd 2)
     else
       let old := s.dpit p.toNat
       (stallUnless (!dpitMoving old)).bind fun _ =>
       if dpitValid old && dpitValid e && dpitPlacement old != dpitPlacement e then .ok (s.finishX rd 1)
       else if dpitValid old && dpitValid e && !sameMedia old e then
         .ok ((s.block (.system 4 rd) 1).startMove p.toNat e none (some s.cur))
       else .ok ((s.setDpit p.toNat e).finishX rd 0)))

/-! ### Partition operations (R415 to R418) -/

def cmdNode (c : Word) : Nat := fld c 32 16
def cmdCtx (c : Word) : Nat := fld c 58 2
def cmdVf (c : Word) : Nat := fld c 50 7
def cmdKeep (c : Word) : Nat := fld c 16 16

/-- A node of the tree. -/
def isNode (n : Nat) : Bool := decide (1 ≤ n) && decide (n < 1024)

/-- Two nodes share a cluster. -/
def nodesMeet (a b : Nat) : Bool := nodeHas a (nodeFirst b) || nodeHas b (nodeFirst a)

/-- PSTAT reports a result, and no operation is in progress. -/
def State.pcmdOver (s : State) (result : Nat) : State := s.modHub fun h => { h with pstat := word (result * 2 ^ 60) }

/-- A context of a core that a function is assigned to (R417): what the kernel wrote for it and its records stay. -/
def Ctx.taken (x : Ctx) (vf : Nat) (asid : Nat) (pre : Bool) : Ctx :=
  { assigned := true, vf := vf, kasid := word asid, preempted := pre, recs := x.recs, recBase := x.recBase, famBase := x.famBase,
    regBase := x.regBase, saveBase := x.saveBase, ctxErr := x.ctxErr }

/-- A context that is unassigned. -/
def Ctx.unassigned (x : Ctx) : Ctx :=
  { recs := x.recs, recBase := x.recBase, famBase := x.famBase, regBase := x.regBase, saveBase := x.saveBase, ctxErr := x.ctxErr }

/-- ASSIGN: its result, and the state it leaves. The order among the results is the model's: DESIGN CHOICE, log 128. -/
def State.assign (s : State) (cmd : Word) : State :=
  let n := cmdNode cmd
  let c := cmdCtx cmd
  let v := cmdVf cmd
  let cores := s.nodeCores n
  let p := s.hub.parts.get n {}
  if !isNode n then s.pcmdOver 2
  else if cores.isEmpty then s.pcmdOver 4
  else if (s.hub.parts.any fun e => e.1 != n && nodesMeet e.1 n) || (p.ctxs.find c).isSome || (p.ctxs.any fun e => e.2 == v)
      || (cores.any fun k => (s.ctx k c).saveBase == 0) then s.pcmdOver 3
  else
    let x := s.vf v
    let s := cores.foldl (fun s k => s.modCtx k c fun y => y.taken v (fld x.ctl 0 16) (bit x.bud 62)) s
    let s := (s.nodeClusters n).foldl (fun s cl => s.modCluster cl fun k => { k with owner := [] }) s
    let s := s.modHub fun h =>
      { h with parts := h.parts.set n { ctxs := p.ctxs.set c v }, proxies := h.proxies.keep fun k _ => !nodeHas n (clusterOf k) }
    (s.pcmdOver 0).post (.dispatchDecision n v)

/-- RELEASE. A partition whose last context is released is no partition. -/
def State.releaseCtx (s : State) (cmd : Word) : State :=
  let n := cmdNode cmd
  let c := cmdCtx cmd
  match s.hub.parts.find n with
  | none => s.pcmdOver 2
  | some p =>
    if (p.ctxs.find c).isNone then s.pcmdOver 3
    else if (s.activeIn n c).isSome then s.pcmdOver 1
    else
      let s := (s.nodeCores n).foldl (fun s k => s.modCtx k c Ctx.unassigned) s
      let ctxs := p.ctxs.del c
      (s.modHub fun h => { h with parts := if ctxs.isEmpty then h.parts.del n else h.parts.set n { ctxs := ctxs } }).pcmdOver 0

/-- A core with every B latch EMPTY: its partition is resized (10_matrix.md R178). -/
def Core.noLatches (k : Core) : Core := { k with ctxs := k.ctxs.map fun (e : Nat × Ctx) => (e.1, { e.2 with bl := [] }) }

/-- MERGE -/
def State.merge (s : State) (cmd : Word) : State :=
  let n := cmdNode cmd
  match s.hub.parts.find (2 * n), s.hub.parts.find (2 * n + 1) with
  | some a, some b =>
    if !isNode n || a.ctxs != b.ctxs then s.pcmdOver 2
    else if a.ctxs.any fun e => (s.activeIn (2 * n) e.1).isSome || (s.activeIn (2 * n + 1) e.1).isSome then s.pcmdOver 1
    else
      let s := (s.nodeCores n).foldl (fun s k => s.modCore k Core.noLatches) s
      (s.modHub fun h => { h with parts := ((h.parts.del (2 * n)).del (2 * n + 1)).set n a }).pcmdOver 0
  | _, _ => s.pcmdOver 2

/-- One node lies below another. -/
def isBelow (keep n : Nat) : Bool := isNode keep && n != keep && decide (nodeSize keep < nodeSize n) && nodeHas n (nodeFirst keep)

/-- The cores that a SHRINK removes. -/
def State.removed (s : State) (cmd : Word) : List Nat :=
  (s.nodeCores (cmdNode cmd)).filter fun k => !nodeHas (cmdKeep cmd) (clusterOf k)

/-- The proxy of a removed core. -/
def State.proxyOf (s : State) (cmd : Word) (core : Nat) : Nat :=
  s.coreAt (cmdKeep cmd) (s.logicalOf (cmdNode cmd) core % s.logicalCount (cmdKeep cmd))

/-- The slots of a core. -/
def coreSlots (core : Nat) : List Nat := [core * 4, core * 4 + 1, core * 4 + 2, core * 4 + 3]

/-- A record of a removed core: a HOMED or PINNED clause resumes by hash from now on, RESIZED (step 4). -/
def Rec.resized (r : Rec) : Rec :=
  if r.state = .free || r.ended || !(r.clause.homed || bitOf r.status 1) then r
  else { r with clause := { r.clause with homed := false }, status := withBits (withBits r.status 1 1 0) 2 1 1 }

/-- A handler message stands behind those of a context, whose bits stay as they are. -/
def Ctx.behind (x : Ctx) (m : Msg) : Ctx :=
  let m := { m with order := x.arrivals }
  let x := { x with arrivals := x.arrivals + 1 }
  if x.saved then { x with savedMsgs := x.savedMsgs ++ [m] } else x.takeBack m

/-- The pending bits of a removed core's channels join those of its proxy, and with them messages that wait in the network. -/
def Ctx.joined (y x : Ctx) : Ctx :=
  let y := { y with
    held := y.held ++ x.held.zipIdx.map (fun m => { m.1 with order := y.arrivals + m.2 }), arrivals := y.arrivals + x.held.length,
    chans := x.chans.foldl (fun t (e : Nat × Chan) =>
      if e.2.pending then t.set e.1 { t.get e.1 {} with pending := true, seenPending := (t.get e.1 {}).seenPending || e.2.seenPending } else t) y.chans }
  if y.saved then y else y.withBare

/-- Step 3: what a context of a removed core holds goes to its proxy, behind the proxy's own, in the order of arrival. Resumes kept at its
records go on, unless the proxy's context is saved. -/
def State.moveContext (s : State) (core c proxy : Nat) : State :=
  let s := (s.ctx core c).recs.foldl (fun s (e : Nat × Rec) =>
    if e.2.resized = e.2 then s else (s.setRecord core c e.1 e.2.resized).putRecord core c e.1) s
  let x := s.ctx core c
  let s := s.setCtx core c x.unassigned
  if !x.assigned then s
  else
    let s := s.modCtx proxy c fun y => ((x.waiting ++ x.savedMsgs).foldl Ctx.behind y).joined x
    let s := (x.pool.filter PoolItem.isClause ++ x.savedPool).foldl (fun s p => s.poolAdd proxy c p) s
    let s := if (s.ctx proxy c).saved then s.writeSaved proxy c else s.takeUp core c
    (s.takeIn proxy c (s.ctx proxy c).held.length).wake proxy

/-- The cells of n lost accumulator cells from a key. -/
def lostCells (draw : Nat) : Nat → Nat → Tab (BitVec 32)
  | _, 0 => []
  | k, n + 1 => if Config.lost draw k = 0 then lostCells draw (k + 1) n else (k, Config.lost draw k) :: lostCells draw (k + 1) n

/-- A removed core: its contexts move, its claims and group memberships end, and its tiles and operand store are lost (steps 3, 5 and 6):
they hold free values from now on. -/
def State.removeCore (s : State) (core proxy : Nat) : State :=
  let s := [0, 1, 2, 3].foldl (fun s c => s.moveContext core c proxy) s
  let draw := s.draws
  ({ s with draws := draw + 1 }.modCore core fun k =>
    { k with acc := lostCells draw 0 16384, claim := [], kgeo := [], geo := [], ranks := [] }).loseBytes (operandAddr core 0) operandSize

/-- A removed cluster: its engine's commands stop, and its scratchpad, streams and name cache are lost (step 6). A shoot-down that waits for
an entry of its cache is acknowledged. -/
def State.removeCluster (s : State) (cl : Nat) : State :=
  let x := s.engine cl
  let s := x.queue.foldl (fun s c => s.dropQueued cl c stStopped) s
  let s := match x.running with | some c => s.askStop cl c 1 | none => s
  let dead := (s.cluster cl).names.filter fun e => e.dead
  let s := (s.modCluster cl fun c => { c with owner := [], streams := [], names := [] }).loseBytes (padAddr cl 0) padSize
  dead.foldl (fun s e => s.ackShootDown (s.nameUnit e.name) cl e.op e.name) s

/-- Memberships of groups without a member on a removed core (step 5). -/
def Core.keepGroups (k : Core) (gone : List Nat) : Core :=
  let bad := fun i => (k.ranks.get i []).any fun c => gone.contains c
  { k.noLatches with kgeo := k.kgeo.keep (fun i _ => !bad i), geo := k.geo.keep (fun i _ => !bad i), ranks := k.ranks.keep fun i _ => !bad i }

/-- A SHRINK that cannot be carried out: its result. -/
def State.shrinkRefused (s : State) (cmd : Word) : Option Nat :=
  if (s.hub.parts.find (cmdNode cmd)).isNone || !isBelow (cmdKeep cmd) (cmdNode cmd) then some 2
  else if (s.nodeClusters (cmdKeep cmd)).isEmpty then some 4
  else none

/-- Steps 3 to 7 of R418. -/
def State.shrunk (s : State) (cmd : Word) : State :=
  let n := cmdNode cmd
  let keep := cmdKeep cmd
  let gone := s.removed cmd
  let dest := gone.map fun k => (k, s.proxyOf cmd k)
  let p := s.hub.parts.get n {}
  let cls := (s.nodeClusters n).filter fun c => !nodeHas keep c
  let via := fun (k : Nat) => ((dest.find? fun e => e.1 == k).map fun e => e.2).getD k
  let s := s.modHub fun h =>
    { h with parts := (h.parts.del n).set keep p, proxies := dest.foldl (fun t (e : Nat × Nat) => t.set e.1 e.2) (h.proxies.map fun e => (e.1, via e.2)),
             launches := h.launches.map fun (e : Nat × Launch) => if e.2.node = n then (e.1, { e.2 with node := keep }) else e }
  let s := dest.foldl (fun s e => s.removeCore e.1 e.2) s
  let s := (s.nodeCores keep).foldl (fun s k => s.modCore k fun x => x.keepGroups gone) s
  let s := cls.foldl (fun s c => s.removeCluster c) s
  p.ctxs.foldl (fun s e => s.post (.dispatchDecision keep e.2)) (s.pcmdOver 0)

/-! ### Resets of functions (R426) -/

/-- The launches of the queues bound to a function that have not ended. -/
def State.unendedOf (s : State) (vf : Nat) : List Nat :=
  (s.hub.launches.filter fun e => decide (e.2.state < 3) && fld (s.queueCfg e.2.queue) 56 7 == vf).map fun e => e.1

/-- A function of this chip has contributed to a window, of this chip or of another. -/
def State.contributed (s : State) (vf : Nat) (w : Window) : Bool :=
  w.asked.any fun (chip, _, _, l) => chip == s.hub.chipId && (s.launch l).vf == vf

/-- This chip is withdrawn as a contributor to a window (15_sync.md R276): a window that another chip homes keeps the mark. -/
def State.withdrawOwn (s : State) (w : Window) : State :=
  if w.home = s.hub.chipId then s.withdraw w.id s.hub.chipId
  else s.modHub fun h => { h with windows := h.windows.map fun x =>
    if x.home = w.home && x.id == w.id then { x with gone := x.gone ++ [h.chipId.toNat] } else x }

/-- Step 3 of a reset, and the drop points of step 4: what the invalidation waits for is kept. -/
def State.vfDropped (s : State) (v : Nat) : State :=
  let s := (s.hub.windows.filter fun w => s.contributed v w).foldl State.withdrawOwn s
  let c := word (fld (s.vf v).ctl 0 16 + 2 ^ 16 + 2 ^ 18)
  let out := s.through c 0
  (s.dropAll c 0).modHub fun h => { h with opWait := some out }

/-- The end of step 4, and steps 5 and 6 of a reset. -/
def State.vfCleared (s : State) (v : Nat) : State :=
  (s.modHub fun h => { h with opWait := none }).modVf v fun x =>
    { x with law := none, lawAt := [], eqHead := 0, eqTail := 0, cqHead := 0, cqTail := 0, cnt := 0, resetting := false, ctl := withFld x.ctl 62 1 0 }

/-! ### The order of operations (R416, R426) -/

/-- An operation begins: all but a SHRINK and a reset are over at once. -/
def State.beginOp (s : State) (o : HubOp) : State :=
  match o with
  | .part 1 c => s.assign c
  | .part 2 c => s.releaseCtx c
  | .part 3 c => s.merge c
  | .part 4 c => match s.shrinkRefused c with | some r => s.pcmdOver r | none => s
  | .part _ _ => s.pcmdOver 0
  | .reset v => (s.unendedOf v).foldl (fun s n => s.killLaunch n) (s.modVf v fun x => { x with resetting := true })

/-- Frozen clauses of removed cores are killed once no other slot of a removed core is bound (step 2 of R418). -/
def State.killFrozen (s : State) (cmd : Word) : State :=
  let ks := ((s.removed cmd).map Machine.coreSlots).flatten
  if ks.all fun k => (s.slot k).phase == .free || (s.slot k).phase == .frozen then
    (ks.filter fun k => (s.slot k).phase == .frozen).foldl (fun s k => s.killSlot k) s
  else s

/-- An operation that has begun goes on: the state, and whether it is over. -/
def State.advanceOp (s : State) (o : HubOp) : State × Bool :=
  match o with
  | .part 4 c =>
    if !bit s.hub.pstat 63 then (s, true)
    else
      let s := s.killFrozen c
      if ((s.removed c).map Machine.coreSlots).flatten.all fun k => (s.slot k).phase == .free then (s.shrunk c, true) else (s, false)
  | .part _ _ => (s, true)
  | .reset v =>
    if !(s.unendedOf v).isEmpty then (s, false)
    else
      let s := if s.hub.opWait.isSome then s else s.vfDropped v
      if (s.hub.opWait.getD []).any fun w => s.stillOut w then (s, false) else (s.vfCleared v, true)

/-- The operations go as far as they can. Structural on a number that their count bounds. -/
def State.runOps (s : State) : Nat → State
  | 0 => s
  | n + 1 =>
    match s.hub.ops with
    | [] => s
    | o :: rest =>
      let s := if s.hub.begun then s else (s.modHub fun h => { h with begun := true }).beginOp o
      let r := s.advanceOp o
      if r.2 then (r.1.modHub fun h => { h with ops := rest, begun := false }).runOps n else r.1

/-- An operation is written: it waits for those before it. -/
def State.hubOpWritten (s : State) (o : HubOp) : State :=
  let s := s.modHub fun h => { h with ops := h.ops ++ [o] }
  s.runOps s.hub.ops.length

/-- A write of PCMD; one while BUSY is set is ignored. -/
def State.pcmdWrite (s : State) (op : Nat) (cmd : Word) : State :=
  if bit s.hub.pstat 63 then s
  else
    let c := withFld (withFld (withFld (withFld cmd 60 4 op) 57 1 0) 48 2 0) 0 16 0
    (s.modHub fun h => { h with pcmd := c, pstat := word (2 ^ 63) }).hubOpWritten (.part op c)

/-- PCMD_ASSIGN -/
def execPcmdAssign (cmd : Word) (s : State) : Host.Outcome State Fault Refusal := .next (s.pcmdWrite 1 cmd)
/-- PCMD_RELEASE -/
def execPcmdRelease (cmd : Word) (s : State) : Host.Outcome State Fault Refusal := .next (s.pcmdWrite 2 cmd)
/-- PCMD_MERGE -/
def execPcmdMerge (cmd : Word) (s : State) : Host.Outcome State Fault Refusal := .next (s.pcmdWrite 3 cmd)
/-- PCMD_SHRINK -/
def execPcmdShrink (cmd : Word) (s : State) : Host.Outcome State Fault Refusal := .next (s.pcmdWrite 4 cmd)

/-- RESET of a function is written 1; one that is being reset already stays so. -/
def State.vfReset (s : State) (v : Nat) : State :=
  if bit (s.vf v).ctl 62 then s else (s.modVf v fun x => { x with ctl := withFld x.ctl 62 1 1 }).hubOpWritten (.reset v)

/-- VF_RESET -/
def execVfReset (vf : Nat) (s : State) : Host.Outcome State Fault Refusal := .next (s.vfReset vf)

/-! ### Names and laws of the kernel (R423, R455) -/

/-- The first valid write of NAMETAB is taken. -/
def State.nametabWrite (s : State) (v : Word) : State :=
  let l := fld v 0 5
  if s.nameTable.isSome || l < 16 || 26 < l || fld v 44 20 != 0 || fld v 5 7 != 0 || (fld v 12 32 * 4096) % 2 ^ (l + 7) != 0 then s
  else s.modHub fun h => { h with nametab := v }

/-- NAMETAB_WRITE -/
def execNametabWrite (v : Word) (s : State) : Host.Outcome State Fault Refusal := .next (s.nametabWrite v)

/-- A write of SMAPN: the map is checked and goes live, or is refused. One of another package is read first, and until then the map in
force stays. -/
def State.smapnWrite (s : State) (v : Word) : State :=
  let n := fld v 0 20
  let map := s.hub.smap
  let s := s.modHub fun h => { h with reads := h.reads.filter fun r => r.what != .map }
  if 786432 < n then s.modHub fun h => { h with smapn := 0, smapLive := map }
  else if chipOf map = s.hub.chipId then s.mapRead map n (fun i => s.devLoad (devOf map + 16 * i) 6) []
  else s.readTable { what := .map, addr := map, count := n }

/-- SMAPN_WRITE -/
def execSmapnWrite (v : Word) (s : State) : Host.Outcome State Fault Refusal := .next (s.smapnWrite v)

/-- A write of KLAW: the kernel's law table is read, at once or line by line from another package, and installed at every law unit, or it is
uninstalled. -/
def State.klawWrite (s : State) (v : Word) : State :=
  let v := withFld v 1 4 0
  let ga := withFld v 0 1 0
  let s := s.modHub fun h => { h with klaw := v, reads := h.reads.filter fun r => r.what != .law }
  if !bit v 0 then s.klawRead none
  else if chipOf ga = s.hub.chipId then s.klawRead (some (wordsOf 1024 (s.devBytes (devOf ga) 8192)))
  else s.readTable { what := .law, addr := ga, count := 1024 }

/-- KLAW_WRITE -/
def execKlawWrite (v : Word) (s : State) : Host.Outcome State Fault Refusal := .next (s.klawWrite v)

/-- NAMESTAT reports a result. -/
def State.nameResult (s : State) (r : Nat) : State := s.modHub fun h => { h with namestat := word (r * 2 ^ 55) }

/-- The name-operation block. -/
def State.nameBlock (s : State) : List Byte := s.devBytes (devOf s.hub.nameblk) 64

/-- The reserved bytes of a name-operation block are 0. -/
def blockOk (b : List Byte) : Bool := dsc b 42 22 == 0 && dsc b 41 1 / 64 == 0

/-- The page bits of a name-operation block as an attribute word has them. -/
def blockPage (b : List Byte) : Nat :=
  let v := dsc b 41 1
  v % 16 * 2 ^ 24 + bitsOf v 5 1 * 2 ^ 28 + bitsOf v 4 1 * 2 ^ 29

/-- A write of NAMECMD with an operation code; one while BUSY is set is ignored. -/
def State.nameStart (s : State) (op : Nat) (f : State → State) : State :=
  if bit s.hub.namestat 63 then s else f (s.modHub fun h => { h with namecmd := word (op * 2 ^ 60) })

/-- NAMECMD_NEW: the hub takes the next value of the package counter and inserts the entry. The KERNEL bit of the block has no place in
the attribute word (19_names.md R328). -/
def State.nameNew (s : State) : State :=
  s.nameStart 1 fun s =>
  let b := s.nameBlock
  let c := word (dsc b 32 8)
  let binding := word (dsc b 16 8)
  if !blockOk b || !creationOk c || binding.toNat % 64 != 0 then s.nameResult 15
  else if s.nameTable.isNone then s.nameResult 11
  else match s.hubName with
    | none => s.reserveNames.nameResult 12
    | some (s, n) =>
      match s.insertName n binding (newAttr c (blockPage b) (dsc b 40 1 % 128)) with
      | none => s.nameResult 11
      | some s => (s.devStore (devOf s.hub.nameblk) (toBytes 16 n.toNat)).nameResult 0

/-- NAMECMD_NEW -/
def execNamecmdNew (s : State) : Host.Outcome State Fault Refusal := .next s.nameNew

/-- A rebind or kill by the hub goes to the name's home, with every right. -/
def State.nameChange (s : State) (op : Nat) : State :=
  s.nameStart (if op = opCas then 2 else 3) fun s =>
  let b := s.nameBlock
  let n : BitVec 128 := BitVec.ofNat 128 (dsc b 0 16)
  let args := if op = opCas then [word (dsc b 24 8), word (dsc b 16 8), word (blockPage b), -1, 2, 0] else [0, 0, 0, 0, 2, 0]
  if !blockOk b || (op == opCas && dsc b 16 8 % 64 != 0) then s.nameResult 15
  else match s.chipOfSerial (nameSerial n) with
    | none => s.nameResult 9
    | some chip =>
      (s.modHub fun h => { h with namestat := word (2 ^ 63) }).route
        { dstChip := chip, srcChip := s.hub.chipId, kind := 0x38, units := 5, unit := s.nameUnit n, stamp := s.stamp, tag := hubTag,
          payload := namePayload op 0 0 n args }

/-- NAMECMD_CAS -/
def execNamecmdCas (s : State) : Host.Outcome State Fault Refusal := .next (s.nameChange opCas)
/-- NAMECMD_KILL -/
def execNamecmdKill (s : State) : Host.Outcome State Fault Refusal := .next (s.nameChange opKill)

/-! ### Fabric window declarations (R424)

The declaration is in force at the contributors and switches that can be reached: their answers are not part of this package. -/

/-- A window that this chip homes. -/
def State.homedWindow (s : State) (id : Nat) : Option Window := s.hub.windows.find? fun w => w.home == s.hub.chipId && w.id == id

/-- A declaration is carried out, once its list of contributors is at hand, or its result is reported. -/
def State.declare (s : State) (id : Nat) (fresh : Bool) : State :=
  match s.windowBlock id with
  | none => s.winResult 2
  | some (w, list, c) =>
    if chipOf list = s.hub.chipId then s.declareAs { w with members := s.membersAt list c } fresh
    else (s.modHub fun h => { h with winstat := word (2 ^ 63) }).readTable { what := .members w fresh, addr := list, count := c }

/-- A write of WINCMD with an operation code and a window; one while BUSY is set is ignored. -/
def State.winStart (s : State) (op window : Nat) (f : State → State) : State :=
  if bit s.hub.winstat 63 then s else f (s.modHub fun h => { h with wincmd := word (op * 2 ^ 60 + window % 64 * 2 ^ 54) })

/-- DECLARE -/
def State.windowDeclare (s : State) (window : Nat) : State :=
  s.winStart 1 window fun s => if (s.homedWindow window).isSome then s.winResult 1 else s.declare window true

/-- WINCMD_DECLARE -/
def execWincmdDeclare (window : Nat) (s : State) : Host.Outcome State Fault Refusal := .next (s.windowDeclare window)

/-- A redeclaration that waits is carried out once no round of its window is open. -/
def State.redeclareReady (s : State) : State :=
  match s.hub.windows.find? fun w => w.redeclare && w.rounds.isEmpty with
  | none => s
  | some w => (s.modWindow w.id fun w => { w with redeclare := false }).declare w.id false

/-- REDECLARE -/
def State.windowRedeclare (s : State) (window : Nat) : State :=
  s.winStart 2 window fun s =>
  if (s.homedWindow window).isNone then s.winResult 1
  else ((s.modWindow window fun w => { w with redeclare := true }).modHub fun h => { h with winstat := word (2 ^ 63) }).redeclareReady

/-- WINCMD_REDECLARE -/
def execWincmdRedeclare (window : Nat) (s : State) : Host.Outcome State Fault Refusal := .next (s.windowRedeclare window)

/-- All rounds of a window end, those that held contributions open too. Structural on a bound of their number. -/
def State.endAllRounds (s : State) (id : Nat) : Nat → State
  | 0 => s
  | n + 1 =>
    match s.homedWindow id with
    | none => s
    | some w => if w.rounds.isEmpty then s else (s.endRounds id w.code w.rounds).endAllRounds id n

/-- REMOVE -/
def State.windowRemove (s : State) (window : Nat) : State :=
  s.winStart 3 window fun s =>
  match s.homedWindow window with
    | none => s.winResult 1
    | some w => ((s.endAllRounds window ((w.rounds.map fun r => r.held.length + 1).foldl (· + ·) 1)).dropWindow window).winResult 0

/-- WINCMD_REMOVE -/
def execWincmdRemove (window : Nat) (s : State) : Host.Outcome State Fault Refusal := .next (s.windowRemove window)

/-! ### Packages that go down and return (R427, 19_names.md R336) -/

/-- The peer-down notice for a context (kind 0x0E). -/
def State.downNotice (s : State) (chip : BitVec 20) (reason core c : Nat) : State :=
  s.sendDevice { dstChip := s.hub.chipId, dstCore := BitVec.ofNat 12 core, chan := 253, kind := 0x0E, units := 1,
                 srcVf := BitVec.ofNat 7 (s.ctx core c).vf, key := deviceKey 0x02 s.hub.chipId.toNat, ctx := BitVec.ofNat 2 c,
                 launch := (s.ctx core c).launch, payload := [word chip.toNat, word reason] }

/-- A translation that leads to a chip. -/
def State.leadsTo (s : State) (chip : BitVec 20) (e : Word) : Bool :=
  (if bit e 6 then s.hub.chipId.toNat else fld e 44 20) == chip.toNat

/-- The request of a slot that is out, as the network lost it. -/
def State.lostRequest (s : State) (k : Nat) (f : Far) : Msg :=
  { dstChip := f.chip, kind := BitVec.ofNat 8 f.kind, unit := f.unit,
    tag := if Config.firstMgmtCore ≤ coreOf k then mgmtTag f.gen k else regTag f.gen false 0 (k % 4) (coreOf k), srcChip := s.hub.chipId,
    seq := f.seq, payload := [f.ga, 0, 0, 0] }

/-- A request of a slot to a chip that is down completes with status 3. -/
def State.loseFar (s : State) (chip : BitVec 20) (k : Nat) : List Msg :=
  ((s.slot k).far.filter fun f => f.chip == chip).filterMap fun f => peerDownReply (s.lostRequest k f)

/-- A line that a slot's fetch reads from a chip that is down comes back with status 3. -/
def State.loseFetch (s : State) (chip : BitVec 20) (k : Nat) : List Msg :=
  let sl := s.slot k
  if sl.fetchFar = some chip then
    [{ dstChip := s.hub.chipId, dstCore := BitVec.ofNat 12 (coreOf k), kind := 0x28, tag := fetchTag k, srcChip := chip,
       payload := [3, 0], window := sl.lineVa.toNat + s.asid k * 2 ^ 64 }]
  else []

/-- The destination chip of a descriptor. -/
def descChip (own : BitVec 20) (d : Word) : BitVec 20 := if descLogical d || descSelf d then own else BitVec.ofNat 20 (fld d 12 20)

/-- A `sendr` of a slot is still on its way: its message waits in the core's queue or for the fabric. -/
def State.askWaits (s : State) (k : Nat) (a : Ask) : Bool :=
  let t := regTag a.gen a.vec a.reg (k % 4) (coreOf k)
  ((s.core (coreOf k)).outq.any fun o => o.msg.tag == t) || s.fabricOut.any fun m => m.kind == 0 && m.tag == t

/-- Replies that `sendr` words of a slot to a chip never get: the peer-down marker fills their groups. -/
def State.loseAsks (s : State) (chip : BitVec 20) (k : Nat) : List Msg :=
  ((s.slot k).asks.filter fun a => descChip s.hub.chipId a.desc == chip && !s.askWaits k a).map fun a =>
    { dstChip := s.hub.chipId, dstCore := BitVec.ofNat 12 (coreOf k), kind := 0x01, tag := regTag a.gen a.vec a.reg (k % 4) (coreOf k),
      srcChip := chip, rstat := 3 }

/-- The chip that a suspended wait waits at. -/
def SuspKind.chip : SuspKind → Option (BitVec 20)
  | .waitv _ _ _ _ _ chip _ => some chip
  | .barrier _ _ _ _ _ chip _ => some chip
  | _ => none

/-- Resumes of status 3 for the records of a context: of waits at a chip (11_memory_access.md R214), and of record replies that it
owes, which stay owed (06_messages.md R111). -/
def State.loseRecords (s : State) (chip : BitVec 20) (core c : Nat) : List Msg :=
  ((s.ctx core c).recs.map fun (e : Nat × Rec) =>
    let m : Msg := { dstChip := s.hub.chipId, dstCore := BitVec.ofNat 12 core, kind := 0x02, tag := recTag e.1 core, ctx := BitVec.ofNat 2 c,
                     launch := e.2.clause.launch, rstat := 3, srcChip := chip }
    (if e.2.state = .suspended && e.2.susp.chip == some chip then [{ m with unit := homeResume, payload := [0, 3], units := 1 }] else [])
      ++ ((e.2.owedBy.filter fun x => x == chip).map fun _ => m)).flatten

/-- A record of which a chip no longer owes a reply that could come. -/
def Rec.unowed (r : Rec) (chip : BitVec 20) : Rec := { r with owedBy := r.owedBy.filter fun x => x != chip }

/-- A home discards the barrier waiters of clauses of a chip, and the object counts them no more (15_sync.md R288). -/
def State.loseWaiters (s : State) (chip : BitVec 20) (unit : Nat) : State :=
  let gone := (s.stack unit).waiters.filter fun m => m.srcChip == chip
  let s := s.modStack unit fun k => { k with waiters := k.waiters.filter fun m => m.srcChip != chip }
  gone.foldl (fun s m =>
    match s.findLine m (watchWord m) true true true with
    | .refused _ _ => s
    | .at a _ => s.store (a + 20) 4 (s.load (a + 20) 4 - 1)) s

/-- A cluster drops the names bound on a chip, and acknowledges any shoot-down that waits for them. -/
def State.loseNames (s : State) (chip : BitVec 20) (cl : Nat) : State :=
  let gone := (s.cluster cl).names.filter fun e => chipOf e.binding == chip
  let s := s.modCluster cl fun c => { c with names := c.names.filter fun e => chipOf e.binding != chip }
  (gone.filter fun e => e.dead).foldl (fun s e => s.ackShootDown (s.nameUnit e.name) cl e.op e.name) s

/-- Resolutions of a cluster that go to a chip fail. -/
def State.loseResolves (s : State) (chip : BitVec 20) (cl : Nat) : List Msg :=
  ((s.cluster cl).resolving.filter fun r => s.chipOfSerial (nameSerial r.1) == some chip).map fun r =>
    let t := BitVec.ofNat 32 r.2
    { dstChip := s.hub.chipId, dstCore := t.setWidth 12, kind := 0x39, tag := t, srcChip := chip, payload := [3, 0, 0, 0, 0, 0] }

/-- A name unit counts no forwarded access of a requester on a chip, and answers those that it forwarded there. -/
def State.loseForwarded (s : State) (chip : BitVec 20) (unit : Nat) : State :=
  let all := (s.stack unit).forwarded
  let boundThere := fun (n : BitVec 128) => match s.lookup n with | .inr a => chipOf (s.entryBinding a) == chip | .inl _ => false
  let s := s.modStack unit fun k => { k with forwarded := k.forwarded.filter fun f => f.2.srcChip != chip }
  let s := (all.filter fun f => f.2.srcChip != chip && boundThere f.1).foldl (fun s f => s.relay unit f.2 3 0) s
  all.foldl (fun s f => s.post (.nameOperationCommit unit f.1)) s

/-- The requests of an engine's row that are out at a chip are answered with status 3. -/
def State.loseRows (s : State) (chip : BitVec 20) (e : Nat) : List Msg :=
  match (s.engine e).running with
  | none => []
  | some c => (c.due.filter fun d => d.2 == chip).map fun d =>
    { dstChip := s.hub.chipId, kind := if c.awaits.isSome then 0x33 else if c.writing then 0x29 else 0x28, tag := engineTag e c.core, seq := d.1,
      srcChip := chip, payload := [3, 0] }

/-- What the hub and the estimators wait for at a chip comes to an end. -/
def State.loseHub (s : State) (chip : BitVec 20) : State :=
  let there := fun (ga : Nat) => decide (ga < 2 ^ 64) && chipOf (word ga) == chip
  let gas := (s.hub.enqueues.map fun x => x.awaits) ++ s.hub.launches.filterMap fun e => e.2.awaits
  let s := (gas.filter there).foldl (fun s ga => s.hubLineCame ga 3 []) s
  let rs := s.hub.reads.filter fun r => chipOf r.addr == chip
  let s := rs.foldl (fun s r => s.tableFailed r) (s.modHub fun h => { h with reads := h.reads.filter fun r => chipOf r.addr != chip })
  let s := (s.hub.ests.filter fun e => e.2.writing && chipOf e.2.record == chip).foldl (fun s e =>
    (s.modEst e.1 fun x => { x with writing := false }).post (.launchCompletion e.2.launch)) s
  if bit s.hub.namestat 63 && s.chipOfSerial (nameSerial (BitVec.ofNat 128 (dsc s.nameBlock 0 16))) == some chip then s.nameResult 3 else s

/-- The contexts that a chip's going down affects: of clusters that lost a name, and of slots with a request out there. -/
def State.affected (s : State) (chip : BitVec 20) : List (Nat × Nat) :=
  s.contexts.filter fun (core, c) =>
    (s.ctx core c).assigned
      && (((s.cluster (clusterOf core)).names.any fun e => chipOf e.binding == chip)
        || (Machine.coreSlots core).any fun k => (s.slot k).clause.ctx == c && (s.slot k).far.any fun f => f.chip == chip)

/-- PEER_DOWN_EVENT with its reason: 1 reset, 2 power-down, 3 link loss. -/
def State.peerDown (s : State) (chip : BitVec 20) (reason : Nat) : State :=
  if chip = s.hub.chipId then s
  else
    let told := s.affected chip
    let ks := s.slots.map fun (e : Nat × Slot) => e.1
    let lost := (ks.map fun k => s.loseFar chip k).flatten ++ (ks.map fun k => s.loseAsks chip k).flatten ++ (ks.map fun k => s.loseFetch chip k).flatten
      ++ (s.contexts.map fun x => s.loseRecords chip x.1 x.2).flatten
      ++ (s.clusters.map fun (e : Nat × Cluster) => s.loseResolves chip e.1).flatten
      ++ (engineNumbers.map fun e => s.loseRows chip e).flatten
    let out := s.fabricOut.filter fun m => m.dstChip == chip && decide (m.kind.toNat < 0x20)
    let s := { s.modHub (fun h => { h with down := insertNat h.down chip.toNat }) with
      fabricOut := s.fabricOut.filter fun m => m.dstChip != chip,
      cores := s.cores.map fun (e : Nat × Core) => (e.1, { e.2 with
        tlb := e.2.tlb.filter (fun t => !s.leadsTo chip t.2.2.2),
        ctxs := e.2.ctxs.map fun (x : Nat × Ctx) => (x.1, { x.2 with recs := x.2.recs.map fun (r : Nat × Rec) => (r.1, r.2.unowed chip) }) }) }
    let s := out.foldl (fun s m => s.route m) s
    let s := { s with net := s.net ++ lost }
    let s := (s.clusters.map fun (e : Nat × Cluster) => e.1).foldl (fun s cl => s.loseNames chip cl) s
    let s := (List.range 16).foldl (fun s u => s.loseForwarded chip u) s
    let s := (List.range 17).foldl (fun s u => s.loseWaiters chip u) s
    let s := s.loseHub chip
    let s := (s.hub.windows.filter fun w => w.home == s.hub.chipId).foldl (fun s w => s.withdraw w.id chip) s
    told.foldl (fun s x => s.downNotice chip reason x.1 x.2) s

/-- PEER_DOWN_EVENT -/
def execPeerDownEvent (chip : BitVec 20) (reason : BitVec 2) (s : State) : Host.Outcome State Fault Refusal :=
  .next (s.peerDown chip reason.toNat)

/-- PEER_RETURN: new requests and messages reach the chip again. Of the ports that were lost, all serve again. -/
def execPeerReturn (chip : BitVec 20) (s : State) : Host.Outcome State Fault Refusal :=
  .next (s.modHub fun h => { h with down := h.down.filter (fun c => c != chip.toNat), lostPorts := [] })

end Sys2Proof.Machine
end

