-- ==== Sys2Proof/Machine/Debug.lean ====
section
/-!
DEFINITION. The debug module (25_debug.md): halts, resumes and steps (R431 to R433), breakpoints (R434), `trc` and `dmark` (R435 to
R437), the loss table (R439), trace records and segments (R440, R441).
-/
namespace Sys2Proof.Machine

/-! ### Halt, resume and step (R431 to R433) -/

/-- A bit of DBGCTL is set by a write of 1. What clears it the spec does not say: HALTREQ stays until the resume, RESUME until the next halt,
and STEP until the step is over. DESIGN CHOICE, log 114. -/
def State.ctlBit (s : State) (cl i : Nat) (b : Bool) : State := s.modDebug cl fun d => { d with ctl := withFld d.ctl i 1 b.toNat }

/-- HALTREQ. CORE and SLOT of DBGSTAT read 0: DESIGN CHOICE, log 129. -/
def State.haltRequested (s : State) (cl : Nat) : State := (s.haltCluster cl 0 0 0).ctlBit cl 63 true

/-- DEBUG_HALTREQ -/
def execDebugHaltreq (cluster : Nat) (s : State) : Host.Outcome State Fault Refusal := .next (s.haltRequested cluster)

/-- A slot as a resume finds it: its next instruction skips the breakpoints (R434), and its run time loses the halted time (R438). -/
def Slot.resumed (sl : Slot) (halted : BitVec 32) : Slot :=
  if sl.phase = .free then sl else { sl with skipBreak := true, clause := { sl.clause with bound := sl.clause.bound + halted } }

/-- What a halt held up at a slot goes on: its matrix steps or ring passes. -/
def State.unhold (s : State) (k : Nat) : State :=
  match (s.slot k).wait with
  | .mma _ _ _ _ _ _ => s.post (.mmaStep k)
  | .ring latch dst _ _ => s.post (.latchTransferArrival dst (s.slot k).clause.ctx latch)
  | _ => s

/-- RESUME: every core and the copy engine go on. -/
def State.resumeCluster (s : State) (cl : Nat) : State :=
  let d := s.debug cl
  let s := s.ctlBit cl 62 true
  if !d.halted then s
  else
    let halted := s.stamp - d.haltedAt
    let s := s.modDebug cl fun d => { d with halted := false, stepping := none, stat := withFld d.stat 63 1 0, ctl := withFld (withFld d.ctl 61 1 0) 63 1 0 }
    let s := { s with slots := s.slots.map fun (e : Nat × Slot) => if clusterOf (coreOf e.1) = cl then (e.1, e.2.resumed halted) else e }
    let s := s.traceRecord cl 0x03 0 0 0 []
    let s := (clusterSlots cl).foldl (fun s k => s.unhold k) s
    let s := (List.range 8).foldl (fun s i => s.wake (cl * 8 + i)) s
    ((s.post (.engineCommandStart cl)).post (.engineRow cl)).post (.chunkArrival cl)

/-- DEBUG_RESUME -/
def execDebugResume (cluster : Nat) (s : State) : Host.Outcome State Fault Refusal := .next (s.resumeCluster cluster)

/-- STEP: a slot of a halted cluster is released for one instruction, and HALTED reads 0 until it is over. -/
def State.stepSlot (s : State) (cl core slot : Nat) : State :=
  let k := (cl * 8 + core % 8) * 4 + slot % 4
  if !(s.debug cl).halted then s
  else
    let s := s.modDebug cl fun d => { d with stepping := some k, stat := withFld d.stat 63 1 0, ctl := withFld (withFld (withFld d.ctl 58 3 core) 56 2 slot) 61 1 1 }
    (s.modSlot k fun sl => if sl.phase = .free then sl else { sl with skipBreak := true }).unhold k

/-- DEBUG_STEP -/
def execDebugStep (cluster core slot : Nat) (s : State) : Host.Outcome State Fault Refusal := .next (s.stepSlot cluster core slot)

/-- The instruction of a slot that a STEP released is over: it has completed, has trapped or has left its slot. -/
def State.stepOver (s : State) (k : Nat) : Bool :=
  let sl := s.slot k
  sl.phase != .running || !sl.skipBreak

/-- The cluster of a slot whose STEP is over halts again, with CAUSE 5. -/
def State.endStep (s : State) (cl : Nat) : State :=
  let d := s.debug cl
  match d.stepping with
  | none => s
  | some k =>
    if !s.stepOver k then s
    else
      let s := (s.modDebug cl fun d => { d with halted := false }).haltCluster cl 5 (coreOf k) k
      s.modDebug cl fun x => { x with haltedAt := d.haltedAt }

/-- All STEPs that are over. -/
def State.endSteps (s : State) : State :=
  ((s.clusters.filter fun (e : Nat × Cluster) => e.2.dbg.stepping.isSome).map fun (e : Nat × Cluster) => e.1).foldl (fun s cl => s.endStep cl) s

/-- TRIGGER_LINE_PULSE: every cluster whose TRIGIN has the line's bit halts. CORE and SLOT of DBGSTAT read 0: DESIGN CHOICE, log 129. -/
def State.triggerPulse (s : State) (line : Nat) : State :=
  ((s.clusters.filter fun (e : Nat × Cluster) => bit e.2.dbg.trig (8 + line % 8)).map fun (e : Nat × Cluster) => e.1).foldl
    (fun s cl => s.haltCluster cl 4 0 0) s

/-- TRIGGER_LINE_PULSE -/
def execTriggerLinePulse (line : Nat) (s : State) : Host.Outcome State Fault Refusal := .next (s.triggerPulse line)

/-! ### Breakpoints (R434) -/

/-- A breakpoint of a debug module matches an address and a function. -/
def Debug.hits (d : Debug) (i : Nat) (pc : Word) (vf : Nat) : Bool :=
  let c := d.bpC.get i 0
  bit c 63 && fld ((pc ^^^ d.bpA.get i 0) &&& c) 0 48 == 0 && (!bit c 61 || fld c 54 7 == vf)

/-- The breakpoint that the next instruction of a slot meets, if one does. -/
def State.breakpoint (s : State) (k : Nat) : Option Nat :=
  let sl := s.slot k
  let core := coreOf k
  if sl.skipBreak || Config.firstMgmtCore ≤ core then none
  else [0, 1, 2, 3].find? fun i => (s.debug (clusterOf core)).hits i sl.pc (s.ctx core sl.clause.ctx).vf

/-- A breakpoint takes effect at a slot: it halts the cluster, or raises 0xBC. -/
def State.takeBreak (s : State) (k i : Nat) : State :=
  let cl := clusterOf (coreOf k)
  if bit ((s.debug cl).bpC.get i 0) 62 then s.trapAt k 0xBC (word i) else s.haltCluster cl 1 (coreOf k) k

/-! ### `trc` and `dmark` (R435 to R437) -/

/-- The records of a function are traced. -/
def Debug.traces (d : Debug) (vf : Nat) : Bool := bit d.trcCtl 63 && (!bit d.trcCtl 55 || fld d.trcCtl 48 7 == vf)

/-- A record of an instruction of the issuing slot. -/
def State.mark (s : State) (kind tag : Nat) (data : List Word) : State :=
  let cl := clusterOf s.curCore
  if (s.debug cl).traces s.curCtx.vf then s.traceRecord cl kind s.curCore (s.cur % 4) tag data else s

/-- `trc` -/
def execTrc (k : KOps) (s : State) : Host.Outcome State Fault Refusal :=
  let n := groupSize k.w
  .next (s.run { word := wordOf (.trc k), groups := [(k.rs2.toNat, n)], srcs := [x1 k, x2 k n] }
    (.ok (s.mark 0x01 (fld (s.sl.xr k.rs1.toNat) 0 16) (s.sl.xs k.rs2.toNat n)).complete))

/-- A mark matches the mark registers of a debug module. -/
def Debug.marked (d : Debug) (x : Word) : Bool := bit d.dmCtl 63 && fld ((x ^^^ d.dmVal) &&& d.dmCtl) 0 32 == 0

/-- `dmark`: the record comes first and is kept. -/
def execDmark (k : KOps) (s : State) : Host.Outcome State Fault Refusal :=
  .next (s.run { word := wordOf (.dmark k), srcs := [x1 k] }
    (let x := s.sl.xr k.rs1.toNat
     let cl := clusterOf s.curCore
     let d := s.debug cl
     let s := s.mark 0x02 0 [x]
     if d.marked x && fld d.dmCtl 61 2 == 2 then .ok (s.trap 0xBD x)
     else if d.marked x && fld d.dmCtl 61 2 == 1 then .ok (s.complete.haltCluster cl 3 s.curCore s.cur)
     else .ok s.complete))

/-! ### The loss table (R439) -/

/-- CLEAR of LOSSCTL. -/
def State.lossClear (s : State) (cl : Nat) : State := s.modDebug cl fun d => { d with loss := [] }

/-- LOSS_TABLE_CLEAR -/
def execLossTableClear (cluster : Nat) (s : State) : Host.Outcome State Fault Refusal := .next (s.lossClear cluster)

/-! ### Samples (R440) -/

/-- A cluster takes samples. -/
def Debug.samples (d : Debug) : Bool := bit d.trcCtl 63 && bit d.trcCtl 62

/-- The sample period in ns. -/
def Debug.period (d : Debug) : Nat := let e := fld d.trcCtl 56 6; 2 ^ (if 10 ≤ e && e ≤ 40 then e else 40)

/-- A sample of a cluster is due. -/
def State.armSample (s : State) (cl : Nat) : State :=
  if s.timers.any fun t => t.2 == .traceSample cl then s
  else { s with timers := s.timers ++ [(s.ktick.toNat + (s.debug cl).period, .traceSample cl)] }

/-- TRACE_SAMPLE: issued and stalled instructions of each core since the last sample. -/
def State.sample (s : State) (cl : Nat) : State :=
  let d := s.debug cl
  if !d.samples then s
  else
    let ws := (List.range 8).map fun i => word (d.issued.get i 0 % 2 ^ 32 + d.stalled.get i 0 % 2 ^ 32 * 2 ^ 32)
    ((s.traceRecord cl 0x05 0 0 0 ws).modDebug cl fun d => { d with issued := [], stalled := [] }).armSample cl

/-- TRACE_SAMPLE -/
def execTraceSample (cluster : Nat) (s : State) : Host.Outcome State Fault Refusal := .next (s.sample cluster)

/-- A core has issued an instruction, or has a slot whose next instruction is stalled in this cycle. -/
def State.countIssue (s : State) (core : Nat) (stalled : Bool) : State :=
  let cl := clusterOf core
  if core < Config.firstMgmtCore && (s.debug cl).samples then
    s.modDebug cl fun d =>
      if stalled then { d with stalled := d.stalled.set (core % 8) (d.stalled.get (core % 8) 0 + 1) }
      else { d with issued := d.issued.set (core % 8) (d.issued.get (core % 8) 0 + 1) }
  else s

/-! ### Segments (R441) -/

/-- Records that fit a number of 16-byte units, and those that follow. -/
def fitRecords (room : Nat) : List (List Word) → List (List Word) × List (List Word)
  | [] => ([], [])
  | r :: t => if room < r.length / 2 then ([], r :: t) else let q := fitRecords (room - r.length / 2) t; (r :: q.1, q.2)

/-- The hub gathers the records of the clusters' buffers while TRCFG.EN is set. -/
def State.gather (s : State) : State :=
  if !bit s.hub.trace.cfg 63 then s
  else
    let rs := (s.clusters.map fun (e : Nat × Cluster) => e.2.dbg.trace).flatten
    if rs.isEmpty then s
    else
      let s := { s with clusters := s.clusters.map fun (e : Nat × Cluster) => (e.1, { e.2 with dbg := { e.2.dbg with trace := [] } }) }
      s.toSegment rs

/-- The header of a segment up to its SEAL. -/
def segmentHead (serial : BitVec 48) (g : Segment) (gap : Nat) (prev : List Byte) : List Byte :=
  toBytes 4 0x4E44594D ++ toBytes 2 1 ++ toBytes 2 (g.replay.toNat + (decide (0 < gap)).toNat * 2) ++ toBytes 8 g.seq.toNat
    ++ toBytes 6 serial.toNat ++ toBytes 2 0 ++ toBytes 8 g.first.toNat ++ toBytes 8 g.last.toNat ++ toBytes 4 g.body.length ++ toBytes 4 gap ++ prev

/-- PREV of the next segment: the seal of the last one, or the boot image's measurement. -/
def State.prevSeal (s : State) : List Byte :=
  let p := if s.hub.trace.prev.isEmpty then s.hub.boot.measure else s.hub.trace.prev
  (p ++ List.replicate 32 0).take 32

/-- The LBA from which a segment is written: its place in the ring of RING segments from TRLBA on, by its sequence. DESIGN CHOICE, log 113. -/
def Trace.place (t : Trace) (g : Segment) : Word := t.lba + word (g.seq.toNat % fld t.cfg 0 32 * Config.segmentBlocks)

/-- The first staged segment is submitted, if none is on its way: its header is sealed, and its seal is PREV of the next. -/
def State.submit (s : State) : State :=
  let t := s.hub.trace
  match t.staged with
  | [] => s
  | g :: _ =>
    if !t.sending.isEmpty then s
    else
      let head := segmentHead s.hub.boot.serial g t.gap s.prevSeal
      let sealed := sm3 (head ++ g.body)
      s.modHub fun h => { h with trace := { t with sending := head ++ sealed ++ List.replicate 16 0 ++ g.body, dest := t.place g, prev := sealed } }

/-- The staging slots. -/
def Trace.slots (t : Trace) : Nat := 2 ^ greatest 1 (least 10 (fld t.cfg 48 4))

/-- A segment takes the first staging slot that is free, or that of the oldest unsent segment, which is overwritten. -/
def State.stage (s : State) (g : Segment) : State :=
  let t := s.hub.trace
  let t :=
    if t.staged.length < t.slots then t
    else { t with staged := t.staged.drop 1, sending := [], gap := t.gap + 1, stat := withFld t.stat 32 32 (fld t.stat 32 32 + 1) }
  (s.modHub fun h => { h with trace := { t with staged := t.staged ++ [g], seq := t.seq + 1 } }).submit

/-- The `ktick` of a record. -/
def recordTick (r : List Word) : Word := r.getD 1 0

/-- TRACE_SEGMENT_SEAL: the open segment is sealed when it is full, is 2^20 ns old, or EN is clear. -/
def State.sealSegment (s : State) : State :=
  let t := s.hub.trace
  match t.records with
  | [] => s
  | r :: _ =>
    if !(t.full || decide ((recordTick r).toNat + 2 ^ 20 ≤ s.ktick.toNat) || !bit t.cfg 63) then s
    else
      let q := fitRecords (segmentLimit / 16) t.records
      let g : Segment := { replay := bit t.cfg 62, seq := t.seq, first := recordTick r, last := recordTick (q.1.getLastD r),
                           body := (q.1.map bytesOfWords).flatten }
      ((s.modHub fun h => { h with trace := { h.trace with records := [] } }).stage g).toSegment q.2

/-- TRACE_SEGMENT_SEAL -/
def execTraceSegmentSeal (s : State) : Host.Outcome State Fault Refusal := .next s.sealSegment

/-- STORAGE_COMPLETION: the submitted segment is written: it is counted as sent, and its slot is free. -/
def State.segmentSent (s : State) : State :=
  let t := s.hub.trace
  if t.sending.isEmpty then s
  else
    (s.modHub fun h =>
      { h with trace := { t with staged := t.staged.drop 1, sending := [], gap := 0, stat := withFld t.stat 0 32 (fld t.stat 0 32 + 1) } }).submit

/-- STORAGE_COMPLETION -/
def execStorageCompletion (s : State) : Host.Outcome State Fault Refusal :=
  .next (if s.hub.boot.diverged then s else (s.captureInput 0 0 0 inStorage [0] 1).segmentSent)

end Sys2Proof.Machine
end

