-- ==== Sys2Proof/Machine/Fetch.lean ====
section
/-!
DEFINITION. Fetching an instruction's word (05_scalar.md R93, 03_language.md R53, 04_encoding.md R73 step 1): the fetch line of a slot,
the shared fetch port of a cluster, and the watchdog (05_scalar.md R96).
-/
namespace Sys2Proof.Machine

/-! ### Lines -/

/-- A slot's line holds its next instruction. -/
def Slot.holdsLine (sl : Slot) (asid : Nat) : Bool :=
  match sl.line with
  | some l => l.va == sl.lineVa && l.asid == asid
  | none => false

/-- The causes of a fetch that need no translation: 0x10 outside the code region, and 0x15 for an entry that is not a multiple of 4
(06_messages.md R106). -/
def Slot.fetchCause (sl : Slot) : Option Nat :=
  let c := sl.clause
  if sl.pc.toNat < c.codeBase.toNat || c.codeBase.toNat + c.codeSize ≤ sl.pc.toNat then some 0x10
  else if sl.pc.toNat % 4 ≠ 0 then some 0x15
  else none

/-- The word at an address in a line. -/
def Line.wordAt (l : Line) (pc : Word) : BitVec 32 := BitVec.ofNat 32 (bitsOf l.data.toNat (8 * (pc.toNat % 64)) 32)

/-- 64 bytes of the boot image, from which the management cores fetch at the address of each byte in the image (26_platform.md R449).
DESIGN CHOICE, log 24. -/
def State.imageLine (s : State) (va : Word) : VWord := BitVec.ofNat 512 (ofBytes ((s.hub.boot.image.drop va.toNat).take 64))

/-- A slot asks for the line of its next instruction: of a management core it comes at once, of another from the shared fetch port. -/
def State.requestLine (s : State) (k : Nat) : State :=
  let sl := s.slot k
  if Config.firstMgmtCore ≤ coreOf k then
    s.setSlot k { sl with line := some { va := sl.lineVa, asid := s.asid k, data := s.imageLine sl.lineVa } }
  else (s.setSlot k { sl with fetching := true }).post (.fetchLineDelivery (clusterOf (coreOf k)))

/-- The word that a slot takes next, or the state in which it takes none: step 1 of R73, then breakpoints (25_debug.md R434), then a line
that holds a poisoned atom (12_main_memory.md R235), which is fetched afresh after a resume. -/
def State.takeWord (s : State) (k : Nat) : State ⊕ BitVec 32 :=
  let sl := s.slot k
  match sl.fetchCause with
  | some c => .inl (s.trapAt k c sl.pc true)
  | none =>
    if !sl.holdsLine (s.asid k) then .inl (s.requestLine k)
    else match sl.line with
      | none => .inl s
      | some l =>
        match s.breakpoint k with
        | some i => .inl (s.takeBreak k i)
        | none => if l.poisoned then .inl ((s.setSlot k { sl with line := none }).trapAt k 0x60 sl.pc true) else .inr (l.wordAt sl.pc)

/-! ### The shared fetch port -/

/-- The slots of a core whose request the port has not yet taken up. -/
def State.asking (s : State) (core : Nat) : List Nat := (Machine.coreSlots core).filter fun k => (s.slot k).fetching && (s.slot k).fetchFar.isNone

/-- The core that the port of a cluster serves next. -/
def State.nextFetcher (s : State) (cl : Nat) : Option Nat :=
  let last := (s.cluster cl).fetchLast
  ((List.range 8).map fun i => cl * 8 + (last + 1 + i) % 8).find? fun c => !(s.asking c).isEmpty

/-- Slots of a cluster that ask for one line under one address-space id. -/
def State.sharing (s : State) (cl : Nat) (va : Word) (asid : Nat) : List Nat :=
  (List.range 32).map (fun i => cl * 32 + i) |>.filter fun k => (s.slot k).fetching && (s.slot k).lineVa == va && s.asid k == asid

/-- A line reaches every slot of a cluster that asks for it. -/
def State.lineCame (s : State) (cl : Nat) (l : Line) : State :=
  (s.sharing cl l.va l.asid).foldl (fun s k => s.modSlot k fun sl => { sl with line := some l, fetching := false, fetchFar := none }) s

/-- The slots of a core that ask for a line raise a cause of its fetch. -/
def State.fetchFails (s : State) (core : Nat) (va : Word) (asid cause : Nat) : State :=
  ((s.sharing (clusterOf core) va asid).filter fun k => coreOf k == core).foldl
    (fun s k => (s.modSlot k fun sl => { sl with fetching := false, fetchFar := none }).trapAt k cause (s.slot k).pc true) s

/-- A line whose read has a status: data, poison, or a cause. -/
def State.lineRead (s : State) (core : Nat) (va : Word) (asid st : Nat) (bs : List Byte) : State :=
  if 2 ≤ st then s.fetchFails core va asid (statusCause st)
  else s.lineCame (clusterOf core) { va := va, asid := asid, data := BitVec.ofNat 512 (ofBytes bs), poisoned := st == 1 }

/-- The read of a line for a slot, at its home. -/
def State.readLine (s : State) (k : Nat) (ga : Word) (unit : Nat) : State :=
  let core := coreOf k
  let sl := s.slot k
  let m : Msg := { s.clauseMsg k with
    dstChip := chipOf ga, kind := 0x20, units := 1, unit := unit, tag := fetchTag k, payload := [ga, 64], launch := 0, window := sl.lineVa.toNat + s.asid k * 2 ^ 64 }
  if chipOf ga ≠ s.hub.chipId then
    if s.chipDown (chipOf ga).toNat then s.fetchFails core sl.lineVa (s.asid k) 0x92 else (s.setSlot k { sl with fetchFar := some (chipOf ga) }).route m
  else if (s.holder m).isSome then s
  else
    let r := s.homeRead m ga 64 false
    r.1.lineRead core sl.lineVa (s.asid k) r.2.1 r.2.2

/-- A line that was read from another package has come; one whose translation has been dropped since is translated and read again
(24_system.md R412). -/
def State.farLineCame (s : State) (m : Msg) : State :=
  let k := tagSlotKey m.tag
  let sl := s.slot k
  if sl.fetchFar.isNone || sl.lineVa.toNat + s.asid k * 2 ^ 64 != m.window then s
  else if sl.fetchDropped then (s.setSlot k { sl with fetchFar := none, fetchDropped := false }).post (.fetchLineDelivery (clusterOf (coreOf k)))
  else
    s.modSlot k (fun sl => { sl with fetchFar := none }) |>.lineRead (coreOf k) (word (m.window % 2 ^ 64)) (m.window / 2 ^ 64)
      (fld (m.payload.getD 0 0) 0 8) (bytesOfWords ((m.payload.drop 2).take 8))

/-- FETCH_LINE_DELIVERY: the port of a cluster serves the next core that asks, translating at the line. -/
def State.deliverLine (s : State) (cl : Nat) : State :=
  match s.nextFetcher cl with
  | none => s
  | some core =>
    match s.asking core with
    | [] => s
    | k :: _ =>
      let va := (s.slot k).lineVa
      let asid := s.asid k
      let s := s.modCluster cl fun c => { c with fetchLast := core % 8 }
      let t :=
        match s.leafFor core asid va.toNat with
        | .fail c => (if c = causeAbsent then s.walkRecord core asid (s.ctx core (s.slot k).clause.ctx).vf va else s).fetchFails core va asid c
        | .ok leaf ps =>
          if !leafX leaf then s.fetchFails core va asid 0x52
          else
            let ga := s.globalOf leaf ps va.toNat
            (s.fillTlb core asid va.toNat).readLine k ga (homeOf (leafPlacement leaf) (devOf ga))
      if (t.nextFetcher cl).isNone || t.timers.any (fun x => x.2 == .fetchLineDelivery cl) then t
      else { t with timers := t.timers ++ [(t.ktick.toNat + 1, .fetchLineDelivery cl)] }

/-- FETCH_LINE_DELIVERY -/
def execFetchLineDelivery (cluster : Nat) (s : State) : Host.Outcome State Fault Refusal := .next (s.deliverLine cluster)

/-! ### The watchdog (05_scalar.md R96) -/

/-- A slot's clause has used up its bound: it reports 0x11 and is killed. The management cores have no watchdog (24_system.md R430). -/
def State.watchdogFires (s : State) (k : Nat) : State :=
  let sl := s.slot k
  let counted := match sl.phase with | .running => true | .suspending _ => true | .exiting _ lost => !lost | _ => false
  if !counted || sl.cycles < sl.kwdog.toNat || Config.firstMgmtCore ≤ coreOf k then s
  else
    let sl' := { sl with kcause := 0x11, kaddr := word sl.cycles, kepc := sl.pc, trapNo := sl.trapNo + 1 }
    let p := sl'.report k
    ((((s.setSlot k sl').boundary k).traceRecord (clusterOf (coreOf k)) 0x04 (coreOf k) k 0 p).sendReport k 0x11 false p).killSlot k

/-- WATCHDOG -/
def execWatchdog (slot : Nat) (s : State) : Host.Outcome State Fault Refusal := .next (s.watchdogFires slot)

end Sys2Proof.Machine
end

