-- ==== Sys2Proof/Machine/Platform.lean ====
section
/-!
DEFINITION. The package (26_platform.md): resets (R448), boot (R449), management frames and attestation (R450, R451), the health of the
entropy source (R452), power and clock (R453), lost links (R454), and writes of the management cores' registers (24_system.md R429).
-/
namespace Sys2Proof.Machine

/-! ### The boot configuration (R450) -/

/-- Copy B of the boot configuration is the one in force: it is valid, and copy A is not or has a lower sequence. -/
def Boot.useB (b : Boot) : Bool :=
  match b.copyA, b.copyB with
  | some x, some y => decide (x.1.toNat < y.1.toNat)
  | none, some _ => true
  | _, none => false

/-- The copy in force. -/
def Boot.inForce (b : Boot) : Word × List Byte := ((if b.useB then b.copyB else b.copyA).getD (0, []))

/-- The highest sequence accepted, and the record. -/
def Boot.sequence (b : Boot) : Word := b.inForce.1
def Boot.config (b : Boot) : List Byte := b.inForce.2

/-- The record is written with a sequence, into the copy that is not in force. -/
def Boot.store (b : Boot) (sequence : Word) (config : List Byte) : Boot :=
  if b.useB then { b with copyA := some (sequence, config) } else { b with copyB := some (sequence, config) }

/-! ### Package reset (R448) -/

/-- The count of the hub's inputs in a capture is kept beside those of the slots. -/
def hubInputs : Nat := 2 ^ 20

/-- A replay takes the counter block that its capture read at reset (25_debug.md R442, R443). -/
def State.capturedBlock (s : State) : State :=
  if s.hub.boot.mode ≠ 2 then s
  else match Config.captured hubInputs 0, Config.captured hubInputs 1 with
    | some lo, some hi => s.modHub fun h => { h with issued := lo.toNat + hi.toNat * 2 ^ 64, boot := { h.boot with inputs := [(hubInputs, 2)] } }
    | _, _ => s.modHub fun h => { h with boot := { h.boot with diverged := true } }

/-- What the non-volatile store and the world outside keep across a reset; TRIP is kept across the one that ends the powering down (R453). -/
def Hub.kept (h : Hub) (mode : Nat) (lba : Word) : Hub :=
  { chipId := h.chipId, down := h.down, lostPorts := h.lostPorts, harvest := h.harvest, fused := h.fused, slots := h.slots,
    issued := h.reservedEnd, entropyBad := h.entropyBad, trip := h.trip && h.off,
    boot := { serial := h.boot.serial, copyA := h.boot.copyA, copyB := h.boot.copyB, mode := mode, capture := lba } }

/-- A package reset in a MODE: 0 normal, 1 capture, 2 replay of the capture at an LBA. HBM is 0, every queue, cache and table is empty,
and the counter block read at reset is the one reserved last, of which the record of the next is written (19_names.md R325). The CXL
tier lies outside the package and keeps its bytes; its poison bits are cleared (12_main_memory.md R232). -/
def State.resetTo (s : State) (mode : Nat) (lba : Word) : State :=
  let cxl := fun (a : Nat) => decide (2 ^ 40 ≤ a) && decide (a < 2 ^ 45)
  let h := s.hub.kept mode lba
  let h := if mode = 1 then { h with trace := { cfg := 0xC006000000000000 } } else h
  let t := { State.reset with hub := h, mem := s.mem.filter fun c => cxl c.1, draws := s.draws }
  (t.reserveNames.captureInput 0 0 0 inCounter [word h.issued, word (h.issued / 2 ^ 64)] 1).capturedBlock

/-- PACKAGE_RESET: the fundamental reset. -/
def execPackageReset (s : State) : Host.Outcome State Fault Refusal := .next (s.resetTo 0 0)

/-! ### Management frames (R450) -/

/-- The body of a frame, and the bytes that its signature covers. -/
def frameBody (f : List Byte) : List Byte := (f.drop 64).take (dsc f 24 4)
def frameSignedPart (f : List Byte) : List Byte := f.take (64 + dsc f 24 4)
def frameSeq (f : List Byte) : Word := word (dsc f 8 8)

/-- A frame is well-formed and of a type. -/
def frameIs (type : Nat) (f : List Byte) : Bool :=
  dsc f 0 4 == 0x4D474B4C && dsc f 4 2 == 1 && dsc f 6 2 == type && dsc f 22 2 == 0 && dsc f 28 36 == 0
    && decide (dsc f 24 4 ≤ 8192) && decide (64 + dsc f 24 4 ≤ f.length)

/-- A frame of a type other than an attestation request is accepted. -/
def State.accepts (s : State) (type : Nat) (f : List Byte) : Bool :=
  frameIs type f && dsc f 16 6 == s.hub.boot.serial.toNat
    && Config.frameSigned s.hub.boot.config (frameSignedPart f) ((f.drop (64 + dsc f 24 4)).take 64)
    && decide (s.hub.boot.sequence.toNat < (frameSeq f).toNat)

def State.modBoot (s : State) (f : Boot → Boot) : State := s.modHub fun h => { h with boot := f h.boot }

/-- A frame that fails is counted in MGMTREJ. -/
def State.rejectFrame (s : State) : State := s.modBoot fun b => { b with rejected := b.rejected + 1 }

/-- A management frame arrives: a capture records it, and a replay that has diverged takes none. -/
def State.frameCame (s : State) (f : List Byte) (then_ : State → State) : State :=
  if s.hub.boot.diverged then s
  else then_ (s.captureInput 0 0 0 inFrame (wordsOf ((f.length + 7) / 8) f) ((f.length + 63) / 64))

/-- A reset command: the sequence is stored before the reset. A MODE that R448 does not list, and a capture that is not complete
(25_debug.md R443), bring about no reset. -/
def State.resetCommand (s : State) (f : List Byte) : State :=
  if !s.accepts 1 f then s.rejectFrame
  else
    let s := s.modBoot fun b => b.store (frameSeq f) b.config
    let mode := dsc (frameBody f) 0 1
    let lba := word (dsc (frameBody f) 8 8)
    if 2 < mode || (mode == 2 && !Config.captureComplete lba) then s else s.resetTo mode (if mode = 2 then lba else 0)

/-- MGMT_RESET_COMMAND -/
def execMgmtResetCommand (frame : List Byte) (s : State) : Host.Outcome State Fault Refusal :=
  .next (s.frameCame frame fun s => s.resetCommand frame)

/-- A configuration write: its body is the new record of 512 bytes. -/
def State.configure (s : State) (f : List Byte) : State :=
  if !s.accepts 2 f then s.rejectFrame
  else s.modBoot fun b => b.store (frameSeq f) (if (frameBody f).length = 512 then frameBody f else b.config)

/-- MGMT_CONFIGURATION_WRITE -/
def execMgmtConfigurationWrite (frame : List Byte) (s : State) : Host.Outcome State Fault Refusal :=
  .next (s.frameCame frame fun s => s.configure frame)

/-! ### Attestation (R451) -/

/-- The cluster map (R447): bit c is set when package cluster c is enabled. -/
def Hub.clusterMap (h : Hub) : Nat := h.disabled.foldl (fun m c => if bitOf m c then m - 2 ^ c else m) (2 ^ Config.clusterCount - 1)

/-- The MEASURE register: 0 until an image has been measured. -/
def Boot.measured (b : Boot) : List Byte := (b.measure ++ List.replicate 32 0).take 32

/-- The 208 bytes of a reply to a nonce. -/
def State.attestation (s : State) (nonce : List Byte) : List Byte :=
  let h := s.hub
  let p := toBytes 6 h.boot.serial.toNat ++ toBytes 2 (8 * (Config.clusterCount - h.disabled.length) / 512) ++ toBytes 64 h.clusterMap
    ++ h.boot.measured ++ nonce ++ toBytes 8 s.ktick.toNat
  p ++ Config.deviceSign p

/-- The frame of type 4 that carries a reply to a frame. -/
def State.replyFrame (s : State) (f body : List Byte) : List Byte :=
  let p := toBytes 4 0x4D474B4C ++ toBytes 2 1 ++ toBytes 2 4 ++ toBytes 8 (frameSeq f).toNat ++ toBytes 6 s.hub.boot.serial.toNat ++ toBytes 2 0
    ++ toBytes 4 body.length ++ List.replicate 36 0 ++ body
  p ++ Config.deviceSign p

/-- An attestation request is accepted unsigned, with a nonce of 32 bytes. -/
def State.attest (s : State) (f : List Byte) : State :=
  if !frameIs 3 f || (frameBody f).length != 32 then s.rejectFrame
  else
    let r := s.replyFrame f (s.attestation (frameBody f))
    s.modBoot fun b => { b with replies := b.replies ++ [r] }

/-- MGMT_ATTESTATION_REQUEST -/
def execMgmtAttestationRequest (frame : List Byte) (s : State) : Host.Outcome State Fault Refusal :=
  .next (s.frameCame frame fun s => s.attest frame)

/-! ### Boot (R449) -/

/-- A management core begins the image at its first byte with PRIV 11. -/
def State.startMgmt (s : State) (i : Nat) : State :=
  s.setSlot ((Config.firstMgmtCore + i) * 4) { kstat := 3, phase := .running, clause := { codeSize := s.hub.boot.image.length } }

/-- BOOT_IMAGE_FETCH: an image that the boot server sent is checked and measured, and runs; one that fails is followed by a fresh fetch
2 s later. -/
def State.bootFetch (s : State) (image : List Byte) : State :=
  if s.hub.boot.booted || s.ktick.toNat < s.hub.boot.fetchAt.toNat then s
  else if !Config.imageGenuine image then s.modBoot fun b => { b with fetchAt := s.ktick + 2000000000 }
  else
    let m := sm3 image
    let s := s.modBoot fun b => { b with booted := true, image := image, measure := m }
    let s := s.captureInput 0 0 0 inImage (wordsOf ((image.length + 7) / 8) image ++ wordsOf 4 m) (image.length / 64 + 2)
    (List.range 16).foldl (fun s i => s.startMgmt i) s

/-- BOOT_IMAGE_FETCH -/
def execBootImageFetch (image : List Byte) (s : State) : Host.Outcome State Fault Refusal := .next (s.bootFetch image)

/-! ### Entropy (R452) -/

/-- ENTROPY_HEALTH_FAILURE -/
def execEntropyHealthFailure (s : State) : Host.Outcome State Fault Refusal :=
  .next ((s.modHub fun h => { h with entropyBad := true }).machineCheck { kind := 0x0104, unitType := 0, unit := 0, addr := 0, detail := 0 })

/-- ENTROPY_SOURCE_RECOVERY -/
def execEntropySourceRecovery (s : State) : Host.Outcome State Fault Refusal := .next (s.modHub fun h => { h with entropyBad := false })

/-! ### Power and clock (R453) -/

/-- The package envelope in W, and the temperature in °C above which a die trips. -/
def powerLimit : Nat := 4000
def tripTemp : Nat := 105

/-- The core clock changes; the fraction of a nanosecond that has passed is kept. -/
def State.setClock (s : State) (mhz : Nat) : State :=
  { s.modHub fun h => { h with mhz := mhz } with tickRem := s.tickRem * mhz / s.hub.mhz }

/-- The package powers down: nothing runs until a reset. -/
def State.powerDown (s : State) : State :=
  { s.modHub fun h => { h with trip := true, off := true } with agenda := [], timers := [], net := [] }

/-- POWER_SAMPLE: above a limit the clock falls by 100 MHz, to 1.2 GHz at least; after 100 samples, 1 ms, at or below both it rises by
100 MHz. -/
def State.powerSampled (s : State) (watts temp : Nat) : State :=
  let s := s.modHub fun h => { h with watts := least watts 0xFFFF, tmax := least temp 0xFF }
  if tripTemp < temp then s.powerDown
  else if powerLimit < watts || Config.tempLimit < temp then
    (s.modHub fun h => { h with coolFor := 0 }).setClock (greatest 1200 (s.hub.mhz - 100))
  else if 100 ≤ s.hub.coolFor + 1 then (s.modHub fun h => { h with coolFor := 0 }).setClock (least 3600 (s.hub.mhz + 100))
  else s.modHub fun h => { h with coolFor := h.coolFor + 1 }

/-- POWER_SAMPLE -/
def execPowerSample (watts temp : Nat) (s : State) : Host.Outcome State Fault Refusal := .next (s.powerSampled watts temp)

/-! ### Lost links (R454) -/

/-- The chips that something of this package waits for or names. -/
def State.chipsSeen (s : State) : List Nat :=
  let far := s.slots.flatMap fun (e : Nat × Slot) => e.2.far.map fun f => f.chip.toNat
  let asks := s.slots.flatMap fun (e : Nat × Slot) => e.2.asks.map fun a => (descChip s.hub.chipId a.desc).toNat
  let names := s.clusters.flatMap fun (e : Nat × Cluster) => e.2.names.map fun n => (chipOf n.binding).toNat
  let recs := s.contexts.flatMap fun x => (s.ctx x.1 x.2).recs.flatMap fun (e : Nat × Rec) =>
    (e.2.owedBy ++ e.2.susp.chip.toList).map fun c => c.toNat
  let tlb := s.cores.flatMap fun (e : Nat × Core) => e.2.tlb.map fun t => if bit t.2.2.2 6 then s.hub.chipId.toNat else fld t.2.2.2 44 20
  (far ++ asks ++ names ++ recs ++ tlb ++ (s.fabricOut.map fun m => m.dstChip.toNat) ++ s.hub.windows.flatMap fun w => w.members).foldl insertNat []

/-- LINK_RETRY_EXHAUSTED: a Novron port is lost, and chips to which no route remains are down with reason 3. -/
def State.linkLost (s : State) (port : Nat) : State :=
  let s := s.modHub fun h => { h with lostPorts := insertNat h.lostPorts (port % 16) }
  (s.chipsSeen.filter fun c => c != s.hub.chipId.toNat && s.chipDown c && !s.hub.down.contains c).foldl
    (fun s c => s.peerDown (BitVec.ofNat 20 c) 3) s

/-- LINK_RETRY_EXHAUSTED -/
def execLinkRetryExhausted (port : Nat) (s : State) : Host.Outcome State Fault Refusal := .next (s.linkLost port)

/-! ### Management registers (24_system.md R429)

A register is named by unit type, unit number and offset. Where the chapters give state without an offset (region file, access tables,
error threshold), the offset is the model's: DESIGN CHOICE, log 23. A field with a row of its own in the table has the effect of that row. -/

/-- The fields of a register that a write takes, by position and length; all others keep the old value. -/
def withFields (old v : Word) : List (Nat × Nat) → Word
  | [] => old
  | (lo, n) :: t => withFields (withFld old lo n (fld v lo n)) v t

/-- VFCFG of a function (R419). -/
def State.vfWrite (s : State) (vf off : Nat) (v : Word) : State :=
  if off = 0 then
    let s := s.modVf vf fun x => { x with ctl := withFields x.ctl v [(63, 1), (61, 1), (0, 16)] }
    let s := if bit v 62 then s.vfReset vf else s
    if bit v 63 then s.wakeDispatch vf else s
  else if off = 8 then s.modVf vf fun x => { x with eqBase := v }
  else if off = 16 then s.modVf vf fun x => { x with eqHead := fld v 0 32 }
  else if off = 24 then s.modVf vf fun x => { x with cqBase := v }
  else if off = 32 then s.modVf vf fun x => { x with cqHead := fld v 0 32 }
  else if off = 40 then s.modVf vf fun x => { x with cnt := v }
  else s

/-- KTRAPPTR: HEAD moves, and reports that waited for room enter the ring. -/
def State.trapHeadWrite (s : State) (v : Word) : State :=
  let s := s.modHub fun h => { h with ktrapHead := fld v 0 32 }
  ((s.slots.filter fun (e : Nat × Slot) => e.2.ringReport.isSome).map fun (e : Nat × Slot) => e.1).foldl (fun s k => s.post (.trapRingEntry k))
    (s.heldEntries s.hub.heldReports)

/-- TRCFG (25_debug.md R441): clearing EN seals the open segment. -/
def State.trcfgWrite (s : State) (v : Word) : State :=
  let old := s.hub.trace.cfg
  let s := s.modHub fun h => { h with trace := { h.trace with cfg := withFields old v [(63, 1), (48, 4), (0, 32)] } }
  if bit old 63 && !bit v 63 then s.post .traceSegmentSeal else s

/-- WINCMD (24_system.md R424): an operation code other than the three does nothing. -/
def State.wincmdWrite (s : State) (v : Word) : State :=
  match fld v 60 4 with
  | 1 => s.windowDeclare (fld v 54 6)
  | 2 => s.windowRedeclare (fld v 54 6)
  | 3 => s.windowRemove (fld v 54 6)
  | op => s.winStart op (fld v 54 6) fun s => s

/-- NAMECMD (R455): an operation code other than the three does nothing. -/
def State.namecmdWrite (s : State) (v : Word) : State :=
  match fld v 60 4 with
  | 1 => s.nameNew
  | 2 => s.nameChange opCas
  | 3 => s.nameChange opKill
  | op => s.nameStart op fun s => s

/-- PCMD (R416): an operation code other than the four does nothing. -/
def State.pcmdOp (s : State) (v : Word) : State :=
  let op := fld v 60 4
  if 1 ≤ op && op ≤ 4 then s.pcmdWrite op v
  else if bit s.hub.pstat 63 then s
  else s.modHub fun h => { h with pcmd := withFields 0 v [(60, 4), (58, 2), (50, 7), (16, 32)] }

/-- LQCFG of a queue (22_launch_estimate.md R370): its launches wait for the partition that it names from here on. -/
def State.queueWrite (s : State) (q : Nat) (v : Word) : State :=
  let s := s.modHub fun h => { h with queues := h.queues.set q (withFields 0 v [(63, 1), (56, 7), (32, 16)]) }
  let s := (s.queued q).foldl (fun s e => if pkExpire e.2.packet then s.armExpiry (fld v 32 16) e.2.vf else s) s
  if bit v 63 then s.wakeDispatch (fld v 56 7) else s

/-- Where the registers without a stated offset lie: the region file, an access table, and the threshold of corrected errors, which the
counters follow. -/
def regionOffset : Nat := 0x100000
def accessOffset : Nat := 0x1000000
def thresholdOffset : Nat := 0x1100000

/-- An entry of an access table without its reserved bits (R428). -/
def accessEntry (v : Word) : Word := withFld v 20 24 0

/-- Registers of the hub in arrays. -/
def State.hubArrayWrite (s : State) (off : Nat) (v : Word) : State :=
  if 0x1000 ≤ off ∧ off < 0x3000 then
    s.queueWrite ((off - 0x1000) / 8) v
  else if 0x3000 ≤ off ∧ off < 0x3400 then
    s.modVf ((off - 0x3000) / 8) fun x => { x with bud := withFields x.bud v [(63, 1), (0, 56)] }
  else if 0x4000 ≤ off ∧ off < 0x6000 then s.vfWrite ((off - 0x4000) / 64) (off % 64) v
  else if regionOffset ≤ off ∧ off < regionOffset + 0x800000 then
    (s.modHub fun h => { h with regions := h.regions.set ((off - regionOffset) / 8) v }).armFind
  else if accessOffset ≤ off ∧ off < accessOffset + 8192 then
    s.modHub fun h => { h with access := h.access.set ((off - accessOffset) / 8) (accessEntry v) }
  else s

/-- Registers of the hub. -/
def State.hubWrite (s : State) (off : Nat) (v : Word) : State :=
  match off with
  | 0x00 =>
    let s := s.modHub fun h => { h with tracker := { h.tracker with ctl := withFld v 1 3 0 } }
    if bit v 0 then s.armTracker else s
  | 0x08 => s.modHub fun h => { h with tracker := { h.tracker with hbm := v } }
  | 0x10 => s.modHub fun h => { h with tracker := { h.tracker with cxl := v } }
  | 0x0800 => s.pcmdOp v
  | 0x0810 => s.modHub fun h => { h with ktrap := withFld v 0 12 0 }
  | 0x0818 => s.trapHeadWrite v
  | 0x0820 => s.modHub fun h => { h with keq := v }
  | 0x0828 => s.modHub fun h => { h with keqHead := fld v 0 32 }
  | 0x0830 => s.modHub fun h => { h with kmc := v }
  | 0x0838 => s.modHub fun h => { h with kmcHead := fld v 0 32 }
  | 0x0860 => s.nametabWrite v
  | 0x0878 => s.modHub fun h => { h with smap := withFld v 0 12 0 }
  | 0x0880 => s.smapnWrite v
  | 0x0888 => s.klawWrite v
  | 0x0890 => s.wincmdWrite v
  | 0x08A0 => s.modHub fun h => { h with winblk := withFld v 0 6 0 }
  | 0x08A8 => s.modHub fun h => { h with nameblk := withFld v 0 6 0 }
  | 0x08B0 => s.namecmdWrite v
  | 0x0900 => s.modHub fun h => { h with trace := { h.trace with lba := withFld v 48 16 0 } }
  | 0x0908 => s.trcfgWrite v
  | _ => s.hubArrayWrite off v

/-- Registers of a core: the blocks of its contexts (R422), and its threshold of corrected errors (26_platform.md R454). -/
def State.coreWrite (s : State) (core off : Nat) (v : Word) : State :=
  if 0x8000 ≤ off ∧ off < 0x8100 then
    s.modCtx core ((off - 0x8000) / 64) fun x =>
      match off % 64 with
      | 0x00 => { x with recBase := v }
      | 0x08 => { x with famBase := v }
      | 0x10 => { x with regBase := v }
      | 0x18 => { x with saveBase := v }
      | 0x20 => { x with ctxErr := v }
      | _ => x
  else if off = thresholdOffset then s.modCore core fun c => { c with threshold := v.toNat }
  else s

/-- DBGCTL (25_debug.md R431): a 1 at HALTREQ, RESUME or STEP sets it and brings its action about. -/
def State.dbgctlWrite (s : State) (cl : Nat) (v : Word) : State :=
  let s := s.modDebug cl fun d => { d with ctl := withFields d.ctl v [(56, 5), (8, 1), (0, 8)] }
  let s := if bit v 63 then s.haltRequested cl else s
  let s := if bit v 62 then s.resumeCluster cl else s
  if bit v 61 then s.stepSlot cl (fld v 58 3) (fld v 56 2) else s

/-- TRCCTL (R440): DROP is zeroed when EN goes from 0 to 1. -/
def State.trcctlWrite (s : State) (cl : Nat) (v : Word) : State :=
  let s := s.modDebug cl fun d =>
    let n := withFields d.trcCtl v [(48, 16)]
    { d with trcCtl := if bit v 63 && !bit d.trcCtl 63 then withFld n 0 32 0 else n }
  if (s.debug cl).samples then s.armSample cl else s

/-- Registers of a cluster: its debug module (R431), and its threshold of corrected errors (26_platform.md R454). -/
def State.clusterWrite (s : State) (cl off : Nat) (v : Word) : State :=
  match off with
  | 0x100 => s.dbgctlWrite cl v
  | 0x150 => s.modDebug cl fun d => { d with trig := withFields 0 v [(8, 8)] }
  | 0x158 => s.trcctlWrite cl v
  | 0x160 => s.modDebug cl fun d => { d with dmVal := withFields 0 v [(0, 32)] }
  | 0x168 => s.modDebug cl fun d => { d with dmCtl := withFields 0 v [(61, 3), (0, 32)] }
  | 0x170 =>
    let s := s.modDebug cl fun d => { d with lossCtl := withFields d.lossCtl v [(63, 1)] }
    if bit v 62 then s.lossClear cl else s
  | _ =>
    if 0x110 ≤ off ∧ off < 0x150 then
      let k := (off - 0x110) / 16
      if off % 16 = 0 then s.modDebug cl fun d => { d with bpA := d.bpA.set k (withFields 0 v [(0, 48)]) }
      else s.modDebug cl fun d => { d with bpC := d.bpC.set k (withFields 0 v [(54, 10), (0, 48)]) }
    else if off = thresholdOffset then s.modCluster cl fun c => { c with threshold := v.toNat }
    else s

/-- Registers of a stack controller or of the tier controller. -/
def State.stackWrite (s : State) (unit off : Nat) (v : Word) : State :=
  if accessOffset ≤ off ∧ off < accessOffset + 8192 then
    s.modStack unit fun k => { k with access := k.access.set ((off - accessOffset) / 8) (accessEntry v) }
  else if off = thresholdOffset then s.modStack unit fun k => { k with threshold := v.toNat }
  else s

/-- A write of a management address takes effect: one anywhere but at a register given as RW is ignored. -/
def State.writeNow (s : State) (reg : Nat) (v : Word) : State :=
  let unit := bitsOf reg 32 12
  let off := bitsOf reg 0 32
  if off % 8 ≠ 0 then s
  else match bitsOf reg 44 4 with
    | 0 => s.hubWrite off v
    | 1 => if unit < Config.coreCount then s.coreWrite unit off v else s
    | 2 => if unit < Config.clusterCount then s.clusterWrite unit off v else s
    | 3 => if unit < 16 then s.stackWrite unit off v else s
    | 4 => s.stackWrite 16 off v
    | _ => s

/-- The hub reads the kernel's law table. -/
def State.lawReading (s : State) : Bool := s.hub.reads.any fun r => r.what == .law

/-- A write of a management address. One of a hub register waits until a kernel's law table that the hub is reading is installed
(17_tensed.md R295). -/
def State.registerWrite (s : State) (reg : Nat) (v : Word) : State :=
  if s.lawReading && bitsOf reg 44 4 == 0 then s.modHub fun h => { h with heldWrites := h.heldWrites ++ [(reg, v)] } else s.writeNow reg v

/-- Writes that have waited take effect, up to one that makes the rest wait again. -/
def State.writesNow (s : State) : List (Nat × Word) → State
  | [] => s
  | w :: t => if s.lawReading then s.modHub fun h => { h with heldWrites := w :: t } else (s.writeNow w.1 w.2).writesNow t

/-- The writes that have waited, once the table is installed. -/
def State.releaseWrites (s : State) : State :=
  if s.hub.heldWrites.isEmpty || s.lawReading then s else (s.modHub fun h => { h with heldWrites := [] }).writesNow s.hub.heldWrites

/-- MGMT_REGISTER_WRITE -/
def execMgmtRegisterWrite (reg : Nat) (v : Word) (s : State) : Host.Outcome State Fault Refusal := .next (s.registerWrite reg v)

/-! ### Reading back (24_system.md R429)

A read of a management address gives one 8-byte word and changes nothing: reserved bits and write-only registers read as 0 (00_scope.md
R5). State without an offset of its own is read where it stands in `State` (log 76), a side-band word by `State.sideBand`. -/

/-- Two pointers of a ring: TAIL over HEAD. -/
def pointers (tail head : Nat) : Word := word (tail * 2 ^ 32 + head)

/-- VFCFG of a function (R419): RESET reads 1 until a reset ends. -/
def Vf.read (x : Vf) (off : Nat) : Word :=
  match off with
  | 0 => withFld x.ctl 62 1 x.resetting.toNat
  | 8 => x.eqBase
  | 16 => pointers x.eqTail x.eqHead
  | 24 => x.cqBase
  | 32 => pointers x.cqTail x.cqHead
  | 40 => x.cnt
  | _ => 0

/-- Registers of the hub in arrays: the cluster map (26_platform.md R447) and MEASURE (R449), LQCFG with COUNT (22_launch_estimate.md R370),
BUDCTL (R380), VFCFG (R419), the region file, and the hub's access table. -/
def State.hubArrayRead (s : State) (off : Nat) : Word :=
  if 0x0A00 ≤ off ∧ off < 0x0A40 then word (bitsOf s.hub.clusterMap ((off - 0x0A00) * 8) 64)
  else if 0x0A40 ≤ off ∧ off < 0x0A60 then word (dsc s.hub.boot.measured (off - 0x0A40) 8)
  else if 0x1000 ≤ off ∧ off < 0x3000 then
    let q := (off - 0x1000) / 8
    withFld (s.hub.queues.get q 0) 0 9 (s.queued q).length
  else if 0x3000 ≤ off ∧ off < 0x3400 then (s.vf ((off - 0x3000) / 8)).bud
  else if 0x4000 ≤ off ∧ off < 0x6000 then (s.vf ((off - 0x4000) / 64)).read (off % 64)
  else if regionOffset ≤ off ∧ off < regionOffset + 0x800000 then s.hub.regions.get ((off - regionOffset) / 8) 0
  else if accessOffset ≤ off ∧ off < accessOffset + 8192 then s.hub.access.get ((off - accessOffset) / 8) 0
  else 0

/-- Registers of the hub. -/
def State.hubRead (s : State) (off : Nat) : Word :=
  let h := s.hub
  match off with
  | 0x00 => h.tracker.ctl
  | 0x08 => h.tracker.hbm
  | 0x10 => h.tracker.cxl
  | 0x18 => h.tracker.stat
  | 0x0800 => h.pcmd
  | 0x0808 => h.pstat
  | 0x0810 => h.ktrap
  | 0x0818 => pointers h.ktrapTail h.ktrapHead
  | 0x0820 => h.keq
  | 0x0828 => pointers h.keqTail h.keqHead
  | 0x0830 => h.kmc
  | 0x0838 => pointers h.kmcTail h.kmcHead
  | 0x0840 => h.kmcLost
  | 0x0860 => h.nametab
  | 0x0868 => word h.issued
  | 0x0870 => word (h.issued / 2 ^ 64 % 65536)
  | 0x0878 => h.smap
  | 0x0880 => h.smapn
  | 0x0888 => h.klaw
  | 0x0890 => h.wincmd
  | 0x0898 => h.winstat
  | 0x08A0 => h.winblk
  | 0x08A8 => h.nameblk
  | 0x08B0 => h.namecmd
  | 0x08B8 => h.namestat
  | 0x0900 => h.trace.lba
  | 0x0908 => h.trace.cfg
  | 0x0910 => h.trace.stat
  | 0x0A60 => word (h.mhz * 2 ^ 48 + h.watts * 2 ^ 32 + h.tmax * 2 ^ 24 + h.trip.toNat)
  | 0x0A68 => h.boot.rejected
  | _ => s.hubArrayRead off

/-- Registers of a core (R422). -/
def State.coreRead (s : State) (core off : Nat) : Word :=
  if 0x8000 ≤ off ∧ off < 0x8100 then
    let x := s.ctx core ((off - 0x8000) / 64)
    match off % 64 with
    | 0x00 => x.recBase
    | 0x08 => x.famBase
    | 0x10 => x.regBase
    | 0x18 => x.saveBase
    | 0x20 => x.ctxErr
    | _ => 0
  else if off = thresholdOffset then word (s.core core).threshold
  else if off = thresholdOffset + 8 then word (s.core core).corrected
  else 0

/-- A row of a loss table (25_debug.md R439). -/
def LossRow.image (r : LossRow) : List Byte :=
  toBytes 4 r.key.toNat ++ toBytes 4 (r.valid.toNat + 2 * r.device.toNat + 4 * r.remote.toNat) ++ toBytes 8 r.count.toNat
    ++ toBytes 8 r.transit.toNat ++ toBytes 8 r.wait.toNat ++ toBytes 8 r.run.toNat ++ toBytes 4 r.transitMax.toNat ++ toBytes 4 r.waitMax.toNat
    ++ toBytes 4 r.runMax.toNat ++ toBytes 4 r.anomaly.toNat ++ List.replicate 8 0

/-- A row of a loss table: the key of the overflow row reads as all ones. -/
def Debug.lossRow (d : Debug) (i : Nat) : LossRow := d.loss.get i { key := if i = 64 then 0xFFFFFFFF else 0 }

/-- Registers of a cluster: its debug module (25_debug.md R431). -/
def State.clusterRead (s : State) (cl off : Nat) : Word :=
  let d := s.debug cl
  match off with
  | 0x100 => d.ctl
  | 0x108 => d.stat
  | 0x150 => d.trig
  | 0x158 => d.trcCtl
  | 0x160 => d.dmVal
  | 0x168 => d.dmCtl
  | 0x170 => d.lossCtl
  | _ =>
    if 0x110 ≤ off ∧ off < 0x150 then (if off % 16 = 0 then d.bpA else d.bpC).get ((off - 0x110) / 16) 0
    else if 0x200 ≤ off ∧ off < 0x200 + 64 * 65 then word (dsc (d.lossRow ((off - 0x200) / 64)).image (off % 64) 8)
    else if off = thresholdOffset then word (s.cluster cl).threshold
    else if off = thresholdOffset + 8 then word (s.cluster cl).corrected
    else 0

/-- Registers of a stack controller or of the tier controller, and its counters of corrected errors by channel. -/
def State.stackRead (s : State) (unit off : Nat) : Word :=
  let k := s.stack unit
  if accessOffset ≤ off ∧ off < accessOffset + 8192 then k.access.get ((off - accessOffset) / 8) 0
  else if off = thresholdOffset then word k.threshold
  else if thresholdOffset < off then word (k.corrected.get ((off - thresholdOffset) / 8 - 1) 0)
  else 0

/-- The word that a read of a register of a virtual function's page returns (26_platform.md R446). -/
def State.hostRead (s : State) (vf off : Nat) : Word :=
  let x := s.vf vf
  match off with
  | 0x088 => x.enqStat
  | 0x090 => nameLow x.lastName
  | 0x098 => word (x.lastName.toNat / 2 ^ 64)
  | 0x0A0 => x.read 16
  | 0x0A8 => x.read 32
  | _ => 0

/-- The word that a read of a management address returns. -/
def State.registerRead (s : State) (reg : Nat) : Word :=
  let unit := bitsOf reg 32 12
  let off := bitsOf reg 0 32
  if off % 8 ≠ 0 then 0
  else match bitsOf reg 44 4 with
    | 0 => s.hubRead off
    | 1 => s.coreRead unit off
    | 2 => s.clusterRead unit off
    | 3 => if unit < 16 then s.stackRead unit off else 0
    | 4 => s.stackRead 16 off
    | _ => 0

end Sys2Proof.Machine
end

