-- ==== Sys2Proof/Machine/Reply.lean ====
section
/-!
DEFINITION. Replies and acknowledgements (06_messages.md R103, 11_memory_access.md R199, R202): what each does for the register, the
posted request or the blocking instruction that waits for it, and for the units that send requests of their own.
-/
namespace Sys2Proof.Machine

/-! ### Statuses -/

/-- The status of a reply. -/
def replyStatus (m : Msg) : Nat := fld (m.payload.getD 0 0) 0 8

/-- The cause of a status that is not 0, by the kind of the request (R202, 17_tensed.md R315, 19_names.md R346). -/
def Far.cause (f : Far) (status : Nat) : Nat :=
  if f.kind = 0x38 then nameCause status
  else if f.kind = 0x34 then
    match status with
    | 4 => 0x82
    | 5 => 0x81
    | 6 => 0x88
    | st => statusCause st
  else statusCause status

/-- The address that a marker of a status holds: for `nmcas` the new address where the extent did not fit or its package is down, 0 where
the counter was used up, and for another name request to a package that is down the package's first global address. -/
def Far.markAddr (f : Far) (status : Nat) : Word :=
  if f.kind = 0x38 then
    (if status = 14 then f.ga else if status = 12 then 0 else if status = 3 then (if f.ga = 0 then chipBase f.chip else f.ga) else f.va)
  else f.va

/-! ### Fills and acknowledgements (R202) -/

/-- A non-blocking reply fills its destination, with a marker where it has a status. -/
def Slot.filled (sl : Slot) (f : Far) (m : Msg) : Slot :=
  let st := replyStatus m
  match f.use with
  | .fillX rd size count sg =>
    if st ≠ 0 then sl.markRegs false rd (f.cause st) (f.markAddr st) count
    else if count = 1 then sl.setX rd (extendBytes size sg (m.payload.getD 2 0).toNat)
    else sl.setXs rd ((m.payload.drop 2).take count)
  | .fillV rd =>
    if st ≠ 0 then sl.markReg true rd (f.cause st) (f.markAddr st)
    else sl.setV rd (BitVec.ofNat 512 (ofBytes (bytesOfWords ((m.payload.drop 2).take 8))))
  | _ => sl

/-- A failed acknowledgement of a posted request sends the notice 0x0010 to its context; an `econ` has its notice from its
estimator. -/
def State.postedAck (s : State) (k : Nat) (f : Far) (m : Msg) : State :=
  let st := replyStatus m
  if st = 0 || f.kind = 0x3F || f.kind = 0x32 then s
  else s.coreNotice (coreOf k) m.ctx.toNat m.launch 0x0010 (f.cause st) st f.va m.key (f.seq.setWidth 64)

/-- A far access that met poison at another package is recorded for the function of its context (12_main_memory.md R236, R238): its home
has the rings of its own package alone. DEDUCED, log 119. -/
def State.farPoison (s : State) (k : Nat) (f : Far) (m : Msg) : State :=
  if replyStatus m = 1 && f.chip != s.hub.chipId && decide (0x20 ≤ f.kind) && decide (f.kind ≤ 0x23) then
    let kind := if f.kind = 0x20 then 0x0001 else 0x0003
    let core := coreOf k
    if Config.firstMgmtCore ≤ core then s.kernelRecord (memoryRecord kind 0xFFFF f.unit (lineOf f.ga) s.ktick 0xFFF)
    else let vf := (s.ctx core f.ctx).vf; s.errorRecord vf (memoryRecord kind vf f.unit (lineOf f.ga) s.ktick core)
  else s

/-! ### The end of a blocking instruction -/

/-- The entry of a reply among those that a blocking instruction has: the global address with the status word, the virtual address, and
the data, or the sequence number where the status is not 0. -/
def gotEntry (f : Far) (m : Msg) : Nat × List Word :=
  (f.ga.toNat, m.payload.getD 0 0 :: f.va :: (if replyStatus m = 0 then m.payload.drop 2 else [f.seq.setWidth 64]))

/-- The failed reply whose request was sent first: its status and virtual address. -/
def firstFailure : List (Nat × List Word) → Option (Nat × Word × Nat)
  | [] => none
  | g :: t =>
    let st := fld (g.2.getD 0 0) 0 8
    let rest := firstFailure t
    if st = 0 then rest
    else
      let n := (g.2.getD 2 0).toNat
      match rest with
      | some (st', va', n') => if n' < n then some (st', va', n') else some (st, g.2.getD 1 0, n)
      | none => some (st, g.2.getD 1 0, n)

/-- The data words of a reply. -/
def gotData (g : Nat × List Word) : List Word := g.2.drop 2

/-- The line that a reply at a global address holds. -/
def gotLine (got : List (Nat × List Word)) (ga : Nat) : List Byte :=
  match got.find? fun g => g.1 == ga with
  | some g => bytesOfWords (gotData g)
  | none => []

/-- The element of a gather that lies at a global address. -/
def gotElem (got : List (Nat × List Word)) (bytes ga : Nat) : Nat := ofBytes (((gotLine got (ga / 64 * 64)).drop (ga % 64)).take bytes)

/-- The first data word. -/
def gotWord (got : List (Nat × List Word)) (i : Nat) : Word := match got with | g :: _ => (gotData g).getD i 0 | [] => 0

/-- `barinit` records the scope of a barrier in its name's class entry (15_sync.md R280). -/
def State.recordScope (s : State) (name : BitVec 128) (scope : Nat) : State :=
  s.modHub fun h => { h with scopes := (name, scope) :: h.scopes.filter fun e => e.1 != name }

/-- A barrier operation's answer at its slot (15_sync.md R279 to R287). The answer of a clause that has been killed changes its
registrations alone, which its implicit drops then follow. -/
def State.barrierDone (s : State) (k op rd : Nat) (name : BitVec 128) (f : Far) (number phase joined : Word) : State :=
  let killed := match (s.slot k).phase with | .exiting _ _ => true | _ => false
  let reg : Registration := { name := name, number := joined.toNat, ga := f.ga, unit := f.unit }
  let s :=
    if op = 0 then (s.modSlot k fun sl => { sl with clause := { sl.clause with regs := sl.clause.regs ++ [reg] } }).putRegs k
    else if op = 5 then (s.modSlot k fun sl => { sl with clause := { sl.clause with regs := sl.clause.regs.filter fun r => r.name != name } }).putRegs k
    else s
  if killed then s.modSlot k fun sl => { sl with wait := .none }
  else match op with
    | 0 => s.modSlot k fun sl => (sl.setX rd joined).complete
    | 4 => s.modSlot k fun sl => ((sl.setX rd phase).setAP true).again
    | 6 =>
      match s.issuer name with
      | .ok chip =>
        let p := namePayload opKill (s.ctx (coreOf k) (s.slot k).clause.ctx).vf (clusterOf (coreOf k)) name [0, 0, 0, 0, 1]
        (s.sendFar k 0x38 (s.nameUnit name) chip (nameLow name) 0 .blocking (p.length / 2) p).modSlot k fun sl =>
          { sl with wait := .blocked (.name opKill 0 name [number]) 1 [] }
      | _ => s.completeAt k
    | 1 => (s.recordScope name (fld number 12 2)).completeAt k
    | _ => s.modSlot k fun sl => (sl.setX rd phase).complete

/-- The answer of a blocking name operation (19_names.md R341): `kaddr` holds the offset where that is refused, else the name. -/
def State.nameDone (s : State) (k op rd : Nat) (name : BitVec 128) (args : List Word) (st : Nat) (w : Word) : State :=
  if op = opKill then s.completeAt k
  else if st ≠ 0 then s.trapAt k (nameCause st) (if st = 13 then args.getD 0 0 else if st = 3 then s.peerAddr name else nameLow name)
  else if op = opRead then s.modSlot k fun sl => (sl.setX rd w).complete
  else s.completeAt k

/-- A `launch` that the hub refuses leaves the counts as they were before its request: R400 has the refusals among the causes that the
word checks, and a word that raises one changes neither `kseq` nor `kreqx`. DEDUCED, log 26. -/
def State.uncount (s : State) (k : Nat) : State :=
  (s.modSlot k fun sl => { sl with kseq := sl.kseq - 1 }).modCore (coreOf k) fun c => { c with kreqx := c.kreqx - 1 }

/-- The answer of a hub request (17_tensed.md R316, R317, 22_launch_estimate.md R393, R394). -/
def State.hubDone (s : State) (k op rd : Nat) (f : Far) (st : Nat) (w0 w1 : Word) : State :=
  if op = hubLaunch then
    if st ≠ 0 then (s.uncount k).trapAt k st w0 else s.modSlot k fun sl => (sl.setXs rd [w0, w1]).complete
  else if st = 5 then s.trapAt k 0x81 f.va
  else if st ≠ 0 then s.trapAt k (statusCause st) f.va
  else if op = hubLawset then s.completeAt k
  else s.modSlot k fun sl => (sl.setX rd w0).complete

/-- The last reply of a blocking instruction has come: it completes, raises a cause, or goes on. -/
def State.finishBlock (s : State) (k : Nat) (b : Block) (got : List (Nat × List Word)) (f : Far) (m : Msg) : State :=
  let st := replyStatus m
  let plain := fun (done : State) =>
    match firstFailure got with
    | some (st, va, _) => s.trapAt k (statusCause st) va
    | none => done
  match b with
  | .load rd size sg => plain (s.modSlot k fun sl => (sl.setX rd (extendBytes size sg (gotWord got 0).toNat)).complete)
  | .store => plain (s.completeAt k)
  | .vload rd =>
    plain (s.modSlot k fun sl => (sl.setV rd (BitVec.ofNat 512 (ofBytes (bytesOfWords (((got.map gotData).flatten).take 8))))).complete)
  | .gather rd bytes addrs =>
    plain (s.modSlot k fun sl => (sl.setV rd (ofLanes (8 * bytes) (addrs.map fun a => gotElem got bytes a))).complete)
  | .tileLoad tile a fmt mask fresh _ =>
    match firstFailure got with
    | some (st, va, _) =>
      (if fresh then s.modCore (coreOf k) fun c => { c with claim := c.claim.del tile } else s).trapAt k (statusCause st) va
    | none => s.tileLoaded k tile a fmt mask (got.map fun g => (g.2.getD 1 0, ofBytes (bytesOfWords ((gotData g).take 8))))
  | .tileStore tile flags _ => plain (s.tileStored k tile flags)
  | .barrier op rd name number =>
    if st ≠ 0 then
      match (s.slot k).phase with
      | .exiting _ _ => s.modSlot k fun sl => { sl with wait := .none }
      | _ => let c := barrierCause st name f.ga number; s.trapAt k c.1 c.2
    else s.barrierDone k op rd name f number (word (fld (m.payload.getD 0 0) 16 32)) (m.payload.getD 2 0)
  | .hub op rd => s.hubDone k op rd f st (m.payload.getD 2 0) (m.payload.getD 3 0)
  | .descriptor => plain (s.modSlot k fun sl => { sl.again with fetched := sl.fetched ++ (if sl.fetched.isEmpty then (gotWords got).take 8 else (gotWords got).take 1) })
  | .name op rd name args => s.nameDone k op rd name args st (m.payload.getD 2 0)
  | .group rd g r base entry =>
    plain (if entry then s.modSlot k fun sl => (sl.setX rd (word ((gotWord got 0).toNat % 65536))).complete
      else match s.groupMember k rd g r base (bytesOfWords ((gotWords got).take 4)) with
        | .ok t => t
        | .trap c a => s.trapAt k c a
        | .stall => s.modSlot k Slot.again)
  | .estimator op rd =>
    plain (s.modSlot k fun sl => ((if op = estItem then sl.setXs rd ((gotWords got).take 2) else sl.setX rd (gotWord got 0))).complete)
  | .resolve _ _ => s
  | .system _ _ => s
where
  /-- The data words of the first reply. -/
  gotWords (got : List (Nat × List Word)) : List Word := match got with | g :: _ => gotData g | [] => []

/-- The lines of a far tile that are still to be sent leave, as far as the slot may send. -/
def State.sendRest (s : State) (k : Nat) (b : Block) : State × Block :=
  match b with
  | .tileLoad tile a fmt mask fresh rest =>
    let r := s.sendLines k false rest.length rest
    (r.1, .tileLoad tile a fmt mask fresh r.2)
  | .tileStore tile flags rest =>
    let r := s.sendLines k true rest.length rest
    (r.1, .tileStore tile flags r.2)
  | b => (s, b)

/-- A reply to a request of the instruction at which a slot stands. -/
def State.blockReply (s : State) (k : Nat) (f : Far) (m : Msg) : State :=
  match (s.slot k).wait with
  | .blocked b left got =>
    let got := got ++ [gotEntry f m]
    if left ≤ 1 then s.finishBlock k b got f m
    else
      let r := s.sendRest k b
      r.1.modSlot k fun sl => { sl with wait := .blocked r.2 (left - 1) got }
  | _ => s

/-! ### Replies at slots and units -/

/-- A reply whose tag names a slot: what asked for it gets it, or nothing where its clause has ended or been killed (R103, 04_encoding.md
R65); a barrier's answer reaches a clause that ends (15_sync.md R286). -/
def State.slotReply (s : State) (m : Msg) : State :=
  let k := replySlot m.tag
  let gen := tagGen m.tag
  match (s.slot k).far.find? fun f => f.gen == gen && f.seq == m.seq with
  | none => s
  | some f =>
    let s := (s.answered k gen f.seq).farPoison k f m
    let s := match f.name with | some n => s.drained (clusterOf (coreOf k)) n | none => s
    let sl := s.slot k
    let own := sl.takes gen || (gen == sl.gen && sl.phase != .free && f.kind == 0x32)
    match f.use with
    | .posted => (if f.kind = 0x31 then s.portFree f.ga else s).postedAck k f m
    | .blocking => if own then s.blockReply k f m else s.countStale k gen f.ctx
    | _ => if own then s.modSlot k fun sl => sl.filled f m else s.countStale k gen f.ctx

/-- A reply whose tag names no slot: it goes to the engine, the hub, the estimator, the fetch port, the resolving cluster or the name
unit that sent the request. -/
def State.unitReply (s : State) (m : Msg) : State :=
  let kind := m.kind.toNat
  match tagEngine m.tag with
  | some e => s.engineAnswer e m
  | none =>
    if tagHub m.tag then
      match tagEst m.tag with
      | some e =>
        if kind = 0x39 then s.launchBound m.window
        else if kind = 0x29 then (s.modEst e fun x => { x with writing := false }).post (.launchCompletion (s.est e).launch) else s
      | none =>
        if m.tag = tableTag && kind == 0x28 then s.tableLineCame m.window (replyStatus m) (bytesOfWords (m.payload.drop 2))
        else if kind = 0x28 then s.hubLineCame m.window (replyStatus m) (bytesOfWords (m.payload.drop 2))
        else if kind = 0x39 then s.nameResult (replyStatus m)
        else s
    else if kind = 0x39 then s.resolveReply m
    else if bitOf m.tag.toNat 17 then (if kind = 0x28 then s.farLineCame m else s)
    else if kind = 0x28 || kind = 0x29 then s.relay m.tag.toNat m (replyStatus m) (m.payload.getD 2 0)
    else s

/-- A reply arrives. Those of a reproducible launch are parked until its window closes (R204). An answer to an implicit drop names a
record. -/
def State.replyArrives (s : State) (m : Msg) : State :=
  match tagKind m.tag with
  | 2 =>
    let m := match (s.slot (tagSlotKey m.tag)).far.find? fun f => f.gen == tagGen m.tag && f.seq == m.seq with
      | some f => { m with launch := f.launch, window := f.window }
      | none => m
    s.orPark m fun s => s.slotReply m
  | 3 => s.dropAcked (tagCore m.tag) m.ctx.toNat (tagIndex m.tag)
  | 0 => if tagMgmt m.tag then s.slotReply m else s.unitReply m
  | _ => s

/-- READ_REPLY (kind 0x28) -/
def execReadReply (m : Msg) (s : State) : Host.Outcome State Fault Refusal := .next (s.replyArrives m)

/-- WRITE_ACKNOWLEDGEMENT (kind 0x29) -/
def execWriteAcknowledgement (m : Msg) (s : State) : Host.Outcome State Fault Refusal := .next (s.replyArrives m)

/-- NEAR_MEMORY_REPLY (kind 0x33) -/
def execNearMemoryReply (m : Msg) (s : State) : Host.Outcome State Fault Refusal := .next (s.replyArrives m)

/-- TENSED_REPLY (kind 0x35) -/
def execTensedReply (m : Msg) (s : State) : Host.Outcome State Fault Refusal := .next (s.replyArrives m)

/-- HUB_REPLY (kind 0x37) -/
def execHubReply (m : Msg) (s : State) : Host.Outcome State Fault Refusal := .next (s.replyArrives m)

/-- NAME_REPLY (kind 0x39) -/
def execNameReply (m : Msg) (s : State) : Host.Outcome State Fault Refusal := .next (s.replyArrives m)

/-- QUERY_REPLY (kind 0x3E) -/
def execQueryReply (m : Msg) (s : State) : Host.Outcome State Fault Refusal := .next (s.replyArrives m)

end Sys2Proof.Machine
end

