-- ==== Sys2Proof/Machine/Repro.lean ====
section
/-!
DEFINITION. The close of a delivery window of a reproducible launch (06_messages.md R120 to R122, 11_memory_access.md R204,
17_tensed.md R301).
-/
namespace Sys2Proof.Machine

/-! ### When a window may close (R120) -/

/-- The slots that hold a clause of a launch. -/
def State.launchSlots (s : State) (n : Nat) : List Nat :=
  (s.slots.filter fun (e : Nat × Slot) => e.2.phase != .free && e.2.clause.launch == n).map fun (e : Nat × Slot) => e.1

/-- A request of a slot whose reply, or which itself, is parked until the window closes. -/
def Launch.defers (l : Launch) (k : Nat) (f : Far) : Bool :=
  l.parked.any fun m => m.tag &&& 0xFFF03FFF == regTag f.gen false 0 (k % 4) (coreOf k) &&& 0xFFF03FFF && m.seq == f.seq

/-- A request of a slot waits at its estimator for a position, which contributions of later windows may free (22_launch_estimate.md
R391). -/
def State.waitsItem (s : State) (f : Far) : Bool :=
  f.kind == 0x3F && (s.est (f.unit - 32)).waiting.any fun m => m.seq == f.seq && tagGen m.tag == f.gen

/-- A clause of a launch holds no window open for a reason of its own: its slot is not frozen or halted, and what its requests bring
is deferred to the next window. -/
def State.deferred (s : State) (n k : Nat) : Bool :=
  let sl := s.slot k
  let l := s.launch n
  sl.phase != .frozen && !s.stopped k && (sl.farNow.all fun f => l.defers k f || s.waitsItem f)
    && sl.nearFills.isEmpty
    && (match sl.wait with
        | .blocked _ _ _ => !sl.farNow.isEmpty
        | .none => true
        | _ => false)

/-- The contexts that hold a launch, by core. -/
def State.launchContexts (s : State) (n : Nat) : List (Nat × Nat) := s.contexts.filter fun x => (s.ctx x.1 x.2).launch == n && (s.ctx x.1 x.2).assigned

/-- A context has a clause that is RUNNABLE and bound to no slot, or an item that its window dispatches: they hold the window open,
pre-empted ones too. -/
def State.hasWork (s : State) (core c : Nat) : Bool :=
  let x := s.ctx core c
  if x.saved then !x.savedPool.isEmpty || !x.savedMsgs.isEmpty else (s.listReady core c).isSome

/-- A window of a launch may close as far as its messages and requests go: every message of it has arrived, all start messages are
sent, no clause waits for a slot, no cluster of it is halted (25_debug.md R433), and no clause has a request out that is not deferred. -/
def State.windowReady (s : State) (n : Nat) : Bool :=
  let l := s.launch n
  l.repro && l.state == 2 && !l.killing && !l.opening && l.started == l.starts
    && ((s.launchContexts n).all fun x => !s.hasWork x.1 x.2 && !(s.debug (clusterOf x.1)).halted)
    && (s.launchSlots n).all fun k => s.deferred n k

/-! ### What a close brings about -/

/-- A message joins a list sorted by R121. -/
def insertMsg (m : Msg) : List Msg → List Msg
  | [] => [m]
  | x :: t => if before (sortKey m) (sortKey x) then m :: x :: t else x :: insertMsg m t

/-- The messages of a list in the order of R121. -/
def sortMsgs (ms : List Msg) : List Msg := ms.foldr insertMsg []

/-- A request that a unit performs, and a reply. -/
def isUnitOp (m : Msg) : Bool := m.kind == 0x25 || (0x30 ≤ m.kind.toNat && (requestEvent m).isSome)
def isReply (m : Msg) : Bool := m.kind == 0x01 || m.kind == 0x28 || m.kind == 0x29 || (0x30 ≤ m.kind.toNat && (requestEvent m).isNone)

/-- The parked messages as they take effect: operations of units, replies, then messages for cores, each in the order of R121. -/
def inEffect (ms : List Msg) : List Msg :=
  let s := sortMsgs ms
  (s.filter isUnitOp) ++ (s.filter isReply) ++ s.filter fun m => !isUnitOp m && !isReply m

/-- A channel at the start of a window: its dispatch sees the bits as they stand. -/
def Chan.opened (c : Chan) : Chan := { c with seen := c.enable, seenPending := c.pending }

/-- A context as a window begins (R122): what its dispatch sees of its channels, without the entries of channels that were pended
without a message. -/
def Ctx.opened (x : Ctx) : Ctx :=
  let kept := x.pool.filter fun p =>
    match p.kind with
    | .channel _ => p.msg.kind != 0xFF
    | _ => true
  { x with chans := x.chans.map fun (e : Nat × Chan) => (e.1, e.2.opened), pool := kept }

/-- The watches of a launch are compared with their words (R204). -/
def State.windowWatches (s : State) (n : Nat) : State :=
  let hit := fun (m : Msg) => m.launch == n && s.fires m
  let ws := (s.stackTab.map fun (e : Nat × Stack) => (e.2.watches ++ e.2.spill).filter hit).flatten
  { s with stackTab := s.stackTab.map fun (e : Nat × Stack) =>
      (e.1, { e.2 with watches := e.2.watches.filter fun m => !hit m, spill := e.2.spill.filter fun m => !hit m }) }.fireAll ws

/-- A message takes effect in the window in which it arrives. -/
def State.effective (s : State) (n : Nat) (m : Msg) : Bool := m.launch == n && !s.parks m

/-- A message of an earlier window of a launch still waits in a core's outbound queue. -/
def State.outLate (s : State) (n : Nat) : Bool :=
  s.cores.any fun (e : Nat × Core) => e.2.outq.any fun o => s.effective n o.msg

/-- The dispatch of a window begins: what took effect at its start has arrived, and each core sees its whole list. -/
def State.openWindow (s : State) (n : Nat) : State :=
  let s := s.modLaunch n fun l => { l with opening := false }
  let cs := s.launchContexts n
  let s := cs.foldl (fun s x => if (s.ctx x.1 x.2).saved then s else s.modCtx x.1 x.2 Ctx.withBare) s
  cs.foldl (fun s x => s.wake x.1) s

/-- The windows whose last parked message has arrived are opened. Structural on the launches. -/
def State.openWindows (s : State) : List (Nat × Launch) → State
  | [] => s
  | e :: t => (if e.2.opening && !(s.net.any fun m => s.effective e.1 m) && !s.outLate e.1 then s.openWindow e.1 else s).openWindows t

/-- DELIVERY_WINDOW_CLOSE: window k closes, and window k + 1 begins with what was parked. -/
def State.closeWindow (s : State) (n : Nat) : State :=
  let l := s.launch n
  let s := s.setLaunch n { l with window := l.window + 1, parked := [], opening := true }
  let s := { s with srcSeq := s.srcSeq.keep fun k _ => k / 2 ^ 48 != n }
  let s := s.windowWatches n
  let s := s.fireWindow l.vf n l.window ((s.stackTab.map fun (e : Nat × Stack) => e.2.alarms.length).foldl (· + ·) 0 + 4096)
  let s := (s.launchContexts n).foldl (fun s x => s.modCtx x.1 x.2 Ctx.opened) s
  { s with net := s.net ++ inEffect l.parked }

/-- DELIVERY_WINDOW_CLOSE: a window that may not close stays open. -/
def execDeliveryWindowClose (launch : Nat) (s : State) : Host.Outcome State Fault Refusal :=
  .next (if s.windowReady launch then s.closeWindow launch else s)

end Sys2Proof.Machine
end

