-- ==== Sys2Proof/Machine/Dispatch.lean ====
section
/-!
DEFINITION. The meaning of every instruction and event, one arm for each row of the opcode table.
-/
namespace Sys2Proof.Machine

def exec (i : Instr) (s : State) : Host.Outcome State Fault Refusal :=
  match i with
  | .baseAlu op => Sys2Proof.Machine.execBaseAlu op s
  | .baseMulDiv op rd rs1 rs2 => Sys2Proof.Machine.execBaseMulDiv op rd rs1 rs2 s
  | .baseLoad op rd rs1 imm => Sys2Proof.Machine.execBaseLoad op rd rs1 imm s
  | .baseStore op rs1 rs2 imm => Sys2Proof.Machine.execBaseStore op rs1 rs2 imm s
  | .baseBranch op rs1 rs2 imm => Sys2Proof.Machine.execBaseBranch op rs1 rs2 imm s
  | .jal rd imm => Sys2Proof.Machine.execJal rd imm s
  | .jalr rd rs1 imm => Sys2Proof.Machine.execJalr rd rs1 imm s
  | .baseFence rd rs1 imm => Sys2Proof.Machine.execBaseFence rd rs1 imm s
  | .zicsr op rd rs1 csr => Sys2Proof.Machine.execZicsr op rd rs1 csr s
  | .illegalEncoding w => Sys2Proof.Machine.execIllegalEncoding w s
  | .fetchLineDelivery cluster => Sys2Proof.Machine.execFetchLineDelivery cluster s
  | .watchdog slot => Sys2Proof.Machine.execWatchdog slot s
  | .trapRingEntry slot => Sys2Proof.Machine.execTrapRingEntry slot s
  | .vaddF k => Sys2Proof.Machine.execVaddF k s
  | .vsubF k => Sys2Proof.Machine.execVsubF k s
  | .vmulF k => Sys2Proof.Machine.execVmulF k s
  | .vfma k => Sys2Proof.Machine.execVfma k s
  | .vfms k => Sys2Proof.Machine.execVfms k s
  | .vminF k => Sys2Proof.Machine.execVminF k s
  | .vmaxF k => Sys2Proof.Machine.execVmaxF k s
  | .vabsF k => Sys2Proof.Machine.execVabsF k s
  | .vrcp k => Sys2Proof.Machine.execVrcp k s
  | .vrsq k => Sys2Proof.Machine.execVrsq k s
  | .vexp2 k => Sys2Proof.Machine.execVexp2 k s
  | .vlog2 k => Sys2Proof.Machine.execVlog2 k s
  | .vaddI k => Sys2Proof.Machine.execVaddI k s
  | .vsubI k => Sys2Proof.Machine.execVsubI k s
  | .vmulI k => Sys2Proof.Machine.execVmulI k s
  | .vminI k => Sys2Proof.Machine.execVminI k s
  | .vmaxI k => Sys2Proof.Machine.execVmaxI k s
  | .vminN k => Sys2Proof.Machine.execVminN k s
  | .vmaxN k => Sys2Proof.Machine.execVmaxN k s
  | .vabsI k => Sys2Proof.Machine.execVabsI k s
  | .vcmpEqF k => Sys2Proof.Machine.execVcmpEqF k s
  | .vcmpNeF k => Sys2Proof.Machine.execVcmpNeF k s
  | .vcmpLtF k => Sys2Proof.Machine.execVcmpLtF k s
  | .vcmpLeF k => Sys2Proof.Machine.execVcmpLeF k s
  | .vredF k => Sys2Proof.Machine.execVredF k s
  | .vtopk k => Sys2Proof.Machine.execVtopk k s
  | .vgth k => Sys2Proof.Machine.execVgth k s
  | .vsct k => Sys2Proof.Machine.execVsct k s
  | .vcmpEqI k => Sys2Proof.Machine.execVcmpEqI k s
  | .vcmpNeI k => Sys2Proof.Machine.execVcmpNeI k s
  | .vcmpLtI k => Sys2Proof.Machine.execVcmpLtI k s
  | .vcmpLeI k => Sys2Proof.Machine.execVcmpLeI k s
  | .vcmpLtN k => Sys2Proof.Machine.execVcmpLtN k s
  | .vcmpLeN k => Sys2Proof.Machine.execVcmpLeN k s
  | .vredI k => Sys2Proof.Machine.execVredI k s
  | .vand k => Sys2Proof.Machine.execVand k s
  | .vor k => Sys2Proof.Machine.execVor k s
  | .vxor k => Sys2Proof.Machine.execVxor k s
  | .vsel k => Sys2Proof.Machine.execVsel k s
  | .vshl k => Sys2Proof.Machine.execVshl k s
  | .vshr k => Sys2Proof.Machine.execVshr k s
  | .vsra k => Sys2Proof.Machine.execVsra k s
  | .vsclCompute k => Sys2Proof.Machine.execVsclCompute k s
  | .vsclApply k => Sys2Proof.Machine.execVsclApply k s
  | .vperm k => Sys2Proof.Machine.execVperm k s
  | .vbcast k => Sys2Proof.Machine.execVbcast k s
  | .vext k => Sys2Proof.Machine.execVext k s
  | .vins k => Sys2Proof.Machine.execVins k s
  | .viota k => Sys2Proof.Machine.execViota k s
  | .vcvt k => Sys2Proof.Machine.execVcvt k s
  | .vpack k => Sys2Proof.Machine.execVpack k s
  | .vunpk k => Sys2Proof.Machine.execVunpk k s
  | .vld l => Sys2Proof.Machine.execVld l s
  | .vst l => Sys2Proof.Machine.execVst l s
  | .fmt payload => Sys2Proof.Machine.execFmt payload s
  | .mzero k => Sys2Proof.Machine.execMzero k s
  | .mlb k => Sys2Proof.Machine.execMlb k s
  | .mring k => Sys2Proof.Machine.execMring k s
  | .mpass k => Sys2Proof.Machine.execMpass k s
  | .mld k => Sys2Proof.Machine.execMld k s
  | .mst k => Sys2Proof.Machine.execMst k s
  | .mgeo k => Sys2Proof.Machine.execMgeo k s
  | .mmaReg k => Sys2Proof.Machine.execMmaReg k s
  | .mmaImm latch l => Sys2Proof.Machine.execMmaImm latch l s
  | .mmaStep slot => Sys2Proof.Machine.execMmaStep slot s
  | .latchTransferArrival core ctx latch => Sys2Proof.Machine.execLatchTransferArrival core ctx latch s
  | .shadowApply core ctx latch => Sys2Proof.Machine.execShadowApply core ctx latch s
  | .cpy k => Sys2Proof.Machine.execCpy k s
  | .xfer k => Sys2Proof.Machine.execXfer k s
  | .cpyw k => Sys2Proof.Machine.execCpyw k s
  | .cpyq k => Sys2Proof.Machine.execCpyq k s
  | .cpystop k => Sys2Proof.Machine.execCpystop k s
  | .engineCommandStart engine => Sys2Proof.Machine.execEngineCommandStart engine s
  | .engineRow engine => Sys2Proof.Machine.execEngineRow engine s
  | .chunkArrival engine => Sys2Proof.Machine.execChunkArrival engine s
  | .launch k => Sys2Proof.Machine.execLaunch k s
  | .lstat k => Sys2Proof.Machine.execLstat k s
  | .lkill k => Sys2Proof.Machine.execLkill k s
  | .eitem k => Sys2Proof.Machine.execEitem k s
  | .econ k => Sys2Proof.Machine.execEcon k s
  | .estat k => Sys2Proof.Machine.execEstat k s
  | .sresume k => Sys2Proof.Machine.execSresume k s
  | .skill k => Sys2Proof.Machine.execSkill k s
  | .sqkill k => Sys2Proof.Machine.execSqkill k s
  | .tlbinv k => Sys2Proof.Machine.execTlbinv k s
  | .dpitset k => Sys2Proof.Machine.execDpitset k s
  | .trc k => Sys2Proof.Machine.execTrc k s
  | .dmark k => Sys2Proof.Machine.execDmark k s
  | .send k => Sys2Proof.Machine.execSend k s
  | .sendr k => Sys2Proof.Machine.execSendr k s
  | .reply k => Sys2Proof.Machine.execReply k s
  | .hen k => Sys2Proof.Machine.execHen k s
  | .hdis k => Sys2Proof.Machine.execHdis k s
  | .hpend k => Sys2Proof.Machine.execHpend k s
  | .hclr k => Sys2Proof.Machine.execHclr k s
  | .hhdr k => Sys2Proof.Machine.execHhdr k s
  | .susp k => Sys2Proof.Machine.execSusp k s
  | .yield k => Sys2Proof.Machine.execYield k s
  | .spawn k => Sys2Proof.Machine.execSpawn k s
  | .join k => Sys2Proof.Machine.execJoin k s
  | .exit k => Sys2Proof.Machine.execExit k s
  | .suspensionCommit slot => Sys2Proof.Machine.execSuspensionCommit slot s
  | .exitCommit slot => Sys2Proof.Machine.execExitCommit slot s
  | .gld sub l => Sys2Proof.Machine.execGld sub l s
  | .gvld l => Sys2Proof.Machine.execGvld l s
  | .gst sub o => Sys2Proof.Machine.execGst sub o s
  | .gvst o => Sys2Proof.Machine.execGvst o s
  | .nmnew k => Sys2Proof.Machine.execNmnew k s
  | .nmres k => Sys2Proof.Machine.execNmres k s
  | .nmcas k => Sys2Proof.Machine.execNmcas k s
  | .nmkill k => Sys2Proof.Machine.execNmkill k s
  | .nmld k => Sys2Proof.Machine.execNmld k s
  | .nmst k => Sys2Proof.Machine.execNmst k s
  | .nmstat k => Sys2Proof.Machine.execNmstat k s
  | .twld k => Sys2Proof.Machine.execTwld k s
  | .twadd k => Sys2Proof.Machine.execTwadd k s
  | .twset k => Sys2Proof.Machine.execTwset k s
  | .twarm k => Sys2Proof.Machine.execTwarm k s
  | .twdis k => Sys2Proof.Machine.execTwdis k s
  | .twpred k => Sys2Proof.Machine.execTwpred k s
  | .lawset k => Sys2Proof.Machine.execLawset k s
  | .lawget k => Sys2Proof.Machine.execLawget k s
  | .qbind k => Sys2Proof.Machine.execQbind k s
  | .qrd k => Sys2Proof.Machine.execQrd k s
  | .qrdv k => Sys2Proof.Machine.execQrdv k s
  | .qstat k => Sys2Proof.Machine.execQstat k s
  | .waitv k => Sys2Proof.Machine.execWaitv k s
  | .gpf k => Sys2Proof.Machine.execGpf k s
  | .mhint k => Sys2Proof.Machine.execMhint k s
  | .mqry k => Sys2Proof.Machine.execMqry k s
  | .tbadv k => Sys2Proof.Machine.execTbadv k s
  | .amoAdd k => Sys2Proof.Machine.execAmoAdd k s
  | .amoMin k => Sys2Proof.Machine.execAmoMin k s
  | .amoMax k => Sys2Proof.Machine.execAmoMax k s
  | .amoAnd k => Sys2Proof.Machine.execAmoAnd k s
  | .amoOr k => Sys2Proof.Machine.execAmoOr k s
  | .amoXor k => Sys2Proof.Machine.execAmoXor k s
  | .amoSwap k => Sys2Proof.Machine.execAmoSwap k s
  | .amocas k => Sys2Proof.Machine.execAmocas k s
  | .red k => Sys2Proof.Machine.execRed k s
  | .fen k => Sys2Proof.Machine.execFen k s
  | .own k => Sys2Proof.Machine.execOwn k s
  | .ownw k => Sys2Proof.Machine.execOwnw k s
  | .barjoin k => Sys2Proof.Machine.execBarjoin k s
  | .barinit k => Sys2Proof.Machine.execBarinit k s
  | .bararr k => Sys2Proof.Machine.execBararr k s
  | .barwait k => Sys2Proof.Machine.execBarwait k s
  | .baraw k => Sys2Proof.Machine.execBaraw k s
  | .bardrop k => Sys2Proof.Machine.execBardrop k s
  | .barinv k => Sys2Proof.Machine.execBarinv k s
  | .grp k => Sys2Proof.Machine.execGrp k s
  | .fadd k => Sys2Proof.Machine.execFadd k s
  | .fsub k => Sys2Proof.Machine.execFsub k s
  | .fmul k => Sys2Proof.Machine.execFmul k s
  | .fma k => Sys2Proof.Machine.execFma k s
  | .fdiv k => Sys2Proof.Machine.execFdiv k s
  | .fsqrt k => Sys2Proof.Machine.execFsqrt k s
  | .fmin k => Sys2Proof.Machine.execFmin k s
  | .fmax k => Sys2Proof.Machine.execFmax k s
  | .fcmp k => Sys2Proof.Machine.execFcmp k s
  | .fcvt k => Sys2Proof.Machine.execFcvt k s
  | .min k => Sys2Proof.Machine.execMin k s
  | .max k => Sys2Proof.Machine.execMax k s
  | .clz k => Sys2Proof.Machine.execClz k s
  | .ctz k => Sys2Proof.Machine.execCtz k s
  | .cpop k => Sys2Proof.Machine.execCpop k s
  | .csel k => Sys2Proof.Machine.execCsel k s
  | .loopi k l => Sys2Proof.Machine.execLoopi k l s
  | .align l => Sys2Proof.Machine.execAlign l s
  | .alignRelease slot => Sys2Proof.Machine.execAlignRelease slot s
  | .rolImm l => Sys2Proof.Machine.execRolImm l s
  | .rorImm l => Sys2Proof.Machine.execRorImm l s
  | .loop k => Sys2Proof.Machine.execLoop k s
  | .bfx k => Sys2Proof.Machine.execBfx k s
  | .bfi k => Sys2Proof.Machine.execBfi k s
  | .rol k => Sys2Proof.Machine.execRol k s
  | .ror k => Sys2Proof.Machine.execRor k s
  | .handlerMessage m => Sys2Proof.Machine.execHandlerMessage m s
  | .handlerDispatch slot => Sys2Proof.Machine.execHandlerDispatch slot s
  | .messageDeparture core => Sys2Proof.Machine.execMessageDeparture core s
  | .registerReply m => Sys2Proof.Machine.execRegisterReply m s
  | .resume m => Sys2Proof.Machine.execResume m s
  | .spawnMessage m => Sys2Proof.Machine.execSpawnMessage m s
  | .exitReport m => Sys2Proof.Machine.execExitReport m s
  | .launchStart m => Sys2Proof.Machine.execLaunchStart m s
  | .crossing m => Sys2Proof.Machine.execCrossing m s
  | .copyArrival m => Sys2Proof.Machine.execCopyArrival m s
  | .estimatorItem m => Sys2Proof.Machine.execEstimatorItem m s
  | .trapReport m => Sys2Proof.Machine.execTrapReport m s
  | .errorNotice m => Sys2Proof.Machine.execErrorNotice m s
  | .peerDownNotice m => Sys2Proof.Machine.execPeerDownNotice m s
  | .readRequest m => Sys2Proof.Machine.execReadRequest m s
  | .writeRequest m => Sys2Proof.Machine.execWriteRequest m s
  | .writeRelease m => Sys2Proof.Machine.execWriteRelease m s
  | .writeSc m => Sys2Proof.Machine.execWriteSc m s
  | .prefetchRequest m => Sys2Proof.Machine.execPrefetchRequest m s
  | .watchRequest m => Sys2Proof.Machine.execWatchRequest m s
  | .watchSpillReread stack => Sys2Proof.Machine.execWatchSpillReread stack s
  | .readReply m => Sys2Proof.Machine.execReadReply m s
  | .writeAcknowledgement m => Sys2Proof.Machine.execWriteAcknowledgement m s
  | .atomicRequest m => Sys2Proof.Machine.execAtomicRequest m s
  | .reductionRequest m => Sys2Proof.Machine.execReductionRequest m s
  | .barrierOperation m => Sys2Proof.Machine.execBarrierOperation m s
  | .nearMemoryReply m => Sys2Proof.Machine.execNearMemoryReply m s
  | .tensedRequest m => Sys2Proof.Machine.execTensedRequest m s
  | .tensedReply m => Sys2Proof.Machine.execTensedReply m s
  | .hubRequest m => Sys2Proof.Machine.execHubRequest m s
  | .hubReply m => Sys2Proof.Machine.execHubReply m s
  | .nameRequest m => Sys2Proof.Machine.execNameRequest m s
  | .nameReply m => Sys2Proof.Machine.execNameReply m s
  | .shootDown m => Sys2Proof.Machine.execShootDown m s
  | .shootDownDrain cluster unit name => Sys2Proof.Machine.execShootDownDrain cluster unit name s
  | .hintRequest m => Sys2Proof.Machine.execHintRequest m s
  | .queryRequest m => Sys2Proof.Machine.execQueryRequest m s
  | .queryReply m => Sys2Proof.Machine.execQueryReply m s
  | .estimatorRequest m => Sys2Proof.Machine.execEstimatorRequest m s
  | .estimatorHandout est => Sys2Proof.Machine.execEstimatorHandout est s
  | .deliveryWindowClose launch => Sys2Proof.Machine.execDeliveryWindowClose launch s
  | .forwardingEntryWrite slot => Sys2Proof.Machine.execForwardingEntryWrite slot s
  | .alarm stack => Sys2Proof.Machine.execAlarm stack s
  | .sweepTouch ga => Sys2Proof.Machine.execSweepTouch ga s
  | .budgetChargeReport core ctx => Sys2Proof.Machine.execBudgetChargeReport core ctx s
  | .dispatchDecision part vf => Sys2Proof.Machine.execDispatchDecision part vf s
  | .launchExpiryScan part vf => Sys2Proof.Machine.execLaunchExpiryScan part vf s
  | .moveBeginNotice page home => Sys2Proof.Machine.execMoveBeginNotice page home s
  | .moveCopy page => Sys2Proof.Machine.execMoveCopy page s
  | .heatWriteback stack => Sys2Proof.Machine.execHeatWriteback stack s
  | .triggerLinePulse line => Sys2Proof.Machine.execTriggerLinePulse line s
  | .traceSample cluster => Sys2Proof.Machine.execTraceSample cluster s
  | .launchCompletion launch => Sys2Proof.Machine.execLaunchCompletion launch s
  | .nameOperationCommit unit name => Sys2Proof.Machine.execNameOperationCommit unit name s
  | .budgetCrossing m => Sys2Proof.Machine.execBudgetCrossing m s
  | .contextSave core ctx => Sys2Proof.Machine.execContextSave core ctx s
  | .tableWalk core asid va => Sys2Proof.Machine.execTableWalk core asid va s
  | .implicitDrop slot => Sys2Proof.Machine.execImplicitDrop slot s
  | .estimatorStop est => Sys2Proof.Machine.execEstimatorStop est s
  | .pageMove page entry => Sys2Proof.Machine.execPageMove page entry s
  | .patrolScrub atom errors => Sys2Proof.Machine.execPatrolScrub atom errors s
  | .fabricCombine window m => Sys2Proof.Machine.execFabricCombine window m s
  | .contributorWithdrawal window chip => Sys2Proof.Machine.execContributorWithdrawal window chip s
  | .peerDownEvent chip reason => Sys2Proof.Machine.execPeerDownEvent chip reason s
  | .tlbInvalidation unit m => Sys2Proof.Machine.execTlbInvalidation unit m s
  | .machineCheckRecord r => Sys2Proof.Machine.execMachineCheckRecord r s
  | .hostEnqueue vf queue packet => Sys2Proof.Machine.execHostEnqueue vf queue packet s
  | .pcmdAssign cmd => Sys2Proof.Machine.execPcmdAssign cmd s
  | .pcmdRelease cmd => Sys2Proof.Machine.execPcmdRelease cmd s
  | .pcmdMerge cmd => Sys2Proof.Machine.execPcmdMerge cmd s
  | .pcmdShrink cmd => Sys2Proof.Machine.execPcmdShrink cmd s
  | .vfReset vf => Sys2Proof.Machine.execVfReset vf s
  | .nametabWrite v => Sys2Proof.Machine.execNametabWrite v s
  | .smapnWrite v => Sys2Proof.Machine.execSmapnWrite v s
  | .klawWrite v => Sys2Proof.Machine.execKlawWrite v s
  | .namecmdNew => Sys2Proof.Machine.execNamecmdNew s
  | .namecmdCas => Sys2Proof.Machine.execNamecmdCas s
  | .namecmdKill => Sys2Proof.Machine.execNamecmdKill s
  | .wincmdDeclare window => Sys2Proof.Machine.execWincmdDeclare window s
  | .wincmdRedeclare window => Sys2Proof.Machine.execWincmdRedeclare window s
  | .wincmdRemove window => Sys2Proof.Machine.execWincmdRemove window s
  | .mgmtRegisterWrite reg v => Sys2Proof.Machine.execMgmtRegisterWrite reg v s
  | .debugHaltreq cluster => Sys2Proof.Machine.execDebugHaltreq cluster s
  | .debugResume cluster => Sys2Proof.Machine.execDebugResume cluster s
  | .debugStep cluster core slot => Sys2Proof.Machine.execDebugStep cluster core slot s
  | .lossTableClear cluster => Sys2Proof.Machine.execLossTableClear cluster s
  | .traceSegmentSeal => Sys2Proof.Machine.execTraceSegmentSeal s
  | .packageReset => Sys2Proof.Machine.execPackageReset s
  | .mgmtResetCommand frame => Sys2Proof.Machine.execMgmtResetCommand frame s
  | .mgmtConfigurationWrite frame => Sys2Proof.Machine.execMgmtConfigurationWrite frame s
  | .mgmtAttestationRequest frame => Sys2Proof.Machine.execMgmtAttestationRequest frame s
  | .bootImageFetch image => Sys2Proof.Machine.execBootImageFetch image s
  | .entropyHealthFailure => Sys2Proof.Machine.execEntropyHealthFailure s
  | .powerSample watts temp => Sys2Proof.Machine.execPowerSample watts temp s
  | .linkRetryExhausted port => Sys2Proof.Machine.execLinkRetryExhausted port s
  | .entropySourceRecovery => Sys2Proof.Machine.execEntropySourceRecovery s
  | .peerReturn chip => Sys2Proof.Machine.execPeerReturn chip s
  | .storageCompletion => Sys2Proof.Machine.execStorageCompletion s
  | .ecall => Sys2Proof.Machine.execEcall s
  | .ebreak => Sys2Proof.Machine.execEbreak s
  | .nameBlockReservation => Sys2Proof.Machine.execNameBlockReservation s
  | .trackerPeriod => Sys2Proof.Machine.execTrackerPeriod s

end Sys2Proof.Machine
end

