-- ==== Sys2Proof/Machine/Issue.lean ====
section
/-!
DEFINITION. One step of the package: which slot issues (05_scalar.md R95), which event the machine brings about next, and the passing of
time (R96, 01_machine.md R15, 22_launch_estimate.md R381). In a cycle each core issues one instruction at most, one core after another;
when no core has a ready slot left, the events and messages that the cycle began with happen; then the cycle is over. DESIGN CHOICE, log 3.
-/
namespace Sys2Proof.Machine

/-! ### Messages and events -/

/-- The event by which a message arrives (06_messages.md R102); a kind that R102 does not list is dropped. -/
def messageEvent (m : Msg) : Option Instr :=
  match requestEvent m with
  | some e => some e
  | none =>
    match m.kind.toNat with
    | 0x00 => some (.handlerMessage m)
    | 0x01 => some (.registerReply m)
    | 0x02 => some (.resume m)
    | 0x03 => some (.spawnMessage m)
    | 0x04 => some (.exitReport m)
    | 0x08 => some (.launchStart m)
    | 0x09 => some (.crossing m)
    | 0x0A => some (.copyArrival m)
    | 0x0B => some (.estimatorItem m)
    | 0x0C => some (.trapReport m)
    | 0x0D => some (.errorNotice m)
    | 0x0E => some (.peerDownNotice m)
    | 0x28 => some (.readReply m)
    | 0x29 => some (.writeAcknowledgement m)
    | 0x33 => some (.nearMemoryReply m)
    | 0x35 => some (.tensedReply m)
    | 0x37 => some (.hubReply m)
    | 0x39 => some (.nameReply m)
    | 0x3E => some (.queryReply m)
    | _ => none

/-- A message that has the kinds of R204's windows: what a launch of the sending package sends or asks for. -/
def windowKind (m : Msg) : Bool := [0x00, 0x03, 0x04, 0x08, 0x09, 0x0A, 0x0B, 0x0C, 0x0D, 0x0E].contains m.kind.toNat || (requestEvent m).isSome

/-! ### Slots that may issue (R95) -/

/-- A slot may issue: its clause runs, nothing holds it, and its line is not under way. -/
def State.mayIssue (s : State) (k : Nat) : Bool :=
  let sl := s.slot k
  sl.phase == .running && !sl.blocked && !sl.fetching && !s.stopped k

/-- The custom majors (04_encoding.md R60). -/
def isCustom (w : BitVec 32) : Bool := [0x0B, 0x2B, 0x5B, 0x7B].contains (majorOf w).toNat

/-- A management core executes a word: a base word or a system instruction (24_system.md R404). -/
def mgmtWord (w : BitVec 32) : Bool :=
  !isCustom w || ((majorOf w).toNat == 0x2B && (f3Of w).toNat == 7 && decide ((f3bOf w).toNat ≤ 4))

/-- The instruction that a slot runs for a word: a word that is none runs as ILLEGAL_ENCODING (04_encoding.md R60). -/
def instrAt (k : Nat) (w : BitVec 32) : Instr :=
  if Config.firstMgmtCore ≤ coreOf k && !mgmtWord w then .illegalEncoding w
  else match decode w with
    | .ok i => i
    | .refused _ => .illegalEncoding w

/-- A slot stands at its instruction as though a breakpoint there had been passed: a completed instruction clears that, so a slot that is
left unchanged has stalled, unless it has asked a unit for something. -/
def State.probe (s : State) (k : Nat) : State := { s with cur := k }.modSlot k fun sl => { sl with skipBreak := true }

/-- What comes of the instruction of a slot where it stalls: the state with no more than its place among those stalled on a stream
(11_memory_access.md R211). -/
def State.stalled (s : State) (k : Nat) : Option State :=
  match s.takeWord k with
  | .inl _ => none
  | .inr w =>
    match exec (instrAt k w) (s.probe k) with
    | .next t =>
      let cl := clusterOf (coreOf k)
      if t.slot k == (s.probe k).slot k && t.agenda.length == s.agenda.length then some (s.modCluster cl fun c => { c with streams := (t.cluster cl).streams })
      else none
    | _ => none

/-- The next instruction of a slot stalls: it would change nothing. -/
def State.stalls (s : State) (k : Nat) : Bool := (s.stalled k).isSome

/-- The ready slot of a core that issues next, round-robin after the slot that issued last. -/
def State.readySlot (s : State) (core : Nat) : Option Nat :=
  let last := (s.core core).lastSlot
  ([1, 2, 3, 4].map fun i => core * 4 + (last + i) % 4).find? fun k => s.mayIssue k && !s.stalls k

/-- The first ready slot of some cores. -/
def State.firstReady (s : State) : List Nat → Option Nat
  | [] => none
  | c :: t => (s.readySlot c).orElse fun _ => s.firstReady t

/-- The slot that issues next in the cycle: of the first core that has not issued and has one ready. -/
def State.nextSlot (s : State) : Option Nat :=
  s.firstReady ((s.slots.map fun (e : Nat × Slot) => coreOf e.1).eraseReps.filter fun c => decide (s.coreNext ≤ c))

/-- A slot issues: its core is served in this cycle. -/
def State.issuing (s : State) (k : Nat) : State :=
  { s with cur := k, coreNext := coreOf k + 1 }.modCore (coreOf k) fun c => { c with lastSlot := k % 4 }

/-- A slot takes its next word and the instruction runs; a slot that takes none costs its core no cycle. -/
def State.issueAt (s : State) (k : Nat) : Host.Outcome State Fault Refusal :=
  match s.takeWord k with
  | .inl t => .next t
  | .inr w => exec (instrAt k w) ((s.issuing k).countIssue (coreOf k) false)

/-! ### Events -/

/-- An event that is due by the clock. -/
def State.dueTimer (s : State) : Option (Nat × Instr) := s.timers.find? fun t => decide (t.1 ≤ s.ktick.toNat)

/-- A slot of a launch cannot go on: it may not issue, or its instruction stalls. -/
def State.stuck (s : State) (k : Nat) : Bool := !(s.slot k).fetching && (!s.mayIssue k || s.stalls k)

/-- A reproducible launch whose delivery window may close (06_messages.md R120). -/
def State.closable (s : State) : Option Nat :=
  (s.hub.launches.find? fun (e : Nat × Launch) =>
    s.windowReady e.1 && (s.net.all fun m => m.launch != e.1) && (s.launchSlots e.1).all fun k => s.stuck k).map fun (e : Nat × Launch) => e.1

/-- The delivery window or the dispatch position that a message of another package takes (25_debug.md R442, 06_messages.md R122): for a reply
the window of the clause that asked; else the window of the launch that the receiving context holds, or under no REPRO the messages before
it in its channel. -/
def State.portPlace (s : State) (m : Msg) : Nat :=
  let x := s.ctx (s.served m.dstCore.toNat) m.ctx.toNat
  let l := s.launch (if tagKind m.tag = 2 then (s.slot (tagSlotKey m.tag)).clause.launch else x.launch)
  if l.repro then l.window else (x.chans.get m.chan.toNat {}).queue.length

/-- A message of another package enters by the fabric port, an input of a capture (25_debug.md R442), in no window of a launch here. -/
def State.captureFabric (s : State) (m : Msg) : State × Msg :=
  if m.srcChip = s.hub.chipId then (s, m)
  else
    let m := { m with ingress := some s.stamp }
    (s.captureInput 0 0 0 inFabric (word (s.portPlace m) :: msgHeader m ++ m.payload) 32, if windowKind m then { m with launch := 0, window := 0 } else m)

/-- The oldest message arrives; an acknowledgement of a shoot-down is the name unit's alone (19_names.md R332). -/
def State.nextMessage (s : State) : Option (State × Option Instr) :=
  match s.net with
  | m :: rest =>
    let r := { s with net := rest }.captureFabric m
    some (if m.kind = 0x3B then (r.1.shootDownAcked r.2, none) else (r.1, messageEvent r.2))
  | [] => none

/-- The oldest event that the machine owes; where it owes none, the close of a delivery window. -/
def State.owedEvent (s : State) : Option (State × Option Instr) :=
  match s.agenda with
  | e :: rest => some ({ s with agenda := rest }, some e)
  | [] => s.closable.map fun n => (s, some (.deliveryWindowClose n))

/-- The next event, with the state from which it has been taken: one that is due by the clock; else one that the machine owes or a
message, as the turn says and as there are. -/
def State.nextEvent (s : State) : Option (State × Option Instr) :=
  match s.dueTimer with
  | some t => some ({ s with timers := s.timers.erase t }, some t.2)
  | none => if s.turn % 2 = 1 then s.nextMessage.orElse fun _ => s.owedEvent else s.owedEvent.orElse fun _ => s.nextMessage

/-- An event happens, if there is one. -/
def State.happen (s : State) : Host.Outcome State Fault Refusal :=
  match s.nextEvent with
  | some (t, some e) => exec e t
  | some (t, none) => .next t
  | none => .next s

/-! ### What follows each instruction and event -/

/-- What units do when what they wait for has come: hub operations (24_system.md R416), redeclarations (R424), writes of hub registers that
waited (17_tensed.md R295), delivery windows whose parked messages have arrived (06_messages.md R122), the gathering of trace records
(25_debug.md R441), and the ends of STEPs (R433). -/
def State.polls (s : State) : State :=
  let s := ((s.runOps s.hub.ops.length).redeclareReady).releaseWrites
  ((s.openWindows s.hub.launches).gather).endSteps

/-- No core issues any more in a cycle whose events have begun. -/
def allCores : Nat := 8192

/-- What follows an event: the other kind is next, as far as the cycle has events left. -/
def State.after (s : State) : State :=
  { s.polls with turn := (s.turn + 1) % 2, coreNext := allCores, eventsLeft := s.eventsLeft - 1 }

/-! ### The passing of a cycle -/

/-- The cycles of a slot count while a clause occupies it, not frozen and not halted (05_scalar.md R96, 25_debug.md R434). -/
def State.counts (s : State) (k : Nat) (sl : Slot) : Bool :=
  (match sl.phase with | .running | .suspending _ | .exiting _ _ => true | _ => false) && !s.stopped k

/-- The watchdogs that expire in this cycle: those of the management cores never do (24_system.md R430). -/
def State.expiring (s : State) : List Instr :=
  (s.slots.filter fun (e : Nat × Slot) =>
    s.counts e.1 e.2 && decide (e.1 < Config.firstMgmtCore * 4) && e.2.kwdog != 0 && decide (e.2.kwdog.toNat ≤ e.2.cycles + 1)).map
    fun (e : Nat × Slot) => .watchdog e.1

/-- A core's charge of a context is reported at the next multiple of 4,096 ns. -/
def State.armCharge (s : State) (core c : Nat) : State :=
  if s.timers.any fun t => t.2 == .budgetChargeReport core c then s
  else { s with timers := s.timers ++ [((s.ktick.toNat / 4096 + 1) * 4096, .budgetChargeReport core c)] }

/-- The charge of a slot for a time in ns (22_launch_estimate.md R381). -/
def State.chargeSlot (s : State) (d k : Nat) : State :=
  let core := coreOf k
  let c := (s.slot k).clause.ctx
  if bit (s.vf (s.ctx core c).vf).bud 63 then (s.modCtx core c fun x => { x with charge := x.charge + d }).armCharge core c else s

/-- The slots whose time is charged. -/
def State.charged (s : State) : List Nat :=
  (s.slots.filter fun (e : Nat × Slot) => s.counts e.1 e.2 && decide (e.1 < Config.firstMgmtCore * 4)).map fun (e : Nat × Slot) => e.1

/-- The fills of near loads come a cycle nearer (11_memory_access.md R207). Structural on the fills. -/
def Slot.fillTick (sl : Slot) : List NearFill → Slot
  | [] => sl
  | f :: t =>
    if 1 < f.left then { sl with nearFills := sl.nearFills ++ [{ f with left := f.left - 1 }] }.fillTick t
    else (if f.vec then sl.setV f.reg f.value else sl.setX f.reg (f.value.setWidth 64)).fillTick t

/-- A slot a cycle later, with its cycle counted or not. -/
def Slot.tick (sl : Slot) (counted : Bool) : Slot :=
  let sl := if counted then { sl with cycles := sl.cycles + 1 } else sl
  if sl.nearFills.isEmpty then sl else { sl with nearFills := [] }.fillTick sl.nearFills

/-- A core a cycle later: what its messages wait for of near loads comes nearer (06_messages.md R104). -/
def Core.tick (c : Core) : Core := { c with outq := c.outq.map fun o => { o with near := o.near - 1 } }

/-- Messages of a core whose wait for near loads ends with this cycle. -/
def Core.departing (c : Core) : Bool := c.outq.any fun o => o.near == 1

/-- A stalled slot takes its place among those stalled on a stream, and is counted for the samples of its cluster. -/
def State.noteStall (s : State) (k : Nat) : State :=
  let sampled := (s.debug (clusterOf (coreOf k))).samples
  if !sampled && (s.slot k).q.isEmpty then s
  else match (if s.mayIssue k then s.stalled k else none) with
    | some t => t.countIssue (coreOf k) true
    | none => s

/-- The events that a cycle begins with, and the close of a window. -/
def State.pending (s : State) : Nat := s.agenda.length + s.net.length + (s.timers.filter fun t => decide (t.1 ≤ s.ktick.toNat)).length + 1

/-- One core cycle passes: device time (01_machine.md R15), the cycles and fills of the slots, their watchdogs, which come before all
else (05_scalar.md R99), and the charges. -/
def State.tick (s : State) : State :=
  let s := s.slots.foldl (fun s e => s.noteStall e.1) s
  let d := (s.tickRem + 1000) / s.hub.mhz
  let ks := s.charged
  let s :=
    { s with agenda := s.expiring ++ s.agenda ++ (s.cores.filter fun (e : Nat × Core) => e.2.departing).map fun (e : Nat × Core) => .messageDeparture e.1,
             slots := s.slots.map fun (e : Nat × Slot) => (e.1, e.2.tick (s.counts e.1 e.2)),
             cores := s.cores.map fun (e : Nat × Core) => (e.1, e.2.tick),
             coreNext := 0, eventsLeft := s.pending, ktick := s.ktick + word d, tickRem := (s.tickRem + 1000) % s.hub.mhz }
  if d = 0 then s else ks.foldl (fun s k => s.chargeSlot d k) s

/-- What follows the outcome of an instruction or an event. -/
def finish (f : State → State) (o : Host.Outcome State Fault Refusal) : Host.Outcome State Fault Refusal :=
  match o with
  | .next t => .next (f t)
  | o => o

/-- The watchdog at the head of what the machine owes. -/
def State.watchdogFirst (s : State) : Option (Nat × List Instr) :=
  match s.agenda with
  | .watchdog k :: rest => some (k, rest)
  | _ => none

/-- One step: a watchdog that has expired; else an instruction of the next core that has one ready in this cycle; else an event that the
cycle has left; else the cycle is over. A package that has powered down waits for a reset (26_platform.md R453). -/
def State.advance (s : State) : Host.Outcome State Fault Refusal :=
  if s.hub.off then
    match s.agenda with
    | .packageReset :: rest => exec .packageReset { s with agenda := rest }
    | _ => .next s
  else match s.watchdogFirst with
    | some (k, rest) => finish State.polls (exec (.watchdog k) { s with agenda := rest })
    | none =>
      match s.nextSlot with
      | some k => finish State.polls (s.issueAt k)
      | none => if 0 < s.eventsLeft && s.nextEvent.isSome then finish State.after s.happen else .next s.tick

end Sys2Proof.Machine
end

