-- ==== Sys2Proof/Machine/Step.lean ====
section
/-!
DEFINITION. The step of the machine, and the placing of one instruction where the step fetches next.
-/
namespace Sys2Proof.Machine

/-- One step: one slot issues, or one event happens, or a cycle ends. -/
def step (s : State) : Host.Outcome State Fault Refusal := s.advance

/-- The slot on which the next step runs a placed instruction. -/
def State.placeSlot (s : State) : Nat := s.cur

/-- A line that holds a word at an address. -/
def placedLine (pc : Word) (asid : Nat) (w : BitVec 32) : Line :=
  { va := word (pc.toNat / 64 * 64), asid := asid, data := (w.setWidth 512) <<< (8 * (pc.toNat % 64)) }

/-- A slot as it stands at a placed instruction: bound, with the word in its fetch line, at an address inside its code region. -/
def Slot.placed (sl : Slot) (asid : Nat) (w : BitVec 32) : Slot :=
  let pc := word (sl.pc.toNat / 4 * 4)
  let inside := decide (sl.clause.codeBase.toNat ≤ pc.toNat) && decide (pc.toNat < sl.clause.codeBase.toNat + sl.clause.codeSize)
  { sl with
    pc := pc, phase := .running, wait := .none, fetching := false, skipBreak := true, line := some (placedLine pc asid w),
    clause := if inside then sl.clause else { sl.clause with codeBase := pc, codeSize := 64 } }

/-- The state with a word placed so that the next step runs it: log 25 says how a program comes to run from reset. Every row of
opcode_table.json with an encoding is one word. -/
def State.withFetchWord (s : State) (nbits w : Nat) : State :=
  let k := s.placeSlot
  let s := s.modSlot k fun sl => sl.placed (s.asid k) (BitVec.ofNat 32 (w % 2 ^ nbits))
  let s := { s.modHub fun h => { h with off := false } with
    coreNext := coreOf k, agenda := s.agenda.dropWhile fun i => match i with | .watchdog _ => true | _ => false }
  let s := s.modCore (coreOf k) fun c => { c with lastSlot := (k + 3) % 4 }
  if s.stopped k then s.modDebug (clusterOf (coreOf k)) fun d => { d with stepping := some k } else s

end Sys2Proof.Machine
end

