-- ==== Sys2Proof/Safety.lean ====
section
/-!
DEFINITION. The terms that claims use of a run: a step that goes on, the conditions on the state under which an instruction
passes the common checks (04_encoding.md R73), what a register instruction may change, lanes, and the machine's invariant.
-/
namespace Sys2Proof.Machine

/-- A step goes on to a state. -/
def Goes (s t : State) : Prop := step s = .next t

/-- A state is safe: a step from it neither faults nor is refused. -/
def Safe (s : State) : Prop := ∃ t, Goes s t

/-- No debug module holds a STEP for a slot that the STEP no longer concerns (25_debug.md R433). -/
def NoStepLingers (s : State) : Prop := ∀ cl k, (s.debug cl).stepping = some k → s.stepOver k = false

/-- The invariant of the machine: the turn is one of the two, the fraction of a nanosecond is below one (01_machine.md R15), and no STEP
lingers. -/
def Inv (s : State) : Prop := s.turn < 2 ∧ (s.hub.mhz = 0 ∨ s.tickRem < s.hub.mhz) ∧ NoStepLingers s

/-- The issuing slot's state lets an instruction pass the common checks of R73: no earlier request of it is out, its groups are
aligned, a pending prefix is one that it takes, its privilege suffices, its sources are full, and no destination is empty. -/
def Ready (s : State) (srcs : List Src) (dsts : List Dst) (groups : List (Nat × Nat) := []) (format : Bool := false)
    (priv : Nat := 0) : Prop :=
  s.sl.blocked = false ∧ (∀ g ∈ groups, g.1 % g.2 = 0) ∧ (format = true ∨ s.sl.pp = false) ∧ priv ≤ s.sl.priv ∧
  (∀ x ∈ srcs, ∀ i < x.count, s.sl.mark x.vec (x.reg + i) = .full) ∧
  (∀ d ∈ dsts, ∀ i < d.count, s.sl.mark d.vec (d.reg + i) ≠ .empty)

/-- Lane j of e bits of a vector register (07_vector.md R135). -/
def lane (e : Nat) (v : VWord) (j : Nat) : Nat := bitsOf v.toNat (e * j) e

/-- The union of the flags that lanes 0 to n - 1 raise. -/
def flagsUpTo (f : Nat → Flags) : Nat → Flags
  | 0 => 0
  | n + 1 => flagsUpTo f n ||| f n

/-- No fence holds the next access of the issuing slot (14_ordering.md R250). -/
def Unfenced (s : State) : Prop := s.sl.fence = none

/-- A register instruction has changed at most the destination group of the issuing slot, its flags, its prefix, its loop counts and
its program counter: every other slot, all memory and every other part of the machine are as before. -/
def OnlyRegisters (s t : State) (vec : Bool) (reg count : Nat) : Prop :=
  t = { s with slots := t.slots } ∧ (∀ k, k ≠ s.cur → t.slot k = s.slot k) ∧
  (∀ r, (vec = true ∨ r < reg ∨ reg + count ≤ r) → t.sl.xr r = s.sl.xr r ∧ t.sl.xmark r = s.sl.xmark r) ∧
  (∀ r, (vec = false ∨ r < reg ∨ reg + count ≤ r) → t.sl.vr r = s.sl.vr r ∧ t.sl.vmark r = s.sl.vmark r) ∧
  (∀ i, i ≠ 3 → (i < 16 ∨ 21 ≤ i) → bit t.sl.kstat i = bit s.sl.kstat i) ∧
  t.sl = { s.sl with x := t.sl.x, xm := t.sl.xm, v := t.sl.v, vm := t.sl.vm, kstat := t.sl.kstat, kloop0 := t.sl.kloop0,
                     kloop1 := t.sl.kloop1, pc := t.sl.pc, wait := t.sl.wait, skipBreak := t.sl.skipBreak,
                     resolved := t.sl.resolved, fetched := t.sl.fetched, heldTiles := t.sl.heldTiles }

end Sys2Proof.Machine
end

