-- ==== Sys2Proof/Certificates/Slice0/Obligations.lean ====
section
/-!
DEFINITION. What this model is claimed to do, from the rules of the spec: one statement for each family of instructions and events, and
for each kind of state. `exec i s = .next t` says that the instruction completes, and `t` is the state it leaves.
-/
open Sys2Proof Sys2Proof.Machine

/-- Registers (R65): x0 reads 0, is always full, and discards writes; any other register reads what was last written to it, full,
and a write leaves every other register and every other field of the slot as it was. -/
def Sys2Proof.Claim.RegistersReadWhatWasWritten : Prop :=
  ∀ (sl : Slot) (r : Nat) (w : Word) (v : VWord),
    sl.xr 0 = 0 ∧ sl.xmark 0 = .full ∧ sl.setX 0 w = sl ∧
    (r ≠ 0 → (sl.setX r w).xr r = w ∧ (sl.setX r w).xmark r = .full) ∧
    (∀ j, j ≠ r → (sl.setX r w).xr j = sl.xr j ∧ (sl.setX r w).xmark j = sl.xmark j) ∧
    (∀ j, (sl.setX r w).vr j = sl.vr j ∧ (sl.setX r w).vmark j = sl.vmark j) ∧
    (sl.setV r v).vr r = v ∧ (sl.setV r v).vmark r = .full ∧
    (∀ j, j ≠ r → (sl.setV r v).vr j = sl.vr j ∧ (sl.setV r v).vmark j = sl.vmark j) ∧
    (∀ j, (sl.setV r v).xr j = sl.xr j ∧ (sl.setV r v).xmark j = sl.xmark j) ∧
    sl.setX r w = { sl with x := (sl.setX r w).x, xm := (sl.setX r w).xm } ∧
    sl.setV r v = { sl with v := (sl.setV r v).v, vm := (sl.setV r v).vm }

/-- Completing an instruction (R66, R87): the prefix is spent; an enabled loop 1 whose end address is the instruction's address
counts down and branches back while its count is not 0; loop 0 is looked at only where loop 1 did not branch back, so that the next
address is still the next word; otherwise the next word follows. No other register changes. -/
def Sys2Proof.Claim.CompletionFollowsTheLoopRule : Prop :=
  ∀ sl : Slot,
    let t := sl.complete
    let hit1 := sl.kloop1 ≠ 0 ∧ sl.pc = sl.kle1
    let back1 := hit1 ∧ sl.kloop1 ≠ 1 ∧ sl.kls1 ≠ sl.pc + 4
    let hit0 := ¬ back1 ∧ sl.kloop0 ≠ 0 ∧ sl.pc = sl.kle0
    let back0 := hit0 ∧ sl.kloop0 ≠ 1
    t.pp = false ∧
    (hit1 → t.kloop1 = sl.kloop1 - 1) ∧ (¬ hit1 → t.kloop1 = sl.kloop1) ∧
    (hit0 → t.kloop0 = sl.kloop0 - 1) ∧ (¬ hit0 → t.kloop0 = sl.kloop0) ∧
    (back1 → t.pc = sl.kls1) ∧ (back0 → t.pc = sl.kls0) ∧ (¬ back1 → ¬ back0 → t.pc = sl.pc + 4) ∧
    (∀ i, i ≠ 3 → i < 64 → bit t.kstat i = bit sl.kstat i) ∧
    t = { sl with kstat := t.kstat, kloop0 := t.kloop0, kloop1 := t.kloop1, pc := t.pc, wait := .none, skipBreak := false,
                  resolved := none, fetched := [], heldTiles := [] }

/-- What else the loop rule says (R87): a jump updates no count, and a write of a loop register is made after the loop test of its own word. -/
def Sys2Proof.Claim.JumpsAndWritesAtLoopEnds : Prop :=
  ∀ (s : State) (rd a : Reg) (csr : BitVec 12) (old p : Word),
    ((s.sl.jump p).pc = p ∧ (s.sl.jump p).kloop0 = s.sl.kloop0 ∧ (s.sl.jump p).kloop1 = s.sl.kloop1) ∧
    (Ready s [⟨false, a.toNat, 1, false, 1⟩] [⟨false, rd.toNat, 1, 0⟩] → 0x802 ≤ csr.toNat → csr.toNat ≤ 0x807 → s.csr csr.toNat = some old →
      exec (.zicsr .csrrw rd a csr) s =
        .next (s.modCur fun sl => ((sl.setX rd.toNat old).complete).writeCsr csr.toNat (s.sl.xr a.toNat)))

/-- Taking a trap (R97): the slot freezes with the cause, `kaddr` and the address of the faulting word saved and its trap number
raised by 1; its other registers stay, and every other slot is as before. -/
def Sys2Proof.Claim.TrapSavesAndFreezes : Prop :=
  ∀ (s : State) (c : Nat) (a : Word),
    let t := s.trap c a
    let o := s.sl
    t.cur = s.cur ∧ t.sl.phase = .frozen ∧ t.sl.kcause = word c ∧ t.sl.kaddr = a ∧ t.sl.kepc = o.pc ∧ t.sl.pc = o.pc ∧
    t.sl.trapNo = o.trapNo + 1 ∧ t.sl.kstat = o.kstat ∧ t.sl.kpfx = o.kpfx ∧ t.sl.kprog = o.kprog ∧
    t.sl.kloop0 = o.kloop0 ∧ t.sl.kls0 = o.kls0 ∧ t.sl.kle0 = o.kle0 ∧ t.sl.kloop1 = o.kloop1 ∧ t.sl.kls1 = o.kls1 ∧
    t.sl.kle1 = o.kle1 ∧ t.sl.kwdog = o.kwdog ∧ t.sl.kpath = o.kpath ∧ t.sl.kseq = o.kseq ∧ t.sl.fwd = o.fwd ∧ t.sl.far = o.far ∧
    (∀ r, t.sl.xr r = o.xr r ∧ t.sl.xmark r = o.xmark r ∧ t.sl.vr r = o.vr r ∧ t.sl.vmark r = o.vmark r ∧ t.sl.q.get r 0 = o.q.get r 0) ∧
    (∀ k, k ≠ s.cur → t.slot k = s.slot k)

/-- Where a trap's report goes (R98, R405, R406): to channel 255 of the clause's context where a clause may handle the cause, the
context has a VALID handler there, the slot runs a clause of PRIV 0, the core is no management core and not all its slots are
frozen; the message carries the eight words of the report. Otherwise it is an entry of the trap ring. -/
def Sys2Proof.Claim.TrapReportGoesToItsHandler : Prop :=
  ∀ (s : State) (k cause : Nat) (payload : List Word),
    let sl := s.slot k
    let x := s.ctx (coreOf k) sl.clause.ctx
    let e := (x.chans.get 255 {}).entry
    let mine := clauseMayHandle cause false = true ∧ bit e 36 = true ∧ bit e 39 = false ∧ sl.priv = 0 ∧ coreOf k < 4096 ∧
      ∃ i < 4, (s.slot (coreOf k * 4 + i)).phase ≠ .frozen
    (mine → ∃ m, s.sendReport k cause false payload = { s with net := s.net ++ [m] } ∧ m.dstChip = s.hub.chipId ∧
      m.dstCore = BitVec.ofNat 12 (coreOf k) ∧ m.chan = 255 ∧ m.kind = 0x0C ∧ m.key = sl.kpath ∧ m.payload = payload) ∧
    (¬ mine → (s.sendReport k cause false payload).net = s.net ∧
      (ringFull s.hub.ktrapHead s.hub.ktrapTail 4096 = false →
        (s.sendReport k cause false payload).hub.ktrapTail = (s.hub.ktrapTail + 1) % 4096))

/-- The base ALU words (R76): the destination receives the operation's result; nothing else changes but what completing does. -/
def Sys2Proof.Claim.BaseAluResults : Prop :=
  ∀ (s : State) (rd a b : Reg) (i12 : BitVec 12) (i20 : BitVec 20) (n6 : BitVec 6) (n5 : BitVec 5),
    let x := s.sl.xr a.toNat
    let y := s.sl.xr b.toNat
    let x32 : BitVec 32 := x.setWidth 32
    let y32 : BitVec 32 := y.setWidth 32
    let imm : Word := i12.signExtend 64
    let put := fun v => Host.Outcome.next (s.finishX rd.toNat v)
    let dst : List Dst := [⟨false, rd.toNat, 1, 0⟩]
    let one : Src := ⟨false, a.toNat, 1, false, 1⟩
    let two : Src := ⟨false, b.toNat, 1, false, 2⟩
    (Ready s [] dst →
      exec (.baseAlu (.lui rd i20)) s = put ((i20 ++ (0 : BitVec 12)).signExtend 64) ∧
      exec (.baseAlu (.auipc rd i20)) s = put (s.sl.pc + (i20 ++ (0 : BitVec 12)).signExtend 64)) ∧
    (Ready s [one] dst →
      exec (.baseAlu (.opImm .addi rd a i12)) s = put (x + imm) ∧
      exec (.baseAlu (.opImm .slti rd a i12)) s = put (if x.toInt < imm.toInt then 1 else 0) ∧
      exec (.baseAlu (.opImm .sltiu rd a i12)) s = put (if x.toNat < imm.toNat then 1 else 0) ∧
      exec (.baseAlu (.opImm .xori rd a i12)) s = put (x ^^^ imm) ∧
      exec (.baseAlu (.opImm .ori rd a i12)) s = put (x ||| imm) ∧
      exec (.baseAlu (.opImm .andi rd a i12)) s = put (x &&& imm) ∧
      exec (.baseAlu (.shiftImm .sll rd a n6)) s = put (x <<< n6.toNat) ∧
      exec (.baseAlu (.shiftImm .srl rd a n6)) s = put (x >>> n6.toNat) ∧
      exec (.baseAlu (.shiftImm .sra rd a n6)) s = put (x.sshiftRight n6.toNat) ∧
      exec (.baseAlu (.addiw rd a i12)) s = put ((x + imm).setWidth 32 |>.signExtend 64) ∧
      exec (.baseAlu (.shiftImmW .sll rd a n5)) s = put ((x32 <<< n5.toNat).signExtend 64) ∧
      exec (.baseAlu (.shiftImmW .srl rd a n5)) s = put ((x32 >>> n5.toNat).signExtend 64) ∧
      exec (.baseAlu (.shiftImmW .sra rd a n5)) s = put ((x32.sshiftRight n5.toNat).signExtend 64)) ∧
    (Ready s [one, two] dst →
      exec (.baseAlu (.op .add rd a b)) s = put (x + y) ∧
      exec (.baseAlu (.op .sub rd a b)) s = put (x - y) ∧
      exec (.baseAlu (.op .sll rd a b)) s = put (x <<< (y.toNat % 64)) ∧
      exec (.baseAlu (.op .slt rd a b)) s = put (if x.toInt < y.toInt then 1 else 0) ∧
      exec (.baseAlu (.op .sltu rd a b)) s = put (if x.toNat < y.toNat then 1 else 0) ∧
      exec (.baseAlu (.op .xor rd a b)) s = put (x ^^^ y) ∧
      exec (.baseAlu (.op .srl rd a b)) s = put (x >>> (y.toNat % 64)) ∧
      exec (.baseAlu (.op .sra rd a b)) s = put (x.sshiftRight (y.toNat % 64)) ∧
      exec (.baseAlu (.op .or rd a b)) s = put (x ||| y) ∧
      exec (.baseAlu (.op .and rd a b)) s = put (x &&& y) ∧
      exec (.baseAlu (.opW .addw rd a b)) s = put ((x + y).setWidth 32 |>.signExtend 64) ∧
      exec (.baseAlu (.opW .subw rd a b)) s = put ((x - y).setWidth 32 |>.signExtend 64) ∧
      exec (.baseAlu (.opW .sllw rd a b)) s = put ((x32 <<< (y32.toNat % 32)).signExtend 64) ∧
      exec (.baseAlu (.opW .srlw rd a b)) s = put ((x32 >>> (y32.toNat % 32)).signExtend 64) ∧
      exec (.baseAlu (.opW .sraw rd a b)) s = put ((x32.sshiftRight (y32.toNat % 32)).signExtend 64))

/-- The M instructions (R76): products and their high halves as exact integers, quotients rounded toward 0, and the ratified
results of division by 0 (all ones; the dividend) and of the one overflow (the dividend; 0). -/
def Sys2Proof.Claim.MultiplyDivideResults : Prop :=
  ∀ (s : State) (rd a b : Reg),
    let x := s.sl.xr a.toNat
    let y := s.sl.xr b.toNat
    let xw : BitVec 32 := x.setWidth 32
    let yw : BitVec 32 := y.setWidth 32
    let md := fun op => exec (.baseMulDiv op rd a b) s
    let put := fun v => Host.Outcome.next (s.finishX rd.toNat v)
    Ready s [⟨false, a.toNat, 1, false, 1⟩, ⟨false, b.toNat, 1, false, 2⟩] [⟨false, rd.toNat, 1, 0⟩] →
      md .mul = put (x * y) ∧
      md .mulh = put (BitVec.ofInt 64 (x.toInt * y.toInt / 2 ^ 64)) ∧
      md .mulhsu = put (BitVec.ofInt 64 (x.toInt * (y.toNat : Int) / 2 ^ 64)) ∧
      md .mulhu = put (BitVec.ofNat 64 (x.toNat * y.toNat / 2 ^ 64)) ∧
      md .mulw = put ((x * y).setWidth 32 |>.signExtend 64) ∧
      (y ≠ 0 → md .divu = put (x / y) ∧ md .remu = put (x % y) ∧
        md .div = put (BitVec.ofInt 64 (Int.tdiv x.toInt y.toInt)) ∧ md .rem = put (BitVec.ofInt 64 (Int.tmod x.toInt y.toInt))) ∧
      (y = 0 → md .divu = put (-1) ∧ md .remu = put x ∧ md .div = put (-1) ∧ md .rem = put x) ∧
      (x = BitVec.intMin 64 → y = -1 → md .div = put x ∧ md .rem = put 0) ∧
      (yw ≠ 0 → md .divuw = put ((xw / yw).signExtend 64) ∧ md .remuw = put ((xw % yw).signExtend 64) ∧
        md .divw = put ((BitVec.ofInt 32 (Int.tdiv xw.toInt yw.toInt)).signExtend 64) ∧
        md .remw = put ((BitVec.ofInt 32 (Int.tmod xw.toInt yw.toInt)).signExtend 64)) ∧
      (yw = 0 → md .divuw = put (-1) ∧ md .remuw = put (xw.signExtend 64) ∧ md .divw = put (-1) ∧ md .remw = put (xw.signExtend 64))

/-- Branches and jumps (R79, R80): a taken transfer goes to its target, which is relative to the instruction's address (`jalr`: the
register sum with bit 0 cleared), without touching a loop count; a link register takes the address of the next word; a branch not
taken completes; a taken transfer to an address that is no multiple of 4 raises 0x15 with the target. One that leaves the code region
completes, and the fetch there raises 0x10. -/
def Obligations.BranchesAndJumpsTransfer : Prop :=
  ∀ (s : State) (rd a b : Reg) (i12 : BitVec 12) (i20 : BitVec 20) (op : BranchOp),
    let x := s.sl.xr a.toNat
    let y := s.sl.xr b.toNat
    let one : Src := ⟨false, a.toNat, 1, false, 1⟩
    let two : Src := ⟨false, b.toNat, 1, false, 2⟩
    let dst : List Dst := [⟨false, rd.toNat, 1, 0⟩]
    let taken : Prop := match op with
      | .beq => x = y | .bne => x ≠ y | .blt => x.toInt < y.toInt | .bge => y.toInt ≤ x.toInt
      | .bltu => x.toNat < y.toNat | .bgeu => y.toNat ≤ x.toNat
    let bt := s.sl.pc + (i12 ++ (0 : BitVec 1)).signExtend 64
    let jt := s.sl.pc + (i20 ++ (0 : BitVec 1)).signExtend 64
    let rt := (x + i12.signExtend 64) &&& (-2 : Word)
    (Ready s [one, two] [] →
      (¬ taken → exec (.baseBranch op a b i12) s = .next s.complete) ∧
      (taken → bt.toNat % 4 = 0 → exec (.baseBranch op a b i12) s = .next (s.modCur fun sl => sl.jump bt)) ∧
      (taken → bt.toNat % 4 ≠ 0 → exec (.baseBranch op a b i12) s = .next (s.trap 0x15 bt))) ∧
    (Ready s [] dst →
      (jt.toNat % 4 = 0 → exec (.jal rd i20) s = .next (s.modCur fun sl => (sl.setX rd.toNat (sl.pc + 4)).jump jt)) ∧
      (jt.toNat % 4 ≠ 0 → exec (.jal rd i20) s = .next (s.trap 0x15 jt))) ∧
    (Ready s [one] dst →
      (rt.toNat % 4 = 0 → exec (.jalr rd a i12) s = .next (s.modCur fun sl => (sl.setX rd.toNat (sl.pc + 4)).jump rt)) ∧
      (rt.toNat % 4 ≠ 0 → exec (.jalr rd a i12) s = .next (s.trap 0x15 rt))) ∧
    (∀ (sl : Slot) (p : Word), (sl.jump p).pc = p ∧ (sl.jump p).kloop0 = sl.kloop0 ∧ (sl.jump p).kloop1 = sl.kloop1 ∧
      (sl.jump p).pp = false ∧ ∀ r, (sl.jump p).xr r = sl.xr r) ∧
    (∀ (u : State) (k : Nat), let o := u.slot k
      (o.pc.toNat < o.clause.codeBase.toNat ∨ o.clause.codeBase.toNat + o.clause.codeSize ≤ o.pc.toNat) →
        ∃ t, u.takeWord k = .inl t ∧ (t.slot k).phase = .frozen ∧ (t.slot k).kcause = 0x10 ∧ (t.slot k).kepc = o.pc ∧ (t.slot k).kaddr = o.pc)

/-- Near loads and stores (R77, R78, R195): a load extends the bytes of its address, the lowest first; a store writes the low bytes
of its source there. An address that is no multiple of the size raises 0x14, one with a bit of [63:48] set raises 0x53, and a near
address outside both targets raises 0x54. A load corrects the words with corrected errors that it reads (R197). -/
def Sys2Proof.Claim.NearLoadsAndStores : Prop :=
  ∀ (s : State) (rd a b : Reg) (imm : BitVec 12) (lo : LoadOp) (so : StoreOp),
    let addr := s.sl.xr a.toNat + imm.signExtend 64
    let n := match lo with | .lb => 1 | .lbu => 1 | .lh => 2 | .lhu => 2 | .lw => 4 | .lwu => 4 | .ld => 8
    let signed := match lo with | .lb => true | .lh => true | .lw => true | .ld => true | _ => false
    let m := match so with | .sb => 1 | .sh => 2 | .sw => 4 | .sd => 8
    let one : Src := ⟨false, a.toNat, 1, false, 1⟩
    let two : Src := ⟨false, b.toNat, 1, false, 2⟩
    (Ready s [one] [⟨false, rd.toNat, 1, 0⟩] →
      (addr.toNat % n ≠ 0 → exec (.baseLoad lo rd a imm) s = .next (s.trap 0x14 addr)) ∧
      (addr.toNat % n = 0 → fld addr 48 16 ≠ 0 → exec (.baseLoad lo rd a imm) s = .next (s.trap 0x53 addr)) ∧
      (∀ t, Unfenced s → addr.toNat % n = 0 → s.access s.cur .read addr n = .ok (.near t) → s.nearError t n = none →
        let v := ofBytes (s.nearBytes s.cur t n)
        exec (.baseLoad lo rd a imm) s = .next ((s.finishX rd.toNat
          (if signed then BitVec.ofInt 64 (if 2 ^ (8 * n - 1) ≤ v % 2 ^ (8 * n) then (v % 2 ^ (8 * n) : Nat) - 2 ^ (8 * n) else (v % 2 ^ (8 * n) : Nat))
           else word v)).corrected t n))) ∧
    (Ready s [one, two] [] →
      (addr.toNat % m ≠ 0 → exec (.baseStore so a b imm) s = .next (s.trap 0x14 addr)) ∧
      (addr.toNat % m = 0 → fld addr 48 16 ≠ 0 → exec (.baseStore so a b imm) s = .next (s.trap 0x53 addr)) ∧
      (∀ t, Unfenced s → addr.toNat % m = 0 → s.access s.cur .write addr m = .ok (.near t) → s.storeReady s.cur t m = true →
        exec (.baseStore so a b imm) s = .next ((s.nearStore s.cur t (toBytes m (s.sl.xr b.toNat).toNat)).complete)))

/-- Far loads and stores (R77, R78, R199 to R201): with room for one more request, the slot sends one request to the home that the
translation gives, and stands at the instruction until its answer; the register and memory do not change yet. The answer ends it: a
load takes the bytes that came, a store completes. The management cores send the same requests; a store of theirs says whether its page may hold
barrier objects (15_sync.md R277). -/
def Sys2Proof.Claim.FarLoadsAndStores : Prop :=
  ∀ (s : State) (rd a b : Reg) (imm : BitVec 12) (lo : LoadOp) (so : StoreOp) (ga : Word) (unit : Nat) (chip : BitVec 20) (leaf : Nat),
    let addr := s.sl.xr a.toNat + imm.signExtend 64
    let n := (loadShape lo).1
    let m := storeSize so
    Unfenced s → s.sl.farRoom 1 = true →
    (Ready s [⟨false, a.toNat, 1, false, 1⟩] [⟨false, rd.toNat, 1, 0⟩] → addr.toNat % n = 0 →
      s.access s.cur .read addr n = .ok (.far ga unit chip leaf) →
      exec (.baseLoad lo rd a imm) s =
        .next (((s.touched addr).sendRead s.cur addr ga unit chip n .blocking).block (.load rd.toNat n (loadShape lo).2) 1)) ∧
    (Ready s [⟨false, a.toNat, 1, false, 1⟩, ⟨false, b.toNat, 1, false, 2⟩] [] → addr.toNat % m = 0 →
      s.access s.cur .write addr m = .ok (.far ga unit chip leaf) →
      (s.isMgmt = false → exec (.baseStore so a b imm) s =
        .next (((s.touched addr).sendWrite s.cur 0x21 addr ga unit chip (toBytes m (s.sl.xr b.toNat).toNat) .blocking).block .store 1)) ∧
      (s.isMgmt = true → leafTensed leaf = false → exec (.baseStore so a b imm) s =
        .next (((s.touched addr).sendWrite s.cur 0x21 addr ga unit chip (toBytes m (s.sl.xr b.toNat).toNat) .blocking none
          (BitVec.ofNat 4 (leafSync leaf).toNat)).block .store 1)))

/-- `ecall` raises 0x12 and `ebreak` 0x13 with `kaddr` 0 (R80), unless the debug module halts on breaks (R431): then `ebreak` halts
the cluster and the slot goes on behind it. A word that is no instruction raises 0x00 with the word (R74). `fence` waits for every
request of its wait set, then completes (R61). -/
def Sys2Proof.Claim.EnvironmentWordsTrap : Prop :=
  ∀ (s : State) (rd a : Reg) (imm : BitVec 12) (w : BitVec 32),
    (Ready s [] [] →
      exec .ecall s = .next (s.trap 0x12 0) ∧
      (bit (s.debug (clusterOf s.curCore)).ctl 8 = false → exec .ebreak s = .next (s.trap 0x13 0)) ∧
      (bit (s.debug (clusterOf s.curCore)).ctl 8 = true →
        exec .ebreak s = .next (s.complete.haltCluster (clusterOf s.curCore) 2 s.curCore s.cur)) ∧
      (Unfenced s → s.sl.far = [] → s.sl.fwd = [] → s.sl.nearFills = [] → exec (.baseFence rd a imm) s = .next s.complete) ∧
      (s.released s.cur 2 = false → exec (.baseFence rd a imm) s = .next s)) ∧
    (s.sl.blocked = false → exec (.illegalEncoding w) s = .next (s.trap 0x00 (w.setWidth 64)))

/-- The Zicsr forms (R81, R82): the destination takes the old value; the loop registers, `kprog` and the FLAGS of `kstat` take what the
form writes; a number that names no CSR, and a write to any other CSR, raise 0x16 with the number; a set or clear with operand field
0 only reads. A write takes effect after the loop-end test of its own instruction (R87). -/
def Sys2Proof.Claim.ControlRegisterForms : Prop :=
  ∀ (s : State) (rd a : Reg) (csr : BitVec 12) (old : Word),
    let n := csr.toNat
    let x := s.sl.xr a.toNat
    let i := word a.toNat
    let rw := fun (v : Word) => Host.Outcome.next (s.modCur fun sl => ((sl.setX rd.toNat old).complete).writeCsr n v)
    let dst : List Dst := [⟨false, rd.toNat, 1, 0⟩]
    let one : Src := ⟨false, a.toNat, 1, false, 1⟩
    n ≠ 0xCDC → n ≠ 0xCD0 → s.csr n = some old →
    (Ready s [one] dst → 0x800 ≤ n → n ≤ 0x807 →
      exec (.zicsr .csrrw rd a csr) s = rw x ∧
      (a ≠ 0 → exec (.zicsr .csrrs rd a csr) s = rw (old ||| x) ∧ exec (.zicsr .csrrc rd a csr) s = rw (old &&& ~~~x))) ∧
    (Ready s [] dst → 0x800 ≤ n → n ≤ 0x807 →
      exec (.zicsr .csrrwi rd a csr) s = rw i ∧
      (a ≠ 0 → exec (.zicsr .csrrsi rd a csr) s = rw (old ||| i) ∧ exec (.zicsr .csrrci rd a csr) s = rw (old &&& ~~~i))) ∧
    (Ready s [one] dst → a = 0 →
      exec (.zicsr .csrrs rd a csr) s = .next (s.finishX rd.toNat old) ∧ exec (.zicsr .csrrc rd a csr) s = .next (s.finishX rd.toNat old)) ∧
    (Ready s [one] dst → 0x807 < n → exec (.zicsr .csrrw rd a csr) s = .next (s.trap 0x16 (word n))) ∧
    (∀ v : Word, (s.sl.writeCsr 0x800 v).flags = fld v 16 5 ∧ (∀ j, (j < 16 ∨ 21 ≤ j) → j < 64 → bit (s.sl.writeCsr 0x800 v).kstat j = bit s.sl.kstat j) ∧
      (s.sl.writeCsr 0x801 v).kprog = v ∧ (s.sl.writeCsr 0x802 v).kloop0 = v ∧ (s.sl.writeCsr 0x803 v).kls0 = v ∧ (s.sl.writeCsr 0x804 v).kle0 = v ∧
      (s.sl.writeCsr 0x805 v).kloop1 = v ∧ (s.sl.writeCsr 0x806 v).kls1 = v ∧ (s.sl.writeCsr 0x807 v).kle1 = v)

/-- A number that names no CSR raises 0x16 with the number, whatever the form (R81). -/
def Sys2Proof.Claim.UnknownControlRegisterTraps : Prop :=
  ∀ (s : State) (op : CsrOp) (rd a : Reg) (csr : BitVec 12),
    (csr.toNat < 0x800 ∨ (0x807 < csr.toNat ∧ csr.toNat < 0xCC0) ∨ (0xCC4 < csr.toNat ∧ csr.toNat < 0xCC8) ∨ csr.toNat = 0xCCE ∨
      csr.toNat = 0xCCF ∨ 0xCDC < csr.toNat) →
    Ready s [⟨false, a.toNat, 1, false, 1⟩] [⟨false, rd.toNat, 1, 0⟩] →
    exec (.zicsr op rd a csr) s = .next (s.trap 0x16 (word csr.toNat))

/-- The scalar extras (R84, R85): `min` and `max` compare signed, or natural with w bit 0; the counts of zeros and ones; `csel` by the
old destination; rotations; and bit fields, where a width of 0 or a field that ends above bit 63 raises 0x18 with the operand. -/
def Sys2Proof.Claim.ScalarExtras : Prop :=
  ∀ (s : State) (k : KOps) (l : LOps),
    let a := s.sl.xr k.rs1.toNat
    let b := s.sl.xr k.rs2.toNat
    let d := s.sl.xr k.rd.toNat
    let c := s.sl.xr l.rs1.toNat
    let natural := k.w.getLsbD 0
    let le : Prop := if natural = true then a.toNat ≤ b.toNat else a.toInt ≤ b.toInt
    let gives := fun (i : Instr) (v : Word) => exec i s = .next (s.finishX k.rd.toNat v)
    let pos := b.toNat % 64
    let width := b.toNat / 256 % 128
    let inRange := width ≠ 0 ∧ pos + width ≤ 64
    (Ready s [x1 k, x2 k] [toX k] →
      (le → gives (.min k) a ∧ gives (.max k) b) ∧ (¬ le → gives (.min k) b ∧ gives (.max k) a) ∧
      (∃ v, gives (.rol k) v ∧ ∀ i < 64, bit v ((i + b.toNat) % 64) = bit a i) ∧
      (∃ v, gives (.ror k) v ∧ ∀ i < 64, bit v i = bit a ((i + b.toNat) % 64)) ∧
      (inRange → ∃ v, gives (.bfx k) v ∧ ∀ i < 64, bit v i = (decide (i < width) && bit a (pos + i))) ∧
      (¬ inRange → exec (.bfx k) s = .next (s.trap 0x18 b))) ∧
    (Ready s [x1 k, x2 k, xd k] [toX k] →
      (d ≠ 0 → gives (.csel k) a) ∧ (d = 0 → gives (.csel k) b) ∧
      (inRange → ∃ v, gives (.bfi k) v ∧
        ∀ i < 64, bit v i = if pos ≤ i ∧ i < pos + width then bit a (i - pos) else bit d i) ∧
      (¬ inRange → exec (.bfi k) s = .next (s.trap 0x18 b))) ∧
    (Ready s [x1 k] [toX k] →
      (∃ n ≤ 64, gives (.clz k) (word n) ∧ (∀ i < n, bit a (63 - i) = false) ∧ (n < 64 → bit a (63 - n) = true)) ∧
      (∃ n ≤ 64, gives (.ctz k) (word n) ∧ (∀ i < n, bit a i = false) ∧ (n < 64 → bit a n = true)) ∧
      gives (.cpop k) (word (((List.range 64).filter fun i => bit a i).length))) ∧
    (Ready s [⟨false, l.rs1.toNat, 1, l.e1, 1⟩] [⟨false, l.rd.toNat, 1, 0⟩] →
      (∃ v, exec (.rolImm l) s = .next (s.finishX l.rd.toNat v) ∧ ∀ i < 64, bit v ((i + l.imm8.toNat) % 64) = bit c i) ∧
      (∃ v, exec (.rorImm l) s = .next (s.finishX l.rd.toNat v) ∧ ∀ i < 64, bit v i = bit c ((i + l.imm8.toNat) % 64)))

/-- The hardware loops (R86): a loop starts with its count, the next address and the address of its last word; a count of 0 skips the
body. A loop that is in use, an inner loop that does not lie in the outer one, or a body that leaves the code region raises 0x17 with
the address of the instruction. -/
def Sys2Proof.Claim.LoopsStartOrSkip : Prop :=
  ∀ (s : State) (k : KOps) (l : LOps) (one : Bool),
    let pc := s.sl.pc
    let inside := fun len => pc.toNat + 4 * len < s.sl.clause.codeBase.toNat + s.sl.clause.codeSize
    let nests := fun len => s.sl.kloop0 = 0 ∨ (s.sl.kls0.toNat ≤ pc.toNat + 4 ∧ pc.toNat + 4 * len ≤ s.sl.kle0.toNat)
    let free := fun (n : Bool) len => s.sl.kloop1 = 0 ∧ (if n = true then nests len else s.sl.kloop0 = 0)
    let begins := fun (n : Bool) (len : Nat) (count : Word) =>
      if count = 0 then s.modCur fun sl => sl.jump (word (pc.toNat + 4 * len + 4))
      else if n = true then s.modCur fun sl =>
        { sl.jump (word (pc.toNat + 4)) with kloop1 := count, kls1 := word (pc.toNat + 4), kle1 := word (pc.toNat + 4 * len) }
      else s.modCur fun sl =>
        { sl.jump (word (pc.toNat + 4)) with kloop0 := count, kls0 := word (pc.toNat + 4), kle0 := word (pc.toNat + 4 * len) }
    (Ready s [x1 k] [] →
      let len := bodyLength k.rd k.rs2
      let n := k.w.getLsbD 0
      (free n len → inside len → exec (.loop k) s = .next (begins n len (s.sl.xr k.rs1.toNat))) ∧
      (¬ (free n len ∧ inside len) → exec (.loop k) s = .next (s.trap 0x17 pc))) ∧
    (Ready s [] [] →
      let len := bodyLength l.rd l.rs1
      (free one len → inside len → exec (.loopi one l) s = .next (begins one len (l.imm8.setWidth 64))) ∧
      (¬ (free one len ∧ inside len) → exec (.loopi one l) s = .next (s.trap 0x17 pc)))

/-- `align` (R94): the slot is held at the word; where every core of its cluster with a clause of the launch is held there, or 64 · (t + 1)
cycles have passed, the release is due, and it moves every slot held there past the word, or the one whose time has run out. -/
def Sys2Proof.Claim.AlignHoldsAndReleases : Prop :=
  ∀ (s : State) (l : LOps) (k : Nat),
    (Ready s [] [] → (∀ a b, s.sl.wait ≠ .align a b) →
      let t := s.modCur fun sl => { sl with wait := .align sl.cycles l.imm8.toNat }
      (t.alignMet (clusterOf s.curCore) s.sl.pc s.sl.clause.launch = true → exec (.align l) s = .next (t.post (.alignRelease s.cur))) ∧
      (t.alignMet (clusterOf s.curCore) s.sl.pc s.sl.clause.launch = false → exec (.align l) s = .next t)) ∧
    (∀ since w, (s.slot k).wait = .align since w → (s.slot k).phase = .running → s.stopped k = false →
      let sl := s.slot k
      (s.alignMet (clusterOf (coreOf k)) sl.pc sl.clause.launch = true → ∃ t, exec (.alignRelease k) s = .next t ∧
        t.slot k = sl.complete ∧
        ∀ j, (s.slot j).heldAt sl.pc sl.clause.launch = true → clusterOf (coreOf j) = clusterOf (coreOf k) → t.slot j = (s.slot j).complete) ∧
      (s.alignMet (clusterOf (coreOf k)) sl.pc sl.clause.launch = false → since + 64 * (w + 1) ≤ sl.cycles →
        exec (.alignRelease k) s = .next (s.completeAt k)) ∧
      (s.alignMet (clusterOf (coreOf k)) sl.pc sl.clause.launch = false → sl.cycles < since + 64 * (w + 1) →
        exec (.alignRelease k) s = .next s))

/-- Scalar floating point (R89 to R92): operands are the low bits of their registers in FP32 or FP64; the exact result is rounded
once by the RM and SAT of the pending prefix, written zero-extended, and its flags accrue. `fcmp` gives the relation as a mask and
takes no prefix; `fcvt` rounds the source's value into the destination type, an `i32` result sign-extended. A payload that sets more
than RM and SAT raises 0x28. -/
def Sys2Proof.Claim.ScalarFloatResults : Prop :=
  ∀ (s : State) (k : KOps),
    let f := scalarFmt k.w
    let p := s.sl.payload
    let v := fun (r : Reg) => f.decode ((s.sl.xr r.toNat).toNat % 2 ^ f.width)
    let a := v k.rs1
    let b := v k.rs2
    let c := v k.rd
    let gives := fun (i : Instr) (r : Val × Flags) =>
      let q := f.round (payMode p) (paySat p) r.1
      exec i s = .next (s.finishXF k.rd.toNat (word q.1) (r.2 ||| q.2))
    payPlain p = true →
    (Ready s [x1 k, x2 k] [toX k] [] true →
      gives (.fadd k) (Val.add (payMode p) a b) ∧ gives (.fsub k) (Val.add (payMode p) a b.negate) ∧ gives (.fmul k) (Val.mul a b) ∧
      gives (.fdiv k) (Val.div a b) ∧ gives (.fmin k) (Val.pick true a b) ∧ gives (.fmax k) (Val.pick false a b)) ∧
    (Ready s [x1 k, x2 k, xd k] [toX k] [] true → gives (.fma k) (Val.fma (payMode p) a b c)) ∧
    (Ready s [x1 k] [toX k] [] true →
      gives (.fsqrt k) (Val.sqrt a) ∧
      let t := fcvtTypes k.rs2.toNat
      let r := t.1.encode (payMode p) (paySat p) (t.2.value ((s.sl.xr k.rs1.toNat).toNat % 2 ^ t.2.width))
      exec (.fcvt k) s = .next (s.finishXF k.rd.toNat
        (if t.1 = .int 32 true then ((BitVec.ofNat 32 r.1).signExtend 64) else word r.1) r.2)) ∧
    (Ready s [x1 k, x2 k] [toX k] →
      let m : Word := match a.rel b with | .lt => 1 | .eq => 2 | .gt => 4 | .un => 8
      exec (.fcmp k) s = .next (s.finishXF k.rd.toNat m (if a.signals = true ∨ b.signals = true then flagNV else 0)))

/-- A payload that sets more than RM and SAT raises 0x28 with the payload and the word, and nothing is computed (R164, R175). -/
def Sys2Proof.Claim.PlainPayloadRequired : Prop :=
  ∀ (s : State) (k : KOps), payPlain s.sl.payload = false →
    let bad := fun (i : Instr) => exec i s = .next (s.trap 0x28 (word (s.sl.payload.toNat + (wordOf i).toNat * 2 ^ 32)))
    (Ready s [x1 k, x2 k] [toX k] [] true → bad (.fadd k) ∧ bad (.fsub k) ∧ bad (.fmul k) ∧ bad (.fdiv k) ∧ bad (.fmin k) ∧ bad (.fmax k)) ∧
    (Ready s [x1 k] [toX k] [] true → bad (.fsqrt k) ∧ bad (.fcvt k)) ∧
    (Ready s [v1 k, v2 k] [toV k] [] true → bad (.vaddF k) ∧ bad (.vsubF k) ∧ bad (.vmulF k) ∧ bad (.vminF k) ∧ bad (.vmaxF k)) ∧
    (Ready s [v1 k] [toV k] [] true → bad (.vabsF k) ∧ bad (.vrcp k) ∧ bad (.vrsq k) ∧ bad (.vexp2 k) ∧ bad (.vlog2 k))

/-- Floating-point lane arithmetic (R138, R139): lane by lane in the format of the type code, the exact result rounded once by the RM
and SAT of the pending prefix; the flags of all lanes accrue. `vfma` and `vfms` add and subtract the old destination; `vabs` clears
sign bits and raises nothing. -/
def Obligations.VectorFloatResults : Prop :=
  ∀ (s : State) (k : KOps),
    let f := laneFmt k.w
    let p := s.sl.payload
    let n := 512 / f.width
    let v := fun (r : Reg) j => f.decode (lane f.width (s.sl.vr r.toNat) j)
    let gives := fun (i : Instr) (op : Nat → Val × Flags) => ∃ r : VWord,
      let q := fun j => f.round (payMode p) (paySat p) (op j).1
      exec i s = .next (s.finishV k.rd.toNat [r] (flagsUpTo (fun j => (op j).2 ||| (q j).2) n)) ∧
      ∀ j < n, lane f.width r j = (q j).1 % 2 ^ f.width
    payPlain p = true →
    (Ready s [v1 k, v2 k] [toV k] [] true →
      gives (.vaddF k) (fun j => Val.add (payMode p) (v k.rs1 j) (v k.rs2 j)) ∧
      gives (.vsubF k) (fun j => Val.add (payMode p) (v k.rs1 j) (v k.rs2 j).negate) ∧
      gives (.vmulF k) (fun j => Val.mul (v k.rs1 j) (v k.rs2 j)) ∧
      gives (.vminF k) (fun j => Val.pick true (v k.rs1 j) (v k.rs2 j)) ∧
      gives (.vmaxF k) (fun j => Val.pick false (v k.rs1 j) (v k.rs2 j))) ∧
    (Ready s [v1 k, v2 k, vd k] [toV k] [] true →
      gives (.vfma k) (fun j => Val.fma (payMode p) (v k.rs1 j) (v k.rs2 j) (v k.rd j)) ∧
      gives (.vfms k) (fun j => Val.fma (payMode p) (v k.rs1 j) (v k.rs2 j) (v k.rd j).negate)) ∧
    (Ready s [v1 k] [toV k] [] true →
      gives (.vrcp k) (fun j => Val.rcp (v k.rs1 j)) ∧ gives (.vrsq k) (fun j => Val.rsq (v k.rs1 j)) ∧
      gives (.vexp2 k) (fun j => Val.exp2 (v k.rs1 j)) ∧ gives (.vlog2 k) (fun j => Val.log2 (v k.rs1 j)) ∧
      (∃ r : VWord, exec (.vabsF k) s = .next (s.finishV k.rd.toNat [r] 0) ∧
        ∀ j < n, lane f.width r j = lane f.width (s.sl.vr k.rs1.toNat) j % 2 ^ (f.width - 1)))

/-- Integer lane arithmetic and shifts (R140): lane by lane at the width e of the type code, modulo 2^e; shift amounts modulo e. No
flag is raised. -/
def Sys2Proof.Claim.VectorIntegerResults : Prop :=
  ∀ (s : State) (k : KOps),
    let e := 8 * 2 ^ k.w.toNat
    let gives := fun (i : Instr) (op : Nat → Nat → Int) => ∃ r : VWord, exec i s = .next (s.finishV k.rd.toNat [r] 0) ∧
      ∀ j < 512 / e, (lane e r j : Int) = op (lane e (s.sl.vr k.rs1.toNat) j) (lane e (s.sl.vr k.rs2.toNat) j) % 2 ^ e
    let sg := fun (a : Nat) => if a < 2 ^ (e - 1) then (a : Int) else (a : Int) - 2 ^ e
    (Ready s [v1 k, v2 k] [toV k] →
      gives (.vaddI k) (fun a b => a + b) ∧ gives (.vsubI k) (fun a b => (a : Int) - b) ∧ gives (.vmulI k) (fun a b => a * b) ∧
      gives (.vminI k) (fun a b => if sg a ≤ sg b then a else b) ∧ gives (.vmaxI k) (fun a b => if sg a ≤ sg b then b else a) ∧
      gives (.vminN k) (fun a b => if a ≤ b then a else b) ∧ gives (.vmaxN k) (fun a b => if a ≤ b then b else a) ∧
      gives (.vshl k) (fun a b => a * 2 ^ (b % e)) ∧ gives (.vshr k) (fun a b => (a / 2 ^ (b % e) : Nat)) ∧
      gives (.vsra k) (fun a b => sg a / 2 ^ (b % e))) ∧
    (Ready s [v1 k] [toV k] → ∃ r : VWord, exec (.vabsI k) s = .next (s.finishV k.rd.toNat [r] 0) ∧
      ∀ j < 512 / e, lane e r j = (sg (lane e (s.sl.vr k.rs1.toNat) j)).natAbs % 2 ^ e)

/-- Lane compares (R141): all ones where the relation holds, else 0. A floating-point compare with a NaN holds for `ne` alone, and only
a signalling NaN raises NV. -/
def Sys2Proof.Claim.VectorCompareResults : Prop :=
  ∀ (s : State) (k : KOps), Ready s [v1 k, v2 k] [toV k] →
    let a := fun e j => lane e (s.sl.vr k.rs1.toNat) j
    let b := fun e j => lane e (s.sl.vr k.rs2.toNat) j
    let e := 8 * 2 ^ k.w.toNat
    let sg := fun (x : Nat) => if x < 2 ^ (e - 1) then (x : Int) else (x : Int) - 2 ^ e
    let ints := fun (i : Instr) (p : Nat → Nat → Prop) => ∃ r : VWord, exec i s = .next (s.finishV k.rd.toNat [r] 0) ∧
      ∀ j < 512 / e, (p (a e j) (b e j) → lane e r j = 2 ^ e - 1) ∧ (¬ p (a e j) (b e j) → lane e r j = 0)
    let f := laneFmt k.w
    let n := f.width
    let x := fun j => f.decode (a n j)
    let y := fun j => f.decode (b n j)
    let floats := fun (i : Instr) (p : Rel → Prop) => ∃ r : VWord,
      exec i s = .next (s.finishV k.rd.toNat [r]
        (flagsUpTo (fun j => if (x j).signals = true ∨ (y j).signals = true then flagNV else 0) (512 / n))) ∧
      ∀ j < 512 / n, (p ((x j).rel (y j)) → lane n r j = 2 ^ n - 1) ∧ (¬ p ((x j).rel (y j)) → lane n r j = 0)
    ints (.vcmpEqI k) (fun a b => a = b) ∧ ints (.vcmpNeI k) (fun a b => a ≠ b) ∧ ints (.vcmpLtI k) (fun a b => sg a < sg b) ∧
    ints (.vcmpLeI k) (fun a b => sg a ≤ sg b) ∧ ints (.vcmpLtN k) (fun a b => a < b) ∧ ints (.vcmpLeN k) (fun a b => a ≤ b) ∧
    floats (.vcmpEqF k) (fun r => r = .eq) ∧ floats (.vcmpNeF k) (fun r => r ≠ .eq) ∧ floats (.vcmpLtF k) (fun r => r = .lt) ∧
    floats (.vcmpLeF k) (fun r => r = .lt ∨ r = .eq)

/-- Vector logic and select (R142) work on whole groups of 1, 2, 4 or 8 registers; a group register that is no multiple of the group
size raises 0x01 with the word (R63, R73). -/
def Sys2Proof.Claim.VectorLogicResults : Prop :=
  ∀ (s : State) (k : KOps),
    let n := 2 ^ k.w.toNat
    let gs := [(k.rd.toNat, n), (k.rs1.toNat, n), (k.rs2.toNat, n)]
    let a := fun j => s.sl.vr (k.rs1.toNat + j)
    let b := fun j => s.sl.vr (k.rs2.toNat + j)
    let d := fun j => s.sl.vr (k.rd.toNat + j)
    let gives := fun (i : Instr) (op : Nat → VWord) => exec i s = .next (s.finishV k.rd.toNat ((List.range n).map op) 0)
    (Ready s [v1 k n, v2 k n] [toV k n] gs →
      gives (.vand k) (fun j => a j &&& b j) ∧ gives (.vor k) (fun j => a j ||| b j) ∧ gives (.vxor k) (fun j => a j ^^^ b j)) ∧
    (Ready s [v1 k n, v2 k n, vd k n] [toV k n] gs → gives (.vsel k) (fun j => (a j &&& d j) ||| (b j &&& ~~~(d j)))) ∧
    (s.sl.blocked = false → (k.rd.toNat % n ≠ 0 ∨ k.rs1.toNat % n ≠ 0 ∨ k.rs2.toNat % n ≠ 0) →
      let bad := fun (i : Instr) => exec i s = .next (s.trap 0x01 ((wordOf i).setWidth 64))
      bad (.vand k) ∧ bad (.vor k) ∧ bad (.vxor k) ∧ bad (.vsel k))

/-- Words of lanes that take no format (R66, R140 to R142): where a prefix is pending, an integer lane, compare or logic word raises 0x02 with the
word. -/
def Sys2Proof.Claim.LaneWordsRefuseAPrefix : Prop :=
  ∀ (s : State) (k : KOps), s.sl.blocked = false → s.sl.pp = true →
    let n := 2 ^ k.w.toNat
    let bad := fun (i : Instr) => exec i s = .next (s.trap 0x02 ((wordOf i).setWidth 64))
    (bad (.vaddI k) ∧ bad (.vsubI k) ∧ bad (.vmulI k) ∧ bad (.vminI k) ∧ bad (.vmaxI k) ∧ bad (.vminN k) ∧ bad (.vmaxN k) ∧
      bad (.vabsI k) ∧ bad (.vshl k) ∧ bad (.vshr k) ∧ bad (.vsra k)) ∧
    (bad (.vcmpEqI k) ∧ bad (.vcmpNeI k) ∧ bad (.vcmpLtI k) ∧ bad (.vcmpLeI k) ∧ bad (.vcmpLtN k) ∧ bad (.vcmpLeN k) ∧
      bad (.vcmpEqF k) ∧ bad (.vcmpNeF k) ∧ bad (.vcmpLtF k) ∧ bad (.vcmpLeF k)) ∧
    (k.rd.toNat % n = 0 → k.rs1.toNat % n = 0 → k.rs2.toNat % n = 0 → bad (.vand k) ∧ bad (.vor k) ∧ bad (.vxor k) ∧ bad (.vsel k))

/-- Lane moves (R143): `vperm` picks lanes by index, 0 where the index is out of range; `vbcast` and `viota` fill lanes from a scalar;
`vext` and `vins` read and replace one lane, and an index at or above the lane count raises 0x21 with the index. -/
def Sys2Proof.Claim.LaneMoveResults : Prop :=
  ∀ (s : State) (k : KOps),
    let e := 8 * 2 ^ k.w.toNat
    let n := 512 / e
    let x := s.sl.xr k.rs1.toNat
    let i := s.sl.xr k.rs2.toNat
    (Ready s [v1 k, v2 k] [toV k] → ∃ r : VWord, exec (.vperm k) s = .next (s.finishV k.rd.toNat [r] 0) ∧
      ∀ j < n, lane e r j = let m := lane e (s.sl.vr k.rs2.toNat) j; if m < n then lane e (s.sl.vr k.rs1.toNat) m else 0) ∧
    (Ready s [x1 k] [toV k] →
      (∃ r : VWord, exec (.vbcast k) s = .next (s.finishV k.rd.toNat [r] 0) ∧ ∀ j < n, lane e r j = x.toNat % 2 ^ e) ∧
      (∃ r : VWord, exec (.viota k) s = .next (s.finishV k.rd.toNat [r] 0) ∧ ∀ j < n, lane e r j = (x.toNat + j) % 2 ^ e)) ∧
    (Ready s [v1 k, x2 k] [toX k] →
      (i.toNat < n → exec (.vext k) s = .next (s.finishX k.rd.toNat (word (lane e (s.sl.vr k.rs1.toNat) i.toNat)))) ∧
      (n ≤ i.toNat → exec (.vext k) s = .next (s.trap 0x21 i))) ∧
    (Ready s [x1 k, x2 k, vd k] [toV k] →
      (i.toNat < n → ∃ r : VWord, exec (.vins k) s = .next (s.finishV k.rd.toNat [r] 0) ∧
        ∀ j < n, lane e r j = if j = i.toNat then x.toNat % 2 ^ e else lane e (s.sl.vr k.rd.toNat) j) ∧
      (n ≤ i.toNat → exec (.vins k) s = .next (s.trap 0x21 i)))

/-- Reductions (R144): an integer `vred` of lanes widened to 64 bits is their sum modulo 2^64, or their least or greatest, signed or
natural; a floating-point `vred` combines neighbours pairwise, level by level, rounding to nearest even. -/
def Sys2Proof.Claim.ReductionResults : Prop :=
  ∀ (s : State) (k : KOps), Ready s [v1 k] [toX k] →
    let e := 8 * 2 ^ k.w.toNat
    let n := 512 / e
    let a := fun j => lane e (s.sl.vr k.rs1.toNat) j
    let sg := fun j => if a j < 2 ^ (e - 1) then (a j : Int) else (a j : Int) - 2 ^ e
    let f := laneFmt k.w
    let v := s.sl.vr k.rs1.toNat
    (k.rs2 = 0 → exec (.vredI k) s = .next (s.finishX k.rd.toNat (BitVec.ofInt 64 ((List.range n).foldl (fun t j => t + sg j) 0)))) ∧
    (k.rs2 = 1 → ∃ j < n, (∀ i < n, sg j ≤ sg i) ∧ exec (.vredI k) s = .next (s.finishX k.rd.toNat (BitVec.ofInt 64 (sg j)))) ∧
    (k.rs2 = 2 → ∃ j < n, (∀ i < n, sg i ≤ sg j) ∧ exec (.vredI k) s = .next (s.finishX k.rd.toNat (BitVec.ofInt 64 (sg j)))) ∧
    (k.rs2 = 3 → ∃ j < n, (∀ i < n, a j ≤ a i) ∧ exec (.vredI k) s = .next (s.finishX k.rd.toNat (word (a j)))) ∧
    (k.rs2 = 4 → ∃ j < n, (∀ i < n, a i ≤ a j) ∧ exec (.vredI k) s = .next (s.finishX k.rd.toNat (word (a j)))) ∧
    (let r := treeReduce (redCombineF f k.rs2.toNat) (Nat.log2 (512 / f.width)) (lanes f.width v) 0
     exec (.vredF k) s = .next (s.finishXF k.rd.toNat (word r.1) r.2))

/-- `vtopk` (R145): the destination's lanes are the lane numbers of the candidates, each lane once, and a candidate stands before another
where its value ranks above, or its value ranks equal and its index is smaller, or both are equal and its lane is. -/
def Sys2Proof.Claim.TopkRanksTheLanes : Prop :=
  ∀ (s : State) (k : KOps), Ready s [v1 k, v2 k] [toV k] →
    let f := laneFmt k.w
    let e := f.width
    let n := 512 / e
    let val := fun j => f.decode (lane e (s.sl.vr k.rs1.toNat) j)
    let idx := fun j => lane e (s.sl.vr k.rs2.toNat) j
    ∃ r : VWord, exec (.vtopk k) s = .next (s.finishV k.rd.toNat [r] 0) ∧
      (∀ j < n, lane e r j < n) ∧ (∀ i < n, ∃ j < n, lane e r j = i) ∧
      ∀ i j, i < j → j < n →
        let a := lane e r i
        let b := lane e r j
        rankAbove (val a) (val b) = true ∨
          (rankAbove (val b) (val a) = false ∧ (idx a < idx b ∨ (idx a = idx b ∧ a < b)))

/-- Reductions and rankings take no format (R66, R144, R145): where a prefix is pending, they raise 0x02 with the word. -/
def Sys2Proof.Claim.RankingsRefuseAPrefix : Prop :=
  ∀ (s : State) (k : KOps), s.sl.blocked = false → s.sl.pp = true →
    let bad := fun (i : Instr) => exec i s = .next (s.trap 0x02 ((wordOf i).setWidth 64))
    bad (.vredI k) ∧ bad (.vredF k) ∧ bad (.vtopk k)

/-- The prefix and the conversions (R66, R163, R168 to R172): `fmt` leaves its payload pending; `vcvt` converts lane by lane with one
rounding, lanes above the last converted one being 0; the compute form of `vscl` gives the shared scale of 32 lanes and the apply form
scales lanes by 2^(X - 127), rounded once. -/
def Sys2Proof.Claim.ConversionResults : Prop :=
  ∀ (s : State) (k : KOps) (payload : BitVec 17),
    let p := s.sl.payload
    (Ready s [] [] → exec (.fmt payload) s = .next (s.modCur fun sl => { sl.complete.setPP true with kpfx := payload })) ∧
    (let t := vcvtTypes k.rs2.toNat
     let ed := t.1.width
     let es := t.2.width
     let sh := vcvtShape k.w ed es
     let src := groupNum (s.sl.vs k.rs1.toNat sh.2.2)
     let res := fun j => t.1.encode (payMode p) (paySat p) (t.2.value (bitsOf src (es * j) es))
     payPlain p = true → Ready s [v1 k sh.2.2] [toV k sh.2.1] [(k.rd.toNat, sh.2.1), (k.rs1.toNat, sh.2.2)] true →
       ∃ g : List VWord, g.length = sh.2.1 ∧
         exec (.vcvt k) s = .next (s.finishV k.rd.toNat g (flagsUpTo (fun j => (res j).2) sh.1)) ∧
         ∀ j, j < 512 * sh.2.1 / ed → bitsOf (groupNum g) (ed * j) ed = if j < sh.1 then (res j).1 % 2 ^ ed else 0) ∧
    (Ready s [v1 k 2] [toX k] [(k.rs1.toNat, 2)] true → k.w = 1 →
       2 ≤ payA p → payA p ≤ 6 → payB p = 0 → payAcc p = 0 → payScale p = 1 → payG p = 0 →
       exec (.vsclCompute k) s = .next (s.finishX k.rd.toNat
         (word (sharedScale ((List.range 32).map fun j => bitsOf (groupNum (s.sl.vs k.rs1.toNat 2)) (32 * j) 32) (payA p))))) ∧
    (let n := 2 ^ k.w.toNat
     let x := s.sl.xr k.rs2.toNat
     let src := groupNum (s.sl.vs k.rs1.toNat n)
     payPlain p = true → Ready s [v1 k n, x2 k] [toV k n] [(k.rd.toNat, n), (k.rs1.toNat, n)] true →
       (x.toNat < 256 → ∃ g : List VWord, ∃ fl, g.length = n ∧ exec (.vsclApply k) s = .next (s.finishV k.rd.toNat g fl) ∧
         ∀ j < 16 * n, bitsOf (groupNum g) (32 * j) 32 =
           ((NumType.fp fp32).encode (payMode p) (paySat p)
             (if x.toNat = 255 then .nan true else (fp32.decode (bitsOf src (32 * j) 32)).scale (x.toNat - 127))).1 % 2 ^ 32) ∧
       (256 ≤ x.toNat → exec (.vsclApply k) s = .next (s.trap 0x29 x)))

/-- Packing and unpacking (R167, R171 to R173): in the plain and MX forms lane j of `vpack` is the code of FP32 lane j, divided by the
shared scale and rounded once, with the shared scale of the group in the top byte; `vunpk` gives back the values, rounded once. A payload
or shape outside R167 raises 0x28. -/
def Sys2Proof.Claim.PackAndUnpackResults : Prop :=
  ∀ (s : State) (k : KOps),
    let p := s.sl.payload
    let n := 2 ^ k.w.toNat
    let e := elemWidth (payA p)
    let xp := s.sl.xr k.rs2.toNat
    let enc := fun (v : Val) => (elemType (payA p)).encode (payMode p) (paySat p) v
    (Ready s [v1 k n, x2 k] [toV k] [(k.rs1.toNat, n)] true →
      let row := (List.range (16 * n)).map fun j => bitsOf (groupNum (s.sl.vs k.rs1.toNat n)) (32 * j) 32
      let x := sharedScale row (payA p)
      (blockPayload p n k.rs2.toNat = false → exec (.vpack k) s = .next (s.trap 0x28 (formatAddr p (wordOf (.vpack k))))) ∧
      (blockPayload p n k.rs2.toNat = true → payScale p = 0 → ∃ r : VWord, ∃ fl, exec (.vpack k) s = .next (s.finishV k.rd.toNat [r] fl) ∧
        ∀ j < 16 * n, lane e r j = (enc (fp32.decode (row.getD j 0))).1 % 2 ^ e) ∧
      (blockPayload p n k.rs2.toNat = true → payScale p = 1 → x ≠ 255 → ∃ r : VWord, ∃ fl,
        exec (.vpack k) s = .next (s.finishV k.rd.toNat [r] fl) ∧ bitsOf r.toNat 504 8 = x % 256 ∧
        ∀ j < 16 * n, e * (j + 1) ≤ 504 → lane e r j = (enc ((fp32.decode (row.getD j 0)).scale (127 - (x : Int)))).1 % 2 ^ e)) ∧
    (Ready s [v1 k, x2 k] [toV k n] [(k.rd.toNat, n)] true →
      let src := s.sl.vr k.rs1.toNat
      let x := bitsOf src.toNat 504 8
      (blockPayload p n k.rs2.toNat = false → exec (.vunpk k) s = .next (s.trap 0x28 (formatAddr p (wordOf (.vunpk k))))) ∧
      (blockPayload p n k.rs2.toNat = true → payScale p < 2 → ∃ g : List VWord, ∃ fl, g.length = n ∧
        exec (.vunpk k) s = .next (s.finishV k.rd.toNat g fl) ∧
        ∀ j < 16 * n, bitsOf (groupNum g) (32 * j) 32 =
          ((NumType.fp fp32).encode (payMode p) (paySat p)
            (let v := (elemType (payA p)).value (lane e src j)
             if payScale p = 0 then v else if x = 255 then .nan true else v.scale ((x : Int) - 127))).1 % 2 ^ 32) ∧
      (blockPayload p n k.rs2.toNat = true → payScale p = 2 → paramOk xp e = false → exec (.vunpk k) s = .next (s.trap 0x29 xp)))

/-- Memory (R3 of 00_scope.md, R195): bytes written read back, lowest first; every other byte reads as before; and a write keeps the
canonical form, so that equal memories are equal lists. -/
def Obligations.MemoryReadsWhatWasWritten : Prop :=
  ∀ (m : List Host.Cell) (a : Nat) (bs : List Byte), Memory.wf m = true →
    memBytes (memWriteBytes m a bs) a bs.length = bs ∧ (∀ b, (b < a ∨ a + bs.length ≤ b) → memRead (memWriteBytes m a bs) b = memRead m b) ∧
    Memory.wf (memWriteBytes m a bs) = true ∧
    ∀ mask, Memory.wf (memWriteMasked m a mask bs) = true ∧
      ∀ b, memRead (memWriteMasked m a mask bs) b =
        if a ≤ b ∧ b < a + bs.length ∧ bitOf mask (b - a) = true then bs.getD (b - a) 0 else memRead m b

/-- What a near store does to memory (R195, R196, R245, R248): in the operand store of the core and in the core's own stripe of the
scratchpad the stored bytes are in memory at once, and every other byte is as before; to another stripe no byte of memory changes, and
the youngest entry of the slot's forwarding table holds the bytes. -/
def Sys2Proof.Claim.NearStoreWritesItsBytes : Prop :=
  ∀ (s : State) (a cl : Nat) (bs : List Byte), Memory.wf s.mem = true →
    (∀ t, (t = Near.operand a ∨ (t = Near.pad a cl ∧ cl / 128 % 8 = s.curCore % 8)) →
      (s.nearStore s.cur t bs).bytes a bs.length = bs ∧
      (∀ b, (b < a ∨ a + bs.length ≤ b) → memRead (s.nearStore s.cur t bs).mem b = memRead s.mem b) ∧
      Memory.wf (s.nearStore s.cur t bs).mem = true ∧ (s.nearStore s.cur t bs).slots = s.slots) ∧
    (cl / 128 % 8 ≠ s.curCore % 8 →
      let t := s.nearStore s.cur (.pad a cl) bs
      t.mem = s.mem ∧ t.sl.fwd = s.sl.fwd ++ [{ addr := cl, bytes := bs }] ∧ t.sl = { s.sl with fwd := t.sl.fwd } ∧
      (∀ k, k ≠ s.cur → t.slot k = s.slot k))

/-- FORWARDING_ENTRY_WRITE (R248): the oldest entry of a slot's forwarding table reaches its stripe, and leaves the table; every byte
outside it reads as before. -/
def Sys2Proof.Claim.ForwardingEntryReachesItsStripe : Prop :=
  ∀ (s : State) (k : Nat) (f : Fwd) (rest : List Fwd), (s.slot k).fwd = f :: rest → Memory.wf s.mem = true →
    let a := padAddr (clusterOf (coreOf k)) f.addr
    ∃ t, exec (.forwardingEntryWrite k) s = .next t ∧ (t.slot k).fwd = rest ∧ t.bytes a f.bytes.length = f.bytes ∧
      (∀ b, (b < a ∨ a + f.bytes.length ≤ b) → memRead t.mem b = memRead s.mem b) ∧
      (∀ j, j ≠ k → t.slot j = s.slot j) ∧ ∀ r, (t.slot k).xr r = (s.slot k).xr r ∧ (t.slot k).vr r = (s.slot k).vr r

/-- Near vector and non-blocking accesses (R147, R206 to R208): the base plus the scaled signed offset, aligned to the size; a near
`vld` fills its register at once, `gld` and `gvld` leave theirs empty and fill it after the latency of R83 with what they read; `gst` and `gvst` write at once, and with w 10 leave the next access held
until every earlier store is acknowledged and in its stripe. A misaligned vector access raises 0x20, a misaligned `gld`, `gvld`, `gst` or `gvst` 0x55. -/
def Sys2Proof.Claim.NearVectorAndPostedAccesses : Prop :=
  ∀ (s : State) (l : LOps) (o : WOps) (sub3 : BitVec 3) (sub2 : BitVec 2) (t : Near),
    let off := fun scale => s.sl.xr l.rs1.toNat + BitVec.ofInt 64 (l.imm8.toInt * (scale : Nat))
    let a := off 64
    let base : Src := ⟨false, l.rs1.toNat, 1, l.e1, 1⟩
    let n := match sub3.toNat with | 0 => 1 | 1 => 1 | 2 => 2 | 3 => 2 | 4 => 4 | 5 => 4 | _ => 8
    let signed := sub3.toNat = 0 ∨ sub3.toNat = 2 ∨ sub3.toNat = 4
    let m := 2 ^ sub2.toNat
    let sa := fun scale => s.sl.xr o.rs1.toNat + word (o.imm5.toNat * scale)
    let sb : Src := ⟨false, o.rs1.toNat, 1, o.e1, 1⟩
    let after := fun (u : State) => u.modCur fun sl => if o.w = 2 then sl.complete.addFence 4 0 else sl.complete
    Unfenced s →
    (Ready s [base] [⟨true, l.rd.toNat, 1, 0⟩] →
      (a.toNat % 64 ≠ 0 → exec (.vld l) s = .next (s.trap 0x20 a) ∧ exec (.gvld l) s = .next (s.trap 0x55 a)) ∧
      (a.toNat % 64 = 0 → s.access s.cur .read a 64 = .ok (.near t) → s.nearError t 64 = none →
        let v := BitVec.ofNat 512 (ofBytes (s.nearBytes s.cur t 64))
        exec (.vld l) s = .next ((s.finishV l.rd.toNat [v] 0).corrected t 64) ∧
        exec (.gvld l) s = .next ((s.modCur fun sl => (sl.fillLater true l.rd.toNat v (nearLatency s.curCore t)).complete).corrected t 64))) ∧
    (Ready s [base, ⟨true, l.rd.toNat, 1, false, 0⟩] [] →
      (a.toNat % 64 ≠ 0 → exec (.vst l) s = .next (s.trap 0x20 a)) ∧
      (a.toNat % 64 = 0 → s.access s.cur .write a 64 = .ok (.near t) → s.storeReady s.cur t 64 = true →
        exec (.vst l) s = .next ((s.nearStore s.cur t (toBytes 64 (s.sl.vr l.rd.toNat).toNat)).complete))) ∧
    (Ready s [base] [⟨false, l.rd.toNat, 1, 0⟩] →
      ((off n).toNat % n ≠ 0 → exec (.gld sub3 l) s = .next (s.trap 0x55 (off n))) ∧
      ((off n).toNat % n = 0 → s.access s.cur .read (off n) n = .ok (.near t) → s.nearError t n = none →
        ∃ v : Word, exec (.gld sub3 l) s =
          .next ((s.modCur fun sl => (sl.fillLater false l.rd.toNat (v.setWidth 512) (nearLatency s.curCore t)).complete).corrected t n) ∧
          v.toNat % 2 ^ (8 * n) = ofBytes (s.nearBytes s.cur t n) % 2 ^ (8 * n) ∧
          (¬ signed → v.toNat < 2 ^ (8 * n)) ∧ (signed → -2 ^ (8 * n - 1) ≤ v.toInt ∧ v.toInt < 2 ^ (8 * n - 1)))) ∧
    (Ready s [sb, ⟨false, o.rs2.toNat, 1, o.e2, 2⟩] [] →
      ((sa m).toNat % m ≠ 0 → exec (.gst sub2 o) s = .next (s.trap 0x55 (sa m))) ∧
      ((sa m).toNat % m = 0 → s.access s.cur .write (sa m) m = .ok (.near t) → s.storeReady s.cur t m = true →
        (o.w = 0 ∨ (s.sl.far = [] ∧ s.sl.fwd = [])) →
        exec (.gst sub2 o) s = .next (after (s.nearStore s.cur t (toBytes m (s.sl.xr o.rs2.toNat).toNat))))) ∧
    (Ready s [sb, ⟨true, o.rs2.toNat, 1, o.e2, 2⟩] [] →
      ((sa 64).toNat % 64 ≠ 0 → exec (.gvst o) s = .next (s.trap 0x55 (sa 64))) ∧
      ((sa 64).toNat % 64 = 0 → s.access s.cur .write (sa 64) 64 = .ok (.near t) → s.storeReady s.cur t 64 = true →
        (o.w = 0 ∨ (s.sl.far = [] ∧ s.sl.fwd = [])) →
        exec (.gvst o) s = .next (after (s.nearStore s.cur t (toBytes 64 (s.sl.vr o.rs2.toNat).toNat))))) ∧
    (∀ (sl : Slot) (vec : Bool) (r : Nat) (v : VWord) (c : Nat), (vec = true ∨ r ≠ 0) →
      let u := sl.fillLater vec r v c
      u.mark vec r = .empty ∧ u.nearFills = sl.nearFills ++ [{ vec := vec, reg := r, value := v, left := c }] ∧
      (∀ q, (vec = true ∨ q ≠ r) → u.xr q = sl.xr q ∧ u.xmark q = sl.xmark q) ∧ (∀ q, (vec = false ∨ q ≠ r) → u.vr q = sl.vr q ∧ u.vmark q = sl.vmark q) ∧
      (sl.nearFills = [] →
        (c ≤ 1 → (u.tick false).mark vec r = .full ∧ (u.tick false).nearFills = [] ∧
          if vec then (u.tick false).vr r = v else (u.tick false).xr r = v.setWidth 64) ∧
        (1 < c → u.tick false = { u with nearFills := [{ vec := vec, reg := r, value := v, left := c - 1 }] }))) ∧
    (∀ (cl c : Nat), c < 4096 → nearLatency c (.operand cl) = 3 ∧
      nearLatency c (.pad 0 cl) = if cl / 128 % 8 = c % 8 then 6 else 10)

/-- Far vector and non-blocking accesses (R147, R199, R206 to R208): one request leaves for the home. `vld` and `vst` stand until the answer;
`gld` and `gvld` go on with their destination empty, which the reply fills; `gst` and `gvst` go on, their acknowledgement counted. -/
def Sys2Proof.Claim.FarVectorAndPostedAccesses : Prop :=
  ∀ (s : State) (l : LOps) (o : WOps) (sub3 : BitVec 3) (sub2 : BitVec 2) (ga : Word) (unit : Nat) (chip : BitVec 20) (leaf : Nat),
    let a := s.offsetAddr l 64
    let n := (gldShape sub3).1
    let g := s.offsetAddr l n
    let base : Src := ⟨false, l.rs1.toNat, 1, l.e1, 1⟩
    let sb : Src := ⟨false, o.rs1.toNat, 1, o.e1, 1⟩
    let m := 2 ^ sub2.toNat
    let sa := fun scale => s.sl.xr o.rs1.toNat + word (o.imm5.toNat * scale)
    let at_ := fun acc va n => s.access s.cur acc va n = .ok (.far ga unit chip leaf)
    let after := fun (u : State) => u.modCur fun sl => if o.w = 2 then sl.complete.addFence 4 0 else sl.complete
    Unfenced s → s.sl.farRoom 1 = true →
    (Ready s [base] [⟨true, l.rd.toNat, 1, 0⟩] → a.toNat % 64 = 0 → at_ .read a 64 →
      exec (.vld l) s = .next (((s.touched a).sendRead s.cur a ga unit chip 64 .blocking).block (.vload l.rd.toNat) 1) ∧
      exec (.gvld l) s = .next (((s.touched a).sendRead s.cur a ga unit chip 64 (.fillV l.rd.toNat)).modCur
        fun sl => (sl.emptyRegs true l.rd.toNat 1).complete)) ∧
    (Ready s [base, ⟨true, l.rd.toNat, 1, false, 0⟩] [] → a.toNat % 64 = 0 → at_ .write a 64 →
      exec (.vst l) s = .next (((s.touched a).sendWrite s.cur 0x21 a ga unit chip (toBytes 64 (s.sl.vr l.rd.toNat).toNat) .blocking).block .store 1)) ∧
    (Ready s [base] [⟨false, l.rd.toNat, 1, 0⟩] → g.toNat % n = 0 → at_ .read g n →
      exec (.gld sub3 l) s = .next (((s.touched g).sendRead s.cur g ga unit chip n (.fillX l.rd.toNat n 1 (gldShape sub3).2)).modCur
        fun sl => (sl.emptyRegs false l.rd.toNat 1).complete)) ∧
    ((o.w = 0 ∨ (s.sl.far = [] ∧ s.sl.fwd = [])) →
      (Ready s [sb, ⟨false, o.rs2.toNat, 1, o.e2, 2⟩] [] → (sa m).toNat % m = 0 → at_ .write (sa m) m →
        exec (.gst sub2 o) s = .next (after ((s.touched (sa m)).sendWrite s.cur (0x21 + o.w.toNat) (sa m) ga unit chip
          (toBytes m (s.sl.xr o.rs2.toNat).toNat) .posted))) ∧
      (Ready s [sb, ⟨true, o.rs2.toNat, 1, o.e2, 2⟩] [] → (sa 64).toNat % 64 = 0 → at_ .write (sa 64) 64 →
        exec (.gvst o) s = .next (after ((s.touched (sa 64)).sendWrite s.cur (0x21 + o.w.toNat) (sa 64) ga unit chip
          (toBytes 64 (s.sl.vr o.rs2.toNat).toNat) .posted))))

/-- A far request (R103, R118, R199 to R202): one message to its home with the clause's digest and next sequence number and a tag that names
the slot, its generation and the destination; the slot counts it among those out and owes one more reply; `kreql` or `kreqx` counts it.
No register, no memory and no other slot changes. -/
def Obligations.FarRequestLeavesOnce : Prop :=
  ∀ (s : State) (k kind unit : Nat) (chip : BitVec 20) (va ga : Word) (use : FarUse) (units : Nat) (p : List Word) (name : Option (BitVec 128)),
    let sl := s.slot k
    let t := s.sendFar k kind unit chip va ga use units p name
    let reg := match use with | .fillX rd _ _ _ => rd | .fillV rd => rd | _ => 0
    chip = s.hub.chipId → k / 4 < 4096 →
    (∃ m, t.net = s.net ++ [m] ∧ m.kind = BitVec.ofNat 8 kind ∧ m.dstChip = chip ∧ m.unit = unit ∧ m.payload = p ∧ m.key = sl.kpath ∧
      m.seq = sl.kseq.setWidth 32 ∧ m.srcChip = s.hub.chipId ∧ tagKind m.tag = 2 ∧ tagSlot m.tag = k % 4 ∧
      tagCore m.tag = k / 4 % 4096 ∧ tagGen m.tag = sl.gen % 1024 ∧ tagReg m.tag = reg % 32) ∧
    (∃ f, (t.slot k).far = sl.far ++ [f] ∧ f.gen = sl.gen ∧ f.seq = sl.kseq.setWidth 32 ∧ f.kind = kind ∧ f.use = use ∧ f.ctx = sl.clause.ctx ∧
      f.launch = sl.clause.launch) ∧
    (t.slot k).kseq = sl.kseq + 1 ∧ (t.slot k).owed.get sl.gen 0 = sl.owed.get sl.gen 0 + 1 ∧
    t.slot k = { sl with far := (t.slot k).far, kseq := (t.slot k).kseq, owed := (t.slot k).owed } ∧
    (∀ j, j ≠ k → t.slot j = s.slot j) ∧ t.mem = s.mem ∧
    (let c := s.core (k / 4)
     if unitDie unit = some (k / 4 / 1024) then (t.core (k / 4)).kreql = c.kreql + 1 ∧ (t.core (k / 4)).kreqx = c.kreqx
     else (t.core (k / 4)).kreqx = c.kreqx + 1 ∧ (t.core (k / 4)).kreql = c.kreql)

/-- Gather and scatter (R148, R149): each element's address is the base plus its signed offset lane, aligned to the element; a mixture of
near and far raises 0x22 for the first far element; near elements are read or written at once, far ones by one request for each distinct
line, at which the slot stands. -/
def Sys2Proof.Claim.GatherAndScatter : Prop :=
  ∀ (s : State) (k : KOps) (es : List (Word × Target)),
    let e := 8 * 2 ^ k.w.toNat
    let ls := elemLines es []
    let vs := es.zip (lanes e (s.sl.vr k.rd.toNat))
    Unfenced s →
    (Ready s [x1 k, v2 k] [toV k] →
      (∀ a, (s.elementAddrs k).find? (fun x => x.toNat % (e / 8) != 0) = some a →
        exec (.vgth k) s = .next (s.trap 0x20 a)) ∧
      (s.elements .read k = .ok es → allNear es = true → s.elemErrors (e / 8) es = .ok () →
        exec (.vgth k) s = .next (es.foldl (fun s x => s.correctedAt x.1 (e / 8))
          (s.finishV k.rd.toNat [ofLanes e (es.map fun x => s.elemBytes (e / 8) x.2)] 0))) ∧
      (s.elements .read k = .ok es → allNear es = false → s.sl.farRoom ls.length = true →
        exec (.vgth k) s = .next ((ls.foldl (fun s l => s.sendRead s.cur l.va l.ga l.unit l.chip 64 .blocking)
          (es.foldl (fun s x => s.touched x.1) s)).block
            (.gather k.rd.toNat (e / 8) (es.map fun x => match x.2 with | .far ga _ _ _ => ga.toNat | .near _ => 0)) ls.length))) ∧
    (Ready s [x1 k, v2 k, vd k] [] →
      (s.elements .write k = .ok es → allNear es = true → s.sl.fwd.length + s.crossStripe es ≤ 16 → s.elemsReady (e / 8) es = true →
        exec (.vsct k) s = .next ((s.scatterNear (e / 8) vs).complete)) ∧
      (s.elements .write k = .ok es → allNear es = false → s.sl.farRoom ls.length = true →
        exec (.vsct k) s = .next ((ls.foldl (fun s l =>
            let r := layElems (e / 8) l.ga vs (List.replicate 64 0, 0)
            s.sendMasked s.cur l.va l.ga l.unit l.chip r.1 r.2) (es.foldl (fun s x => s.touched x.1) s)).block .store ls.length)))

/-- Streams (R209 to R212): `qbind` binds a register to a live stream that the context started, or to none; `qrd` and `qrdv` deliver the next
word or element from the scratchpad and advance; `qstat` reports. A register that is bound to none raises 0x56, a stream of another
context 0x58, `qrdv` inside an element 0x59, a stream that ended with nothing left 0x57. A slot whose element has not arrived, or before
which another slot stalled on the stream, waits behind those that stalled, in their order. -/
def Sys2Proof.Claim.StreamDeliveries : Prop :=
  ∀ (s : State) (k : KOps),
    let id := s.sl.qr k.rs1.toNat
    let st := (s.cluster (clusterOf s.curCore)).streams.get id.toNat {}
    let a := st.dest + 64 * st.next + 8 * st.word
    let near := Near.pad (padAddr (clusterOf s.curCore) a) a
    let free := st.waiters = [] ∨ st.waiters.head? = some s.cur
    let due := (st.next < st.arrived ∨ st.ended = true) ∧ free
    let took := fun (t : Stream) => s.setStream id.toNat { t with waiters := st.waiters.filter (· != s.cur) }
    let edges := fun (i : Instr) (whole : Prop) => (id = 0 → exec i s = .next (s.trap 0x56 (word k.rs1.toNat))) ∧
      (id ≠ 0 → whole → ¬ due → exec i s = .next (if s.cur ∈ st.waiters then s else s.setStream id.toNat { st with waiters := st.waiters ++ [s.cur] })) ∧
      (id ≠ 0 → whole → due → st.arrived ≤ st.next → exec i s = .next (s.trap 0x57 (word st.next)))
    (Ready s [x1 k] [] →
      let v := s.sl.xr k.rs1.toNat
      (v = 0 ∨ (s.ownStream v).isSome = true → exec (.qbind k) s = .next ((s.bindStream k.rd.toNat v).complete)) ∧
      (v ≠ 0 → s.ownStream v = none → exec (.qbind k) s = .next (s.trap 0x58 v))) ∧
    (Ready s [] [toX k] → Unfenced s → edges (.qrd k) True ∧
      (id ≠ 0 → free → st.next < st.arrived → s.nearError near 8 = none →
        exec (.qrd k) s = .next (((took (if st.word = 7 then { st with word := 0, next := st.next + 1 } else { st with word := st.word + 1 })).finishX
          k.rd.toNat (word (ofBytes (s.nearBytes s.cur near 8)))).corrected near 8))) ∧
    (Ready s [] [toV k] → Unfenced s → edges (.qrdv k) (st.word = 0) ∧
      (id ≠ 0 → st.word ≠ 0 → exec (.qrdv k) s = .next (s.trap 0x59 (word st.next))) ∧
      (id ≠ 0 → st.word = 0 → free → st.next < st.arrived → s.nearError near 64 = none →
        exec (.qrdv k) s = .next (((took { st with next := st.next + 1 }).finishV k.rd.toNat
          [BitVec.ofNat 512 (ofBytes (s.nearBytes s.cur near 64))] 0).corrected near 64))) ∧
    (Ready s [] [⟨false, k.rs1.toNat, 1, 1⟩] →
      exec (.qstat k) s = .next (s.finishX k.rs1.toNat
        (if s.sl.qr k.rd.toNat = 0 then 0 else ((s.cluster (clusterOf s.curCore)).streams.get (s.sl.qr k.rd.toNat).toNat {}).status)))

/-- `waitv`, `gpf`, `mhint` and `mqry` (R213, R215, R240): `waitv` suspends its clause at a far word; a prefetch or hint sends its request
and goes on, and one whose translation fails is dropped; `mqry` answers 0 for a near address, and asks the home of a far one. -/
def Obligations.WaitPrefetchHintQuery : Prop :=
  ∀ (s : State) (k : KOps) (ga : Word) (unit : Nat) (chip : BitVec 20) (leaf : Nat),
    let a := s.sl.xr k.rs1.toNat
    let b := s.sl.xr k.rs2.toNat
    let n := least 64 b.toNat
    fld a 48 16 = 0 →
    (Ready s [x1 k, x2 k] [toX k] → Unfenced s → a.toNat % 8 = 0 →
      (∀ t, s.access s.cur .read a 8 = .ok (.near t) → exec (.waitv k) s = .next (s.trap 0x5D a)) ∧
      (∀ t, s.access s.cur .read a 8 = .ok (.far ga unit chip leaf) →
        (s.touched a).suspend (.waitv k.rd.toNat a (k.w == 1) ga unit chip b) = .ok t → exec (.waitv k) s = .next t)) ∧
    (Ready s [x1 k, x2 k] [] → isNear a.toNat = false →
      (n = 0 → exec (.gpf k) s = .next s.complete) ∧
      (n ≠ 0 → Unfenced s → s.access s.cur .read a 1 = .ok (.far ga unit chip leaf) →
        exec (.gpf k) s = .next (((s.touched a).sendLoose 0x24 unit chip [lineOf ga, word (least n (s.linesLeft a.toNat))]).complete)) ∧
      (n ≠ 0 → (∀ t, s.access s.cur .read a 1 ≠ .ok t) → exec (.gpf k) s = .next s.complete) ∧
      (3 ≤ b.toNat → exec (.mhint k) s = .next (s.trap 0x62 b)) ∧
      (b.toNat < 3 → s.translate s.cur a = .ok (ga, unit, chip, leaf) →
        exec (.mhint k) s = .next (((s.touched a).sendLoose 0x3C unit chip [ga, b]).complete))) ∧
    (Ready s [x1 k] [toX k] →
      (isNear a.toNat = true → exec (.mqry k) s = .next (s.finishX k.rd.toNat 0)) ∧
      (isNear a.toNat = false → Unfenced s → s.sl.farRoom 1 = true → s.access s.cur .read a 1 = .ok (.far ga unit chip leaf) →
        exec (.mqry k) s = .next (((s.touched a).sendFar s.cur 0x3D unit chip a ga (.fillX k.rd.toNat 8 1 false) 1 [ga, 0]).modCur
          fun sl => (sl.emptyRegs false k.rd.toNat 1).complete)))

/-- `mzero`, near `mld` and near `mst` (R177, R185, R186): a tile that nobody else has claimed is claimed and its 1,024 cells are 0, or hold
the cells of memory inside the edge mask and 0 outside; a store writes the cells inside the mask, accrues the flags of their rounding and
releases the tile. A tile claimed by another slot raises 0x31, and a store of one that is not the slot's own 0x30. -/
def Sys2Proof.Claim.TilesClearLoadAndStore : Prop :=
  ∀ (s : State) (k : KOps),
    let t := k.rd.toNat
    let core := s.curCore
    let p := s.sl.payload
    let a := s.sl.xr k.rs1.toNat
    let mask : Word := if k.rs2 = 0 then -1 else s.sl.xr k.rs2.toNat
    let b := cellBytes (payAcc p)
    let ls := maskLines mask b 0 (16 * b)
    let mine := (s.core core).claim.find t = some (s.cur, s.sl.gen)
    let mayTake := (s.core core).claim.find t = none ∨ mine
    (Ready s [] [] →
      (mayTake → s.arrayFree core = true → ∃ u, exec (.mzero k) s = .next u ∧ (u.core core).tile t = List.replicate 1024 0 ∧
        (u.core core).claim.find t = some (s.cur, s.sl.gen) ∧ u.sl = s.sl.complete ∧ u.mem = s.mem) ∧
      (¬ mayTake → exec (.mzero k) s = .next (s.trap 0x31 (word t)))) ∧
    (Ready s (tileSrcs k) [] [] true → Unfenced s → payTile p = true → a.toNat % 64 = 0 → s.arrayFree core = true →
      (∀ xs, mayTake → s.tileTargets .read a ls = .ok xs → farLines (fun _ => (0, 0)) xs = [] → s.lineErrors (nearLines xs) = .ok () →
        let got := (nearLines xs).map fun l => (l.2.1, ofBytes (s.nearBytes s.cur l.2.2 64))
        ∃ u, exec (.mld k) s = .next u ∧ (u.core core).tile t = loadedCells a (payAcc p) mask got 0 1024 ∧
          (u.core core).claim.find t = some (s.cur, s.sl.gen) ∧ u.sl = s.sl.complete ∧ (s.nearWeak = [] → u.mem = s.mem)) ∧
      (¬ mayTake → exec (.mld k) s = .next (s.trap 0x31 (word t))) ∧
      (∀ xs, mine → s.tileTargets .write a ls = .ok xs → farLines (fun _ => (0, 0)) xs = [] → s.sl.fwd = [] →
        let line := storedLine ((s.core core).tile t) (payAcc p) (payMode p) (paySat p) mask
        ∃ u, exec (.mst k) s = .next u ∧
          u.mem = ((nearLines xs).foldl (fun s l => s.storeLine l.2.2 (line l.1).1 (line l.1).2.1) s).mem ∧
          (u.core core).claim.find t = none ∧ (∀ j, (u.core core).tile j = (s.core core).tile j) ∧
          u.sl = (s.sl.raise (xs.foldl (fun f l => f ||| (line l.1).2.2) 0)).complete) ∧
      (¬ mine → exec (.mst k) s = .next (s.trap 0x30 (word t))))

/-- `mlb` and `mma` (R187, R188): `mlb` copies 2,048 bytes of near memory, and 512 of its side block, into a latch, which turns VALID; a
latch that is AWAIT raises 0x3B. `mma` of no step completes at once; otherwise it is accepted where all its tiles are claimed by the slot,
its A tiles lie in the operand store and its latch is not EMPTY, and its first step is due. -/
def Sys2Proof.Claim.LatchLoadAndMatrixAcceptance : Prop :=
  ∀ (s : State) (k : KOps) (l : LOps) (latch : Bool),
    let n := k.rd.toNat
    let c := s.sl.clause.ctx
    let a := s.sl.xr k.rs1.toNat
    let p := s.sl.payload
    let accepts := fun (i : Instr) (tile : Nat) (addr : Word) (count b : Nat) =>
      (count = 0 → exec i s = .next s.complete) ∧
      (count ≠ 0 → 16 < tile + count → exec i s = .next (s.trap 0x32 (word count))) ∧
      (count ≠ 0 → tile + count ≤ 16 → (∀ j < count, s.mine (tile + j) = true) → addr.toNat % 64 = 0 → fld addr 48 16 = 0 → isNear addr.toNat = true →
        fld addr 0 44 + count * tileStride p ≤ 0x20000 →
        ((s.latch s.curCore c b).state = .empty → exec i s = .next (s.trap 0x34 (word b))) ∧
        ((s.latch s.curCore c b).state ≠ .empty → s.arrayFree s.curCore = true →
          exec i s = .next ((s.modCur fun sl => { sl with wait := .mma tile (fld addr 0 44) b count p false }).post (.mmaStep s.cur))))
    (∀ ta, k.rs2 = 0 → Ready s [x1 k] [] → Unfenced s → s.nearBlock a 2048 = .ok ta →
      ((s.latch s.curCore c n).state = .await → exec (.mlb k) s = .next (s.trap 0x3B (word n))) ∧
      ((s.latch s.curCore c n).state ≠ .await → s.blockOwned ta 2048 = false → s.arrayFree s.curCore = true →
        (∀ j ∈ slotsOf s.curCore, (s.slot j).namesLatch c n = false) → s.nearError ta 2048 = none →
        ∃ u, exec (.mlb k) s = .next u ∧
          u.latch s.curCore c n = { state := .valid, elems := s.nearBytes s.cur ta 2048, side := List.replicate 512 0,
                                    shadow := (s.latch s.curCore c n).shadow } ∧ u.sl = s.sl.complete ∧ (s.nearWeak = [] → u.mem = s.mem))) ∧
    (Ready s [x1 k, x2 k] [] [] true → payMma p = true →
      accepts (.mmaReg k) k.rd.toNat (s.sl.xr k.rs1.toNat) (s.sl.xr k.rs2.toNat).toNat (k.w.toNat % 2)) ∧
    (Ready s [⟨false, l.rs1.toNat, 1, l.e1, 1⟩] [] [] true → payMma p = true →
      accepts (.mmaImm latch l) l.rd.toNat (s.sl.xr l.rs1.toNat) l.imm8.toNat latch.toNat)

/-- MMA_STEP (R180 to R184, R188): a step multiplies the A tile at its offset with the latch into the tile of its number and accrues the
flags; `kprog` counts the steps; after the last one the instruction completes with `kprog` 0. A latch that is not VALID holds the first
step. A step that fails its residue check raises 0x39 with its number, `kprog` holds the number of those before it, and the tile stays; one whose
A tile holds an uncorrectable word raises 0x5B (R197). -/
def Sys2Proof.Claim.MatrixStepsAccumulate : Prop :=
  ∀ (s : State) (k tile a b count : Nat) (p : BitVec 17) (begun : Bool),
    let sl := s.slot k
    let core := coreOf k
    let i := sl.kprog.toNat
    let t := s.latch core sl.clause.ctx b
    let off := a + i * tileStride p
    let r := matrixStep p ((s.core core).tile (tile + i)) (s.bytes (operandAddr core off) 2048)
      (if payScale p = 0 then [] else s.bytes (operandAddr core (off + 2048)) 512) t.elems t.side
    sl.wait = .mma tile a b count p begun → s.stopped k = false →
    (begun = false → t.state ≠ .valid → exec (.mmaStep k) s = .next s) ∧
    ((begun = true ∨ (t.state = .valid ∧ payScale p ≠ 2)) → i < count → (s.core core).badArray = true →
      ∃ u, exec (.mmaStep k) s = .next u ∧ (u.slot k).phase = .frozen ∧ (u.slot k).kcause = 0x39 ∧ (u.slot k).kaddr = word i ∧
        (u.slot k).kprog = sl.kprog ∧ ∀ j, (u.core core).tile j = (s.core core).tile j) ∧
    ((begun = true ∨ (t.state = .valid ∧ payScale p ≠ 2)) → i < count → (s.core core).badArray = false →
      s.nearError (.operand (operandAddr core off)) (tileStride p) = none →
      ∃ u, exec (.mmaStep k) s = .next u ∧ (u.core core).tile (tile + i) = r.map (fun x => x.1 % 2 ^ 32) ∧
        (u.slot k).kprog = word (i + 1) ∧ (u.slot k).kstat = (sl.raise (joinFlags r)).kstat ∧
        (u.slot k).wait = .mma tile a b count p true ∧
        (s.nearWeak = [] → u.mem = s.mem ∧ u.agenda = s.agenda ++ [.mmaStep k])) ∧
    ((begun = true ∨ (t.state = .valid ∧ payScale p ≠ 2)) → i < count → (s.core core).badArray = false →
      (s.nearError (.operand (operandAddr core off)) (tileStride p)).isSome = true →
      ∃ u, exec (.mmaStep k) s = .next u ∧ (u.slot k).phase = .frozen ∧ (u.slot k).kcause = 0x5B ∧
        (u.slot k).kaddr = word (0xF * 2 ^ 44 + off)) ∧
    ((begun = true ∨ (t.state = .valid ∧ payScale p ≠ 2)) → count ≤ i →
      exec (.mmaStep k) s = .next ((s.modSlot k fun sl => Slot.complete { sl with kprog := 0 }).post (.shadowApply core sl.clause.ctx b)))

/-- Exact-chunk accumulation on integers (R183): an integer step adds the exact sum of the products of the two rows to the cell, wrapping
modulo 2^32, or with SAT clamping to the 32-bit range with NV. -/
def Sys2Proof.Claim.IntegerStepIsTheExactSum : Prop :=
  ∀ (cell : Nat) (a b : List Int) (n : Nat), a.length = n → b.length = n → cell < 2 ^ 32 →
    let sum := (if cell < 2 ^ 31 then (cell : Int) else (cell : Int) - 2 ^ 32) + ((List.range n).map fun i => a.getD i 0 * b.getD i 0).sum
    (let r := intStep false cell a b; (r.1 : Int) = sum % 2 ^ 32 ∧ r.2 = 0) ∧
    (let r := intStep true cell a b
     (-2 ^ 31 ≤ sum → sum < 2 ^ 31 → (r.1 : Int) = sum % 2 ^ 32 ∧ r.2 = 0) ∧
     (2 ^ 31 ≤ sum → r = (2 ^ 31 - 1, flagNV)) ∧ (sum < -2 ^ 31 → r = (2 ^ 31, flagNV)))

/-- Ring transfers (R178, R190, R191): `mring` and `mpass` name a receiver of the group that `rs1` names and stand until the transfer is made;
transfers of one core are made in the order in which they were issued (R189), and one fills the receiver's free shadow with the sender's latch; a full shadow is applied to an AWAIT latch that no begun `mma` reads.
`mring` of no pass completes; `mpass` to the own rank only turns the latch AWAIT. -/
def Obligations.RingTransfers : Prop :=
  ∀ (s : State) (k : KOps) (i : Nat) (g : Word) (core c l : Nat),
    let n := k.rd.toNat
    let r := s.sl.xr k.rs2.toNat
    let ctx := s.sl.clause.ctx
    let latch := s.latch s.curCore ctx n
    (k.rs2 ≠ 0 → Ready s [x1 k, x2 k] [] → s.needMember k = .ok (i, g) →
      (geoRing g = true → r = 0 → exec (.mring k) s = .next s.complete) ∧
      (geoRing g = false → exec (.mring k) s = .next (s.trap 0x36 (word (geoId g)))) ∧
      (geoRing g = true → r ≠ 0 → r.toNat ≤ 4095 → latch.state ≠ .empty → s.sl.kprog.toNat < r.toNat →
        let dst := s.rankCore i ((geoRank g + 1) % geoSize g)
        exec (.mring k) s = .next (s.ringIssue n dst r.toNat true))) ∧
    (Ready s [x1 k, x2 k] [] → s.needMember k = .ok (i, g) →
      (geoSize g ≤ r.toNat → exec (.mpass k) s = .next (s.trap 0x37 r)) ∧
      (r.toNat < geoSize g → r.toNat ≠ geoRank g → latch.state ≠ .empty →
        let dst := s.rankCore i r.toNat
        exec (.mpass k) s = .next (s.ringIssue n dst 1 false)) ∧
      (r.toNat < geoSize g → r.toNat = geoRank g → latch.shadow = none →
        exec (.mpass k) s = .next ((s.setLatch s.curCore ctx n { latch with state := .await }).complete))) ∧
    (∀ d count b, let u := s.ringIssue n d count b
      u.sl = { s.sl with wait := .ring n d count b } ∧ (∀ j, j ≠ s.cur → u.slot j = s.slot j) ∧ u.mem = s.mem ∧
      (u.core s.curCore).ring.getLast? = some s.cur ∧ .latchTransferArrival d ctx n ∈ u.agenda) ∧
    (let t := s.latch core c l
     (∀ e d, t.shadow = some (e, d) → t.state = .await → (∀ j ∈ slotsOf core, (s.slot j).readsLatch c l = false) →
       ∃ u, exec (.shadowApply core c l) s = .next u ∧ u.latch core c l = { state := .valid, elems := e, side := d, shadow := none } ∧
         u.slots = s.slots ∧ u.mem = s.mem) ∧
     ((t.shadow = none ∨ t.state ≠ .await) → exec (.shadowApply core c l) s = .next s) ∧
     (t.shadow.isSome = true → exec (.latchTransferArrival core c l) s = .next s) ∧
     (∀ j dst, t.shadow = none → t.state ≠ .await → s.slots.find? (fun e => s.ringSender core c l e.1 e.2) = some (j, s.slot j) →
       (s.slot j).wait = .ring l dst 1 false → coreOf j ≠ core →
       ∃ u, exec (.latchTransferArrival core c l) s = .next u ∧ (u.slot j) = (s.slot j).complete ∧
         u.latch core c l = { t with shadow := some ((s.latch (coreOf j) c l).elems, (s.latch (coreOf j) c l).side) }))

/-- `mgeo` (R192): the four words describe the member's part of the group's work: its first tile row and row count, its first tile column
and column count, the masks of its last row and column of tiles, and the fourth word of the geometry. A column count that does not divide
the group raises 0x38. -/
def Sys2Proof.Claim.GeometryWords : Prop :=
  ∀ (s : State) (k : KOps) (i : Nat) (g : Word),
    let ws := (s.core s.curCore).geo.get i []
    let n := fun (j : Nat) => (ws.getD j 0).toNat
    let p := n 2 % 65536
    Ready s [x1 k] [toX k 4] [(k.rd.toNat, 4)] → s.needMember k = .ok (i, g) →
    (p ≠ 0 → geoSize g % p = 0 → p ≤ geoSize g →
      let rows := splitPart ((n 0 + 31) / 32) (geoSize g / p) (geoRank g / p)
      let cols := splitPart ((n 1 + 31) / 32) p (geoRank g % p)
      exec (.mgeo k) s = .next (s.modCur fun sl => (sl.setXs k.rd.toNat
        [word (rows.1 + rows.2 * 2 ^ 32), word (cols.1 + cols.2 * 2 ^ 32),
         word (edgeBits (n 0) ((n 0 + 31) / 32) rows.1 rows.2 + edgeBits (n 1) ((n 1 + 31) / 32) cols.1 cols.2 * 2 ^ 32), word (n 3)]).complete)) ∧
    ((p = 0 ∨ geoSize g % p ≠ 0 ∨ geoSize g < p) → exec (.mgeo k) s = .next (s.trap 0x38 (word (n 2))))

/-- The parts of R192 cover the whole without overlap: the parts of a total among members follow one another, and their counts differ by at
most 1. -/
def Sys2Proof.Claim.GeometryPartsCoverTheWhole : Prop :=
  ∀ t parts : Nat, 0 < parts →
    (splitPart t parts 0).1 = 0 ∧ (splitPart t parts (parts - 1)).1 + (splitPart t parts (parts - 1)).2 = t ∧
    (∀ i, i + 1 < parts → (splitPart t parts (i + 1)).1 = (splitPart t parts i).1 + (splitPart t parts i).2) ∧
    (∀ i j, i < parts → j < parts → (splitPart t parts i).2 ≤ (splitPart t parts j).2 + 1)

/-- Sending (R124 to R126): a descriptor that keeps R124 and whose route exists puts one message into the core's outbound queue, with the wait set
of its scope to be waited for, takes the clause's next sequence number and completes; `sendr` leaves its destination group empty until the
reply. A broken descriptor raises 0x44, a channel of 241 or more 0x41, a route that does not exist 0x40, and a reply word that names no
target 0x43. A reply through a channel tag reaches the context of the function that its word names (R126), and 0x40 comes before 0x43 (R134). -/
def Sys2Proof.Claim.SendsQueueOneMessage : Prop :=
  ∀ (s : State) (k : KOps) (r : BitVec 20 × Nat × Nat) (p : List Word),
    let n := groupSize k.w
    let d := s.sl.xr k.rs1.toNat
    let count := fun (u : State) => u.modCur fun sl => Slot.complete { sl with kseq := sl.kseq + 1 }
    Unfenced s →
    (Ready s [x1 k, x2 k n] [] [(k.rs2.toNat, n)] →
      (descOk d k.w false = false → exec (.send k) s = .next (s.trap 0x44 d)) ∧
      (descOk d k.w false = true → 241 ≤ fld d 32 8 → exec (.send k) s = .next (s.trap 0x41 (word (fld d 32 8)))) ∧
      (descOk d k.w false = true → fld d 32 8 < 241 → s.routeOf d = none → exec (.send k) s = .next (s.trap 0x40 d)) ∧
      (s.sendChecks k d false = .ok (r, p) → descRkind d ≠ 3 → s.outRoom s.curCore = true →
        let tag := if descRkind d = 1 then chanTag (descRchan d) s.curCore else 0
        exec (.send k) s = .next (count ((s.queueOut (s.handlerMsg d r tag p) (some (if k.rd = 1 then 0 else 2))).bufRead k d))) ∧
      (s.sendChecks k d false = .ok (r, p) → s.outRoom s.curCore = false → exec (.send k) s = .next s) ∧
      (∀ a, s.replyTarget d = .trap 0x40 a → exec (.reply k) s = .next (s.trap 0x40 a)) ∧
      (∀ c, s.replyTarget d = .ok c →
        ((tagKind (d.setWidth 32) = 0 ∨ fld d 59 5 ≠ 0) → exec (.reply k) s = .next (s.trap 0x43 d)) ∧
        (∀ q, tagKind (d.setWidth 32) ≠ 0 → fld d 59 5 = 0 → s.payloadOf k 0 = .ok q → s.outRoom s.curCore = true →
        ∃ m : Msg, m.dstChip = BitVec.ofNat 20 (fld d 32 20) ∧ m.dstCore = d.setWidth 12 ∧ m.payload = q ∧
          m.forVf = some (BitVec.ofNat 7 (fld d 52 7)) ∧ (m.dstChip = s.hub.chipId → m.ctx = BitVec.ofNat 2 c) ∧
          exec (.reply k) s = .next (count (s.queueOut m (some (if k.rd = 1 then 0 else 2))))))) ∧
    (Ready s [x1 k, x2 k n] [⟨descVreply d, k.rd.toNat, n, 0⟩] [(k.rs2.toNat, n), (k.rd.toNat, n)] →
      s.sendChecks k d true = .ok (r, p) → s.outRoom s.curCore = true →
        exec (.sendr k) s = .next (((s.queueOut (s.handlerMsg d r (regTag s.sl.gen (descVreply d) k.rd.toNat (s.cur % 4) s.curCore) p)
          (some 2)).bufRead k d).modCur
          fun sl => Slot.complete { sl.emptyRegs (descVreply d) k.rd.toNat n with
            kseq := sl.kseq + 1, owed := sl.owed.set sl.gen (sl.owed.get sl.gen 0 + 1),
            asks := sl.asks ++ [{ gen := sl.gen, ctx := sl.clause.ctx, vec := descVreply d, reg := k.rd.toNat, count := n, desc := d }] }))

/-- Channels (R105, R127, R128): `hen`, `hdis`, `hpend` and `hclr` set and clear the enable and pending bit of one channel of the issuing
context, and every other channel and all registers stay; a channel they may not name raises 0x41. `hhdr` reads the four words of the header
of the message that started the clause. -/
def Sys2Proof.Claim.ChannelBits : Prop :=
  ∀ (s : State) (k : KOps),
    let i := fld (s.sl.xr k.rs1.toNat) 0 8
    let c := s.sl.clause.ctx
    let chan := fun (u : State) (j : Nat) => (u.ctx s.curCore c).chans.get j {}
    let sets := fun (i' : Instr) (f : Chan → Chan) => ∃ u, exec i' s = .next u ∧ chan u i = f (chan s i) ∧ (∀ j, j ≠ i → chan u j = chan s j) ∧
      u.sl = s.sl.complete ∧ (∀ j, j ≠ s.cur → u.slot j = s.slot j) ∧ u.mem = s.mem ∧ u.hub = s.hub ∧ u.net = s.net
    let bad := fun (i' : Instr) => exec i' s = .next (s.trap 0x41 (word i))
    (Ready s [x1 k] [] →
      ((i < 242 ∨ 252 < i) → sets (.hen k) (fun x => { x with enable := true }) ∧ sets (.hdis k) (fun x => { x with enable := false }) ∧
        sets (.hclr k) (fun x => { x with pending := false })) ∧
      ((242 ≤ i ∧ i ≤ 252) → bad (.hen k) ∧ bad (.hdis k) ∧ bad (.hclr k)) ∧
      (i < 240 → sets (.hpend k) (fun x => { x with pending := true })) ∧ (240 ≤ i → bad (.hpend k))) ∧
    (Ready s [] [toX k 4] [(k.rd.toNat, 4)] →
      exec (.hhdr k) s = .next (s.modCur fun sl => (sl.setXs k.rd.toNat (sl.clause.header.take 4)).complete))

/-- Suspension (R21 of 02_idioms.md, R112): with no empty register and no claimed tile a clause that executes `susp`, `yield` or `join` issues
nothing more and suspends once its writes are acknowledged and its messages have left; otherwise it traps with 0x42 and the first register or tile that stands in the
way. A suspension that commits writes the record with the address of the next instruction, the digest, the sequence and `x11` to `x15`, and
frees the slot: the 64 bytes of R110 stand at the entry's address in the context's record table, and no other byte of memory changes. A
fault at the entry freezes the slot instead, with its report in the trap ring (R111). -/
def Sys2Proof.Claim.SuspensionWritesTheRecord : Prop :=
  ∀ (s : State) (k : KOps) (j i : Nat),
    let leaves := fun (kind : SuspKind) =>
      (s.modCur fun sl => { sl.setPP false with phase := .suspending kind, wait := .none, skipBreak := false }).trySuspend s.cur
    (Ready s [] [] →
      (s.heldState s.cur = none → exec (.susp k) s = .next (leaves .susp) ∧ exec (.yield k) s = .next (leaves .yield)) ∧
      (∀ a, s.heldState s.cur = some a → exec (.susp k) s = .next (s.trap 0x42 a) ∧ exec (.yield k) s = .next (s.trap 0x42 a))) ∧
    (Ready s [] [toX k] → s.heldState s.cur = none → exec (.join k) s = .next (leaves (.join k.rd.toNat k.rs2.toNat))) ∧
    (let sl := s.slot j
     let r := s.record sl.clause.recCore sl.clause.ctx i
     let va := s.recordVa sl.clause.recCore sl.clause.ctx i
     let write := fun (ga : Word) (unit : Nat) => s.tableMsg sl.clause.recCore sl.clause.ctx ga unit
     sl.phase = .suspending .susp → sl.clause.recIdx = some i → sl.far = [] → sl.fwd = [] → s.outWaits (coreOf j) sl.kpath = false →
     (∀ f a, s.recordFault j = some (f, a) → exec (.suspensionCommit j) s = .next (s.kernelTrap j f a)) ∧
     (sl.q = [] → r.resumes = [] → sl.clause.account = none → (s.ctx (coreOf j) sl.clause.ctx).preempted = false → s.recordFault j = none →
       ∃ u, exec (.suspensionCommit j) s = .next u ∧ (u.slot j).phase = .free ∧
         let q := u.record sl.clause.recCore sl.clause.ctx i
         (∀ ga unit media e, s.tableLine sl.clause.recCore sl.clause.ctx va = .ok (ga, unit) → chipOf ga = s.hub.chipId →
           s.findLine (write ga unit) ga false false true = .at media e → media % 64 = 0 →
           u.bytes media 64 = toBytes 4 q.pc.toNat ++ toBytes 4 q.seq.toNat ++ toBytes 8 q.digest.toNat ++ toBytes 2 q.status ++
             toBytes 1 (sl.clause.prio % 8 + sl.clause.homed.toNat * 8) ++ toBytes 1 sl.clause.chan.toNat ++ toBytes 4 0 ++ bytesOfWords q.carried ∧
           ∀ b, (b < media ∨ media + 64 ≤ b) → memRead u.mem b = memRead s.mem b) ∧
         q.state = .suspended ∧ q.pc = sl.pc + 4 - sl.clause.codeBase ∧ q.digest = sl.kpath ∧ q.seq = word (fld sl.kseq 0 32) ∧
         q.carried = [sl.xr 11, sl.xr 12, sl.xr 13, sl.xr 14, sl.xr 15] ∧ q.susp = .susp ∧ q.family = r.family)) ∧
    ((s.slot j).phase = .suspending .susp → ((s.slot j).acked = false ∨ (s.slot j).fwd ≠ [] ∨ s.outWaits (coreOf j) (s.slot j).kpath = true) → exec (.suspensionCommit j) s = .next s)

/-- Spawning and the end of a clause (R115, R116, R130, R132): `spawn` numbers the child with its family's next ordinal, gives it the digest of R115
and sends it to the core that its digest picks, whose message leaves through the outbound queue; an entry outside the code region raises
0x46, a 65th child 0x45, and a fault at the family entry takes its trap to the kernel (R111). `exit` releases the clause's tiles, and the clause ends, its result delivered and its slot free, once its
requests are acknowledged; a clause of a launch that began it as start clause 0 gives the launch's result. -/
def Sys2Proof.Claim.SpawnAndExit : Prop :=
  ∀ (s : State) (k : KOps) (j i : Nat),
    let n := groupSize k.w
    let entry := s.sl.xr k.rs1.toNat
    let cl := s.sl.clause
    let okEntry := entry.toNat % 4 = 0 ∧ cl.codeBase.toNat ≤ entry.toNat ∧ entry.toNat < cl.codeBase.toNat + cl.codeSize
    (Ready s [x1 k, x2 k n, xd k] [] [(k.rs2.toNat, n)] →
      (¬ okEntry → exec (.spawn k) s = .next (s.trap 0x46 entry)) ∧
      (okEntry → 64 ≤ (s.family.spawned - s.family.joinBase).toNat → exec (.spawn k) s = .next (s.trap 0x45 64)) ∧
      (okEntry → (s.family.spawned - s.family.joinBase).toNat < 64 → k.rd = 0 → Unfenced s → s.outRoom s.curCore = true →
        (∀ f a, s.familyFault s.cur = some (f, a) → exec (.spawn k) s = .next (s.kernelTrap s.cur f a)) ∧
        (s.familyFault s.cur = none → cl.recIdx = some i → cl.recCore = s.curCore →
        ∃ u o, exec (.spawn k) s = .next u ∧ (u.core s.curCore).outq = (s.core s.curCore).outq ++ [o] ∧ o.msg.kind = 0x03 ∧
          o.msg.dstCore = BitVec.ofNat 12 (s.placeChild (mix s.sl.kpath s.family.spawned.toNat) none).1 ∧
          o.msg.payload.take 2 = [entry, mix s.sl.kpath s.family.spawned.toNat] ∧
          (o.msg.payload.drop 4).take n = s.sl.xs k.rs2.toNat n ∧
          (u.record s.curCore cl.ctx i).family.spawned = s.family.spawned + 1 ∧
          (u.launch cl.launch).live = (s.launch cl.launch).live + 1 ∧ u.sl = Slot.complete { s.sl with kseq := s.sl.kseq + 1 }))) ∧
    (Ready s [x1 k] [] →
      exec (.exit k) s = .next (((s.modCur fun sl => { sl.setPP false with phase := .exiting (sl.xr k.rs1.toNat) false, wait := .none }).dropTiles
        s.cur).tryExit s.cur)) ∧
    (let sl := s.slot j
     ∀ v, sl.phase = .exiting v false → sl.clause.regs = [] →
       ((sl.acked = false ∨ sl.fwd ≠ []) → exec (.exitCommit j) s = .next s) ∧
       (sl.acked = true → sl.fwd = [] → ∃ u, exec (.exitCommit j) s = .next u ∧ (u.slot j).phase = .free ∧
         (u.launch sl.clause.launch).live = (s.launch sl.clause.launch).live - 1 ∧
         (sl.clause.parent = 0 → sl.clause.start = some 0 → (u.launch sl.clause.launch).result = v)))

/-- IMPLICIT_DROP (R286): a clause that ends drops out of each barrier it is registered at: its registrations are gone, its registration entry is
written with two lines of zeros (R278), and one request for each registration leaves. -/
def Sys2Proof.Claim.EndingClauseDropsItsRegistrations : Prop :=
  ∀ (s : State) (k : Nat) (v : Word) (lost : Bool), (s.slot k).phase = .exiting v lost →
    (∀ g ∈ (s.slot k).clause.regs, chipOf g.ga = s.hub.chipId) →
    let u := (s.modSlot k fun sl => { sl with clause := { sl.clause with regs := [] } }).putRegs k
    regLines [] = [List.replicate 64 0, List.replicate 64 0] ∧ ((s.slot k).clause.recIdx = none → u.mem = s.mem ∧ u.net = s.net) ∧
    ∃ t, exec (.implicitDrop k) s = .next t ∧ (t.slot k).clause.regs = [] ∧ t.net.take u.net.length = u.net ∧
      (t.net.drop u.net.length).map (fun m => (m.kind, m.unit, m.payload)) =
        (s.slot k).clause.regs.map (fun g => (0x32, g.unit, barrierPayload g.ga 7 g.number 0)) ∧
      (t.slot k).far.length = (s.slot k).far.length + (s.slot k).clause.regs.length ∧ t.mem = u.mem

/-- Ordering (R249 to R253): `fen.sc` stands until its wait set is complete; the other fences complete and hold the next access, a pending
release of a wider scope through a full fence; `own` gives a
THREAD tile of the scratchpad to the engines and `ownw` stands while a tile is ENGINE. An address outside the scratchpad raises 0x72, and an
`own` of an ENGINE tile 0xA0. -/
def Sys2Proof.Claim.FencesAndOwnership : Prop :=
  ∀ (s : State) (k : KOps),
    let kind := k.rs2.toNat % 4
    let scope := k.rs2.toNat / 4 % 4
    let a := s.sl.xr k.rs1.toNat
    let off := a.toNat % 2 ^ 44
    let cl := clusterOf s.curCore
    let t := (off - 0x1000000) / 4096
    let inPad := fld a 48 16 = 0 ∧ isNear a.toNat = true ∧ 0x1000000 ≤ off ∧ off < 0x1000000 + 0x300000
    (Ready s [] [] →
      (kind ≠ 3 → exec (.fen k) s = .next (s.modCur fun sl => (sl.addFence kind scope).complete)) ∧
      (kind = 3 → s.waitSet s.cur scope = [] → s.sl.fwd = [] → s.sl.readsFilled = true →
        (Unfenced s → exec (.fen k) s = .next s.complete) ∧
        (∀ u, s.sl.fence = some (2, u) →
          exec (.fen k) s = .next ((s.modCur fun sl => { sl with fence := if scope < u then some (2, u) else none }).complete))) ∧
      (kind = 3 → (s.waitSet s.cur scope ≠ [] ∨ s.sl.fwd ≠ [] ∨ s.sl.nearFills ≠ []) → exec (.fen k) s = .next s)) ∧
    (Ready s [x1 k] [] →
      (fld a 48 16 = 0 → ¬ inPad → exec (.own k) s = .next (s.trap 0x72 a) ∧ exec (.ownw k) s = .next (s.trap 0x72 a)) ∧
      (inPad → (s.cluster cl).owner.get t false = true → exec (.own k) s = .next (s.trap 0xA0 a) ∧ exec (.ownw k) s = .next s) ∧
      (inPad → (s.cluster cl).owner.get t false = false → exec (.ownw k) s = .next s.complete) ∧
      (inPad → (s.cluster cl).owner.get t false = false → Unfenced s → s.tileBusy cl t = false →
        exec (.own k) s = .next ((s.modCluster cl fun c => { c with owner := c.owner.set t true }).complete)))

/-- A fence that the next access meets (R250): an access waits until every read of the clause has filled its register where an acquire is
pending, and until the near and far stores before a sequentially consistent one are performed (R208); a write-class one waits for the scope's wait
set where a release is pending. -/
def Sys2Proof.Claim.PendingFencesHoldTheNextAccess : Prop :=
  ∀ (s : State) (bits scope : Nat) (write : Bool), s.sl.fence = some (bits, scope) →
    (s.fenceReady write = true ↔
      ((bits % 2 = 1 → s.sl.readsFilled = true) ∧ (bits / 4 % 2 = 1 → s.sl.acked = true ∧ s.sl.fwd = []) ∧
        (write = true → bits / 2 % 2 = 1 → s.waitSet s.cur scope = [] ∧ s.sl.fwd = [] ∧ s.sl.nearFills = []))) ∧
    (∀ f : State → Res State, s.fenceReady write = false → s.ordered write f = .stall) ∧
    (∀ f : State → Res State, s.fenceReady write = true →
      s.ordered write f = f (s.modCur fun sl => { sl with fence := if write = false ∧ bits / 2 % 2 = 1 then some (2, scope) else none }))

/-- Atomics and reductions at the core (R267, R269 to R272): a write request with the operation's code, the operand and for `amocas` the old
destination as comparand leaves for the home; the atomics leave their destination empty until the reply, `red` goes on. A misaligned address
raises 0x74, and a near one 0x73. -/
def Sys2Proof.Claim.AtomicsAskTheHome : Prop :=
  ∀ (s : State) (k : KOps) (ga : Word) (unit : Nat) (chip : BitVec 20),
    let a := s.sl.xr k.rs1.toNat
    let rd := k.rd.toNat
    let asks := fun (i : Instr) (op n : Nat) (natural wide : Bool) (c : List Word) =>
      let p := atomicPayload ga op natural wide (s.sl.xs k.rs2.toNat n) c
      (a.toNat % (8 * n) ≠ 0 → exec i s = .next (s.trap 0x74 a)) ∧
      (a.toNat % (8 * n) = 0 → fld a 48 16 = 0 → isNear a.toNat = true → exec i s = .next (s.trap 0x73 a)) ∧
      (s.atomicTarget a (8 * n) true = .ok (ga, unit, chip) → s.sl.farRoom 1 = true →
        exec i s = .next (((s.touched a).sendFar s.cur 0x30 unit chip a ga (.fillX rd 8 n false) (p.length / 2) p).modCur
          fun sl => (sl.emptyRegs false rd n).complete))
    Unfenced s →
    (Ready s [x1 k, x2 k] [toX k] →
      asks (.amoAdd k) 0 1 false false [] ∧ asks (.amoMin k) 1 1 (k.w == 1) false [] ∧ asks (.amoMax k) 2 1 (k.w == 1) false [] ∧
      asks (.amoAnd k) 3 1 false false [] ∧ asks (.amoOr k) 4 1 false false [] ∧ asks (.amoXor k) 5 1 false false [] ∧
      (k.w ≠ 1 → asks (.amoSwap k) 6 1 false false [])) ∧
    (k.w ≠ 1 → Ready s [x1 k, x2 k, xd k] [toX k] → asks (.amocas k) 7 1 false false (s.sl.xs rd 1)) ∧
    (k.w = 1 → Ready s [x1 k, x2 k 2] [toX k 2] [(k.rs2.toNat, 2), (rd, 2)] → asks (.amoSwap k) 6 2 false true []) ∧
    (k.w = 1 → Ready s [x1 k, x2 k 2, xd k 2] [toX k 2] [(k.rs2.toNat, 2), (rd, 2)] → asks (.amocas k) 7 2 false true (s.sl.xs rd 2)) ∧
    (Ready s [x1 k, x2 k] [] →
      let n := redSize rd
      (a.toNat % n ≠ 0 → exec (.red k) s = .next (s.trap 0x74 a)) ∧
      (s.atomicTarget a n false = .ok (ga, unit, chip) → s.sl.farRoom 1 = true →
        exec (.red k) s = .next (((s.touched a).sendFar s.cur 0x31 unit chip a ga .posted 2
          [ga, word rd, word ((s.sl.xr k.rs2.toNat).toNat % 2 ^ (8 * n)), 0]).complete)))

/-- Barrier instructions (R278 to R287) on a name that the cluster's cache holds, of a barrier object: `barinit`, `bararr`, `bardrop`, the
arrival of `baraw` and `barinv` send their operation to the object's home and stand until its answer; `barjoin` of a registered clause
answers its number at once, and `barwait` and the second half of `baraw` suspend. A name of another class raises 0x75, and an arrival without
registration 0x78; a fault at the registration entry takes its trap to the kernel (R278). That `barinv` makes the package-scope wait of its kill
before the object is touched is the model's choice (log 108). -/
def Sys2Proof.Claim.BarrierInstructionsAskTheObject : Prop :=
  ∀ (s : State) (k : KOps) (e : CachedName) (g : Registration),
    let n := s.sl.name k.rs1.toNat
    let cl := clusterOf s.curCore
    let s' := s.modCluster cl fun c => { c with names := cacheTouch c.names n }
    let b := e.binding
    let unit := objectUnit b e.attr
    let asks := fun (op rd number : Nat) (v : Word) =>
      (s'.sendFar s.cur 0x32 unit (chipOf b) b b .blocking 2 (barrierPayload b op number v)).block (.barrier op rd n (if op = 1 then v else word number)) 1
    let pair := namePair k
    let gs := [(k.rs1.toNat, 2)]
    s.issuer n = .ok s.hub.chipId → cacheFind (s.cluster cl).names n = some e → hasRight e.attr 0 true s.curCtx.vf = true →
    hasRight e.attr 3 true s.curCtx.vf = true → Unfenced s → s.sl.farRoom 1 = true →
    (Ready s [pair] [toX k] gs →
      (attrClass e.attr ≠ 1 → exec (.barjoin k) s = .next (s.trap 0x75 b) ∧ exec (.bararr k) s = .next (s.trap 0x75 b)) ∧
      (attrClass e.attr = 1 → attrSync e.attr = true →
        (s.registered n = some g → exec (.barjoin k) s = .next (s'.finishX k.rd.toNat (word g.number))) ∧
        (∀ i, s.registered n = none → s.sl.clause.regs.length < 4 → s.sl.clause.recIdx = some i →
          (s'.regsFault s.cur = none → exec (.barjoin k) s = .next (asks 0 k.rd.toNat 0 0)) ∧
          (∀ f a, s'.regsFault s.cur = some (f, a) → exec (.barjoin k) s = .next (s'.kernelTrap s.cur f a))) ∧
        (s.registered n = none → exec (.bararr k) s = .next (s.trap 0x78 b) ∧ exec (.bardrop k) s = .next (s.trap 0x78 b)) ∧
        (s.registered n = some g → s.sl.far = [] → s.sl.fwd = [] → s.sl.nearFills = [] →
          exec (.bararr k) s = .next (asks 2 k.rd.toNat g.number 0) ∧ exec (.bardrop k) s = .next (asks 5 k.rd.toNat g.number 0) ∧
          (s.sl.ap = false → exec (.baraw k) s = .next (asks 4 k.rd.toNat g.number 0))) ∧
        (∀ t, s.heldState s.cur = none → s.sl.ap = true →
          s'.suspend (.barrier 4 k.rd.toNat n b unit (chipOf b) (s.sl.xr k.rd.toNat)) = .ok t → exec (.baraw k) s = .next t))) ∧
    (Ready s [pair, x2 k] [toX k] gs → attrClass e.attr = 1 → attrSync e.attr = true → s.heldState s.cur = none →
      ∀ t, s'.suspend (.barrier 3 k.rd.toNat n b unit (chipOf b) (s.sl.xr k.rs2.toNat)) = .ok t → exec (.barwait k) s = .next t) ∧
    (Ready s [pair, x2 k] [] gs → attrClass e.attr = 1 → attrSync e.attr = true →
      let v := s.sl.xr k.rs2.toNat
      (1 ≤ v.toNat % 2048 → v.toNat % 2048 ≤ 1024 → fld v 11 1 = 0 → v.toNat < 2 ^ 14 → exec (.barinit k) s = .next (asks 1 0 0 v)) ∧
      ((v.toNat % 2048 = 0 ∨ 2 ^ 14 ≤ v.toNat) → exec (.barinit k) s = .next (s.trap 0x77 v))) ∧
    (Ready s [pair] [] gs → attrClass e.attr = 1 → attrSync e.attr = true →
      (s.released s.cur 2 = true → exec (.barinv k) s = .next (asks 6 0 0 0)) ∧ (s.released s.cur 2 = false → exec (.barinv k) s = .next s))

/-- `grp` (R289): with a near group table the member's physical core at the rank is read at once; an empty entry raises 0x7A with the group,
a rank outside it 0x37 with the rank, and no table 0x7A. -/
def Sys2Proof.Claim.GroupMemberIsRead : Prop :=
  ∀ (s : State) (k : KOps) (t u : Near),
    let g := fld (s.sl.xr k.rs1.toNat) 0 8
    let r := s.sl.xr k.rs2.toNat
    let base := (s.launch s.sl.clause.launch).packet.getD 5 0
    let ea := base + word (32 * g)
    let entry := s.nearBytes s.cur t 32
    let size := ofBytes ((entry.drop 8).take 4)
    let ma := base + word (ofBytes (entry.take 8)) + word (2 * r.toNat)
    Ready s [x1 k, x2 k] [toX k] →
    (base = 0 → exec (.grp k) s = .next (s.trap 0x7A (word g))) ∧
    (base ≠ 0 → Unfenced s → s.access s.cur .read ea 32 = .ok (.near t) → s.nearError t 32 = none →
      (size = 0 → exec (.grp k) s = .next (s.trap 0x7A (word g))) ∧
      (size ≠ 0 → size ≤ r.toNat → exec (.grp k) s = .next (s.trap 0x37 r)) ∧
      (let s1 := s.corrected t 32
       r.toNat < size → s1.access s.cur .read ma 2 = .ok (.near u) → s1.nearError u 2 = none →
        exec (.grp k) s = .next ((s1.corrected u 2).modSlot s.cur fun sl => (sl.setX k.rd.toNat (word (ofBytes (s1.nearBytes s.cur u 2)))).complete) ∧
        (s.nearWeak = [] → s1.corrected u 2 = s)))

/-- The word instructions (R312, R313, R315): after the checks of R313 one request with the operation, its operand and tick goes to the law unit
of the word's home; `twld` and `twpred` leave their destination empty until the reply, the others go on. A misaligned address raises 0x83, a
near one 0x84, and a page that is not `TENSED` 0x80. -/
def Sys2Proof.Claim.WordInstructionsAskTheLawUnit : Prop :=
  ∀ (s : State) (k : KOps) (ga : Word) (unit leaf : Nat) (page : Option (Nat × Word)),
    let a := s.sl.xr k.rs1.toNat
    let x2v := s.sl.xr k.rs2.toNat
    let rd := k.rd.toNat
    let chip := s.hub.chipId
    let word1 := fun (op : Nat) (at_ : Bool) => word (op + at_.toNat * 8 + s.sl.repro.toNat * 16)
    let asks := fun (i : Instr) (use : FarUse) (p : List Word) (f : Slot → Slot) =>
      (a.toNat % 16 ≠ 0 → exec i s = .next (s.trap 0x83 a)) ∧
      (a.toNat % 16 = 0 → fld a 48 16 = 0 → isNear a.toNat = true → exec i s = .next (s.trap 0x84 a)) ∧
      (a.toNat % 16 = 0 → fld a 48 16 = 0 → isNear a.toNat = false → s.translate s.cur a = .ok (ga, unit, chip, leaf) → leafR leaf = true →
        leafW leaf = true →
        (leafTensed leaf = false → exec i s = .next (s.trap 0x80 a)) ∧
        (leafTensed leaf = true → s.hub.tensed.find (pageOf (devOf ga)) = some page → s.sl.farRoom 1 = true →
          exec i s = .next (((s.touched a).sendFar s.cur 0x34 unit chip a ga use 2 p).modCur fun sl => (f sl).complete)))
    let fill : FarUse := .fillX rd 8 1 false
    let empties := fun (sl : Slot) => sl.emptyRegs false rd 1
    Unfenced s →
    (k.w = 0 → Ready s [x1 k] [toX k] →
      asks (.twld k) fill [ga, word1 0 false, 0, 0] empties ∧ asks (.twpred k) fill [ga, word1 5 false, 0, 0] empties) ∧
    (k.w = 1 → Ready s [x1 k, x2 k] [toX k] →
      asks (.twld k) fill [ga, word1 0 true, 0, x2v] empties ∧ asks (.twpred k) fill [ga, word1 5 true, 0, x2v] empties) ∧
    (k.w = 0 → Ready s [x1 k, x2 k] [] →
      asks (.twadd k) .posted [ga, word1 1 false, x2v, 0] id ∧ asks (.twset k) .posted [ga, word1 2 false, x2v, 0] id) ∧
    (k.w = 1 → Ready s [x1 k, x2 k, xd k] [] →
      asks (.twadd k) .posted [ga, word1 1 true, x2v, s.sl.xr rd] id ∧ asks (.twset k) .posted [ga, word1 2 true, x2v, s.sl.xr rd] id) ∧
    (k.w = 0 → k.rs2 = 0 → Ready s [x1 k] [] →
      asks (.twarm k) .posted [ga, word1 3 false, 0, 0] id ∧ asks (.twdis k) .posted [ga, word1 4 false, 0, 0] id) ∧
    (k.w = 0 → k.rs2 ≠ 0 → 256 ≤ x2v.toNat → x2v.toNat < 512 → Ready s [x1 k, x2 k] [] →
      asks (.twarm k) .posted [ga, word1 3 false, x2v, 0] id ∧ asks (.twdis k) .posted [ga, word1 4 false, x2v, 0] id)

/-- `lawset`, `lawget` and `tbadv` (R316, R317) ask the hub and stand until it has answered; an index above 1,023 raises 0x85, a reserved control
word 0x86, and a counter or advance out of range 0x87. -/
def Sys2Proof.Claim.LawInstructionsAskTheHub : Prop :=
  ∀ (s : State) (k : KOps),
    let i := s.sl.xr k.rs1.toNat
    let v := s.sl.xr k.rs2.toNat
    let asks := fun (op rd : Nat) (p : List Word) =>
      (s.sendFar s.cur 0x36 17 s.hub.chipId i 0 .blocking (p.length / 2) p).block (.hub op rd) 1
    Unfenced s → s.sl.farRoom 1 = true →
    (Ready s [x1 k, x2 k] [] →
      (1024 ≤ i.toNat → exec (.lawset k) s = .next (s.trap 0x85 i)) ∧
      (i.toNat < 256 → controlOk v = false → exec (.lawset k) s = .next (s.trap 0x86 v)) ∧
      (i.toNat < 1024 → (256 ≤ i.toNat ∨ controlOk v = true) → exec (.lawset k) s = .next (asks 0 0 [word 0, i, v, 0]))) ∧
    (Ready s [x1 k] [toX k] →
      (1024 ≤ i.toNat → exec (.lawget k) s = .next (s.trap 0x85 i)) ∧
      (i.toNat < 1024 → exec (.lawget k) s = .next (asks 1 k.rd.toNat [word 1, i]))) ∧
    (Ready s [x1 k, x2 k] [toX k] →
      ((i = 0 ∨ 8 ≤ i.toNat) → exec (.tbadv k) s = .next (s.trap 0x87 i)) ∧
      (i ≠ 0 → i.toNat < 8 → 2 ^ 31 ≤ v.toNat → exec (.tbadv k) s = .next (s.trap 0x87 v)) ∧
      (i ≠ 0 → i.toNat < 8 → v.toNat < 2 ^ 31 →
        exec (.tbadv k) s = .next ((asks 2 k.rd.toNat [word 2, i, v, 0]).modCur fun sl => sl.emptyRegs false k.rd.toNat 1)))

/-- Names at the core (R331, R337 to R342): `nmnew` takes the next name of the cluster's run and sends its entry; `nmcas`, `nmkill` and `nmstat` send
one request to the name unit; `nmres` of a cached name answers its binding at once; `nmld` and `nmst` of a cached name go to the bound
address. An unknown serial raises 0x96, a creation word outside R338 0x97, an offset that is no multiple of 8 0x98. -/
def Obligations.NameInstructions : Prop :=
  ∀ (s : State) (k : KOps) (e : CachedName) (ga : Word) (page room unit : Nat),
    let n := s.sl.name k.rs1.toNat
    let cl := clusterOf s.curCore
    let s' := s.modCluster cl fun c => { c with names := cacheTouch c.names n }
    let a := s.sl.xr k.rs1.toNat
    let c := s.sl.xr k.rs2.toNat
    let rd := k.rd.toNat
    let fill : FarUse := .fillX rd 8 1 false
    let empties := fun (u : State) (count : Nat) => u.modCur fun sl => (sl.emptyRegs false rd count).complete
    let gs := [(k.rs1.toNat, 2)]
    Unfenced s → s.sl.farRoom 1 = true →
    (Ready s [x1 k, x2 k] [toX k 2] [(rd, 2)] →
      (creationOk c = false → exec (.nmnew k) s = .next (s.trap 0x97 c)) ∧
      (creationOk c = true → s.bindingTarget a = .ok (ga, page, room) → 64 * 2 ^ fld c 8 5 ≤ room →
        (s.cluster cl).nameLeft ≠ 0 →
        let r := ((s.touched a).runOf cl).takeName cl
        exec (.nmnew k) s = .next (empties (r.1.sendName s.hub.chipId r.2 1 [ga, newAttr c page s.curCtx.vf, 0] (.fillX rd 8 2 false)) 2) ∧
          r.2 = s.hub.boot.serial ++ (s.cluster cl).nextName) ∧
      (creationOk c = true → s.bindingTarget a = .ok (ga, page, room) → 64 * 2 ^ fld c 8 5 ≤ room →
        (s.cluster cl).nameLeft = 0 → s.hub.canIssue = false → s.hub.exhausted = true →
        exec (.nmnew k) s = .next (empties ((s.touched a).sendName s.hub.chipId (s.hub.boot.serial ++ (0 : BitVec 80)) 1
          [ga, newAttr c page s.curCtx.vf, 1] (.fillX rd 8 2 false)) 2))) ∧
    (s.issuer n = .ok s.hub.chipId →
      (Ready s [namePair k] [toX k] gs →
        (cacheFind (s.cluster cl).names n = some e → hasRight e.attr 0 true s.curCtx.vf = true →
          exec (.nmres k) s = .next (s'.finishX rd e.binding)) ∧
        (s.released s.cur 2 = true → exec (.nmkill k) s = .next (empties (s.sendName s.hub.chipId n 3 [] fill) 1)) ∧
        exec (.nmstat k) s = .next (empties (s.sendName s.hub.chipId n 6 [] fill) 1)) ∧
      (Ready s [namePair k, x2 k 2] [toX k] [(k.rs1.toNat, 2), (k.rs2.toNat, 2)] → s.bindingTarget (s.sl.xr (k.rs2.toNat + 1)) = .ok (ga, page, room) →
        s.released s.cur 2 = true →
        exec (.nmcas k) s = .next (empties ((s.touched (s.sl.xr (k.rs2.toNat + 1))).sendName s.hub.chipId n 2 [c, ga, word page, word room] fill
          (s.sl.xr (k.rs2.toNat + 1))) 1)) ∧
      (Ready s [namePair k, x2 k] [toX k] gs →
        (c.toNat % 8 ≠ 0 → exec (.nmld k) s = .next (s.trap 0x98 c)) ∧
        (c.toNat % 8 = 0 → cacheFind (s.cluster cl).names n = some e → hasRight e.attr 0 true s.curCtx.vf = true →
          relativeTarget e.binding e.attr c n false = .ok (ga, unit) →
          exec (.nmld k) s = .next (empties ((s'.modCached cl n fun x => { x with inFlight := x.inFlight + 1 }).sendRead s.cur ga ga unit (chipOf ga) 8
            fill (some n)) 1))) ∧
      (Ready s [namePair k, x2 k, xd k] [] gs →
        (c.toNat % 8 ≠ 0 → exec (.nmst k) s = .next (s.trap 0x98 c)) ∧
        (c.toNat % 8 = 0 → cacheFind (s.cluster cl).names n = some e → hasRight e.attr 1 true s.curCtx.vf = true →
          relativeTarget e.binding e.attr c n true = .ok (ga, unit) →
          exec (.nmst k) s = .next (((s'.modCached cl n fun x => { x with inFlight := x.inFlight + 1 }).sendWrite s.cur 0x21 ga ga unit (chipOf ga)
            (toBytes 8 (s.sl.xr rd).toNat) .posted (some n)).complete)))) ∧
    (∀ a', s.issuer n = .trap 0x96 a' → Ready s [namePair k] [toX k] gs →
      exec (.nmres k) s = .next (s.trap 0x96 a') ∧ exec (.nmkill k) s = .next (s.trap 0x96 a') ∧ exec (.nmstat k) s = .next (s.trap 0x96 a'))

/-- Reads and writes at their home (R199, R226, R235): an admitted read of unpoisoned bytes answers status 0 and the bytes, and memory stays; an
admitted write puts the bytes under its mask into the page's media, every other byte stays, and is acknowledged with status 0; a request
whose page has no entry here changes no memory and is answered with status 2. (Media without bit errors that a read would find: R234 has those.) -/
def Sys2Proof.Claim.HomeReadsAndWrites : Prop :=
  ∀ (s : State) (m : Msg) (media entry : Nat),
    let ga := m.payload.getD 0 0
    let n := fld (m.payload.getD 1 0) 0 8
    let data := bytesOfWords (m.payload.drop 2)
    let isLast := fun (t : State) (kind : BitVec 8) (p : List Word) =>
      ∃ r : Msg, t.net.getLast? = some r ∧ r.kind = kind ∧ r.dstCore = m.tag.setWidth 12 ∧ r.tag = m.tag ∧ r.seq = m.seq ∧ r.payload = p
    let writes := fun (P : State → Prop) => (∃ t, exec (.writeRequest m) s = .next t ∧ P t) ∧ (∃ t, exec (.writeRelease m) s = .next t ∧ P t) ∧
      (∃ t, exec (.writeSc m) s = .next t ∧ P t)
    m.srcChip = s.hub.chipId → s.holder m = none → tagPath m.tag = false → s.weak = [] →
    (s.findLine m ga false true false = .at media entry → s.poisoned media n = false →
      ∃ t, exec (.readRequest m) s = .next t ∧ t.mem = s.mem ∧ t.slots = s.slots ∧
        isLast t 0x28 ([0, 0] ++ wordsOf (2 * ((n + 15) / 16)) (s.bytes media n))) ∧
    (s.findLine m ga false true false = .at media entry → s.poisoned media n = true →
      ∃ t, exec (.readRequest m) s = .next t ∧ isLast t 0x28 ([1, 0] ++ List.replicate (2 * ((n + 15) / 16)) 0)) ∧
    (∀ r, s.findLine m ga false true false = .refused 2 r → ∃ t, exec (.readRequest m) s = .next t ∧ isLast t 0x28 ([2, 0] ++ List.replicate (2 * ((n + 15) / 16)) 0)) ∧
    (n ≠ 0 → s.findLine m ga false false true = .at media entry → (∀ u ∈ s.poison, u + 64 ≤ media ∨ media + 255 ≤ u) → data.length < 256 → n ≤ data.length →
      writes fun t => t.mem = memWriteMasked s.mem media (2 ^ n - 1) (data.take n) ∧ t.slots = s.slots ∧ isLast t 0x29 [0, 0]) ∧
    (n = 0 → s.findLine m ga false false true = .at media entry → s.poison = [] → 64 ≤ data.length →
      writes fun t => t.mem = memWriteMasked s.mem media (m.payload.getD 10 0).toNat (data.take 64) ∧ isLast t 0x29 [0, 0]) ∧
    (∀ r, s.findLine m ga false false true = .refused 2 r → s.hub.kmc = 0 → writes fun t => t.mem = s.mem ∧ isLast t 0x29 [2, 0])

/-- What a home looks up (R226, R428): a VALID entry whose placement makes this unit the home, and a requester that is the page's owner on this
chip or that an access-table entry admits; otherwise the request is refused with status 2. A name unit's request on behalf of another chip is that
chip's (19_names.md R335), and the management path is always admitted. -/
def Sys2Proof.Claim.HomeAdmitsOwnersAndTableEntries : Prop :=
  ∀ (s : State) (m : Msg) (ga : Word) (read write : Bool),
    let a := devOf ga
    let e := s.dpit (a / 65536)
    let here := dpitValid e = true ∧ homeOf (dpitPlacement e) a = m.unit
    let from_ := m.behalf.getD m.srcChip
    let owner := from_ = s.hub.chipId ∧ m.srcVf.toNat = dpitOwner e
    let listed := ∃ x ∈ (s.stack m.unit).access, bit x.2 63 = true ∧ (read = true → bit x.2 62 = true) ∧ (write = true → bit x.2 61 = true) ∧
      (bit x.2 59 = true ∨ fld x.2 0 20 = from_.toNat) ∧ (bit x.2 58 = true ∨ fld x.2 44 7 = m.srcVf.toNat) ∧ fld x.2 51 7 = dpitOwner e
    (here ∧ (owner ∨ listed) → s.findLine m ga false read write = .at (mediaOfEntry e a) e) ∧
    (¬ (here ∧ (owner ∨ listed)) → ∃ r, s.findLine m ga false read write = .refused 2 r) ∧
    (here → s.findLine m ga true read write = .at (mediaOfEntry e a) e) ∧ (¬ here → s.findLine m ga true read write = .refused 2 true)

/-- Prefetches, hints, queries and watches at their home COMPLETE there (R213 to R215, R240, R241): a prefetch stages the lines from its own on, those
of the CXL tier in the hub's tier buffer too, counts as a request to its page (R229) and has no answer; a hint writes HINT of the page's entry; a
query answers the entry's state with status 0; a watch whose word equals its comparand is held, and one whose word differs resumes its clause at
once. Watches that were spilled are read again (R214): those whose word differs resume, the others stay, and while any is left the next reading is
due in 4,096 ns. -/
def Obligations.HomesWatch : Prop :=
  (∀ (s : State) (m : Msg) (media entry : Nat),
    let ga := m.payload.getD 0 0
    let n := fld (m.payload.getD 1 0) 0 8
    let page := pageOf (devOf ga)
    m.srcChip = s.hub.chipId → s.holder m = none → s.parks m = false →
    (s.findLine m ga false true false = .at media entry →
      (∃ t, exec (.prefetchRequest m) s = .next t ∧ t.net = s.net ∧ t.mem = s.mem ∧
        (t.stack m.unit).readBuf = (List.range n).map (fun i => devOf ga / 64 + i) ∧
        (2 ^ 40 ≤ media → t.hub.tierBuf = (List.range n).map (fun i => media / 64 * 64 + 64 * i)) ∧
        (t.stack m.unit).heat.get page 0 = (s.stack m.unit).heat.get page 0 + 1) ∧
      (∃ t r, exec (.queryRequest m) s = .next t ∧ t.mem = s.mem ∧ t.net = s.net ++ [r] ∧ r.kind = 0x3E ∧ r.dstCore = m.tag.setWidth 12 ∧
        r.payload.getD 0 1 = 0 ∧
        let w := r.payload.getD 2 0
        bit w 63 = dpitValid entry ∧ fld w 62 1 = dpitTier entry % 2 ∧ bit w 61 = dpitMoving entry ∧ bit w 60 = dpitPinned entry ∧ fld w 0 28 = page % 2 ^ 28) ∧
      (s.poisoned media 8 = false → s.weak = [] → (s.launch m.launch).repro = false →
        (s.fires m = false → (s.stack m.unit).watches.length < 16384 → ∃ t, exec (.watchRequest m) s = .next t ∧ t.net = s.net ∧ t.mem = s.mem ∧
          (t.stack m.unit).watches = (s.stack m.unit).watches ++ [m]) ∧
        (s.fires m = true → ∃ t r, exec (.watchRequest m) s = .next t ∧ t.mem = s.mem ∧ t.net = s.net ++ [r] ∧ r.kind = 0x02 ∧ r.tag = m.tag ∧
          r.dstCore = m.tag.setWidth 12 ∧ r.payload = [s.watched m, 0] ∧ (t.stack m.unit).watches = (s.stack m.unit).watches))) ∧
    (s.findLine m ga false false false = .at media entry → Memory.wf s.mem = true → ∃ t, exec (.hintRequest m) s = .next t ∧ t.net = s.net ∧
      t.dpit page = withBits (s.dpit page) 28 2 (fld (m.payload.getD 1 0) 0 2))) ∧
  (∀ (s : State) (u : Nat), (∀ m ∈ (s.stack u).spill, (s.launch m.launch).repro = false ∧ m.srcChip = s.hub.chipId) →
    ∃ t, exec (.watchSpillReread u) s = .next t ∧ (t.stack u).spill = (s.stack u).spill.filter (fun m => !s.fires m) ∧ t.mem = s.mem ∧
      t.net.length = s.net.length + ((s.stack u).spill.filter fun m => s.fires m).length ∧
      ((t.stack u).spill = [] → t.timers = s.timers) ∧ ((t.stack u).spill ≠ [] → t.timers = s.timers ++ [(s.ktick.toNat + 4096, .watchSpillReread u)]))

/-- Atomics and reductions at their home (R268 to R272): the old bytes are read, the new ones written and nothing else in memory changes, as one
access; an atomic answers the old value, a reduction is acknowledged. A compare-and-swap writes only where the old value is the
comparand. -/
def Sys2Proof.Claim.HomeAtomics : Prop :=
  ∀ (s : State) (m : Msg) (media entry : Nat),
    let ga := m.payload.getD 0 0
    let w := m.payload.getD 1 0
    let op := w.toNat % 16
    let natural := bit w 4
    let v := m.payload.getD 2 0
    let c := m.payload.getD 4 0
    let old := word (s.load media 8)
    let lower := if natural = true then old.toNat ≤ v.toNat else old.toInt ≤ v.toInt
    let code := fld w 0 5
    let isLast := fun (t : State) (kind : BitVec 8) (p : List Word) =>
      ∃ r : Msg, t.net.getLast? = some r ∧ r.kind = kind ∧ r.dstCore = m.tag.setWidth 12 ∧ r.tag = m.tag ∧ r.seq = m.seq ∧ r.payload = p
    let leaves := fun (new : Word) => ∃ t, exec (.atomicRequest m) s = .next t ∧ t.mem = memWriteBytes s.mem media (toBytes 8 new.toNat) ∧
      t.slots = s.slots ∧ isLast t 0x33 [0, 0, old, 0]
    m.srcChip = s.hub.chipId → s.holder m = none → s.parks m = false → s.findLine m ga false true true = .at media entry →
    s.poisoned media 16 = false → s.poisoned media 8 = false → s.weak = [] → m.payload.length = 6 →
    (bit w 5 = false →
      (op = 0 → leaves (old + v)) ∧ (op = 3 → leaves (old &&& v)) ∧ (op = 4 → leaves (old ||| v)) ∧ (op = 5 → leaves (old ^^^ v)) ∧
      (op = 6 → leaves v) ∧ (op = 7 → old = c → leaves v) ∧ (op = 7 → old ≠ c → leaves old) ∧
      (op = 1 → lower → leaves old) ∧ (op = 1 → ¬ lower → leaves v) ∧ (op = 2 → lower → leaves v) ∧ (op = 2 → ¬ lower → leaves old)) ∧
    (bit w 5 = true → op = 6 → ∃ t, exec (.atomicRequest m) s = .next t ∧
      t.mem = memWriteBytes s.mem media (toBytes 8 v.toNat ++ toBytes 8 (m.payload.getD 3 0).toNat) ∧
      isLast t 0x33 [0, 0, old, word (s.load (media + 8) 8)]) ∧
    (s.windowAt (devOf ga) = none → s.poisoned media (redSize code) = false →
      ∃ t, exec (.reductionRequest m) s = .next t ∧
        t.mem = memWriteBytes s.mem media (toBytes (redSize code) (redApply code (s.load media (redSize code)) v.toNat)) ∧ isLast t 0x33 [0, 0])

/-- Barrier objects at their home (R279 to R283): `barinit` makes a LIVE object of its count; a join takes the next participant number; an arrival
sets the participant's bit and counts it, and the last one of a phase clears the bits and the count, moves the phase on and resumes every
waiter; a wait on a later phase is held. -/
def Sys2Proof.Claim.BarrierObjectPhases : Prop :=
  ∀ (s : State) (m : Msg) (a entry : Nat),
    let n := a
    let p := barNumber m
    let count := s.load (n + 4) 4
    let expect := s.load n 4
    let phase := s.load (n + 8) 4
    let joined := s.load (n + 16) 2
    let live := s.load (n + 18) 1 = 1
    let tells := fun (t : State) (status phase : Nat) (ws : List Word) => ∃ r : Msg, r ∈ t.net ∧ r.kind = 0x33 ∧ r.dstCore = m.tag.setWidth 12 ∧
      r.payload = [word (status + phase * 2 ^ 16), 0] ++ ws
    m.srcChip = s.hub.chipId → s.holder m = none → s.parks m = false → s.findLine m (m.payload.getD 0 0) false true true = .at a entry →
    s.poisoned a 256 = false → Memory.wf s.mem = true →
    (barOp m = 0 → live → joined < 1024 → ∃ t, exec (.barrierOperation m) s = .next t ∧ t.load (n + 16) 2 = joined + 1 ∧
      (∀ b, (b < n + 16 ∨ n + 18 ≤ b) → memRead t.mem b = memRead s.mem b) ∧ tells t 0 0 [word joined, 0]) ∧
    (barOp m = 1 → ¬ live → ∃ t, exec (.barrierOperation m) s = .next t ∧ t.load (n + 18) 1 = 1 ∧ t.load n 4 = fld (barOperand m) 0 11 ∧
      t.load (n + 4) 4 = 0 ∧ t.load (n + 8) 4 = 0 ∧ t.load (n + 16) 2 = 0 ∧ t.load (n + 19) 1 = fld (barOperand m) 12 2 ∧ tells t 0 0 []) ∧
    (barOp m = 2 → live → p < 1024 → bitOf (s.load (n + 64 + p / 8) 1) (p % 8) = false → count + 1 ≠ expect → count + 1 < 2 ^ 32 →
      ∃ t, exec (.barrierOperation m) s = .next t ∧ t.load (n + 4) 4 = count + 1 ∧ t.load n 4 = expect ∧ t.load (n + 8) 4 = phase ∧
        bitOf (t.load (n + 64 + p / 8) 1) (p % 8) = true ∧ tells t 0 phase []) ∧
    (barOp m = 2 → live → p < 1024 → bitOf (s.load (n + 64 + p / 8) 1) (p % 8) = false → count + 1 = expect → s.load (n + 12) 4 = 0 →
      ∃ t, exec (.barrierOperation m) s = .next t ∧ t.load (n + 4) 4 = 0 ∧ t.load n 4 = expect ∧ t.load (n + 8) 4 = (phase + 1) % 2 ^ 32 ∧
        t.load (n + 64) 128 = 0 ∧ tells t 0 phase [] ∧
        (∀ x ∈ (s.stack m.unit).waiters, x.payload.getD 0 0 = m.payload.getD 0 0 → x ∉ (t.stack m.unit).waiters)) ∧
    (barOp m = 3 → live → phase = fld (barOperand m) 0 32 → ∃ t, exec (.barrierOperation m) s = .next t ∧
      (t.stack m.unit).waiters = (s.stack m.unit).waiters ++ [m] ∧ t.net = s.net)

/-- Replies at their slot (R103, R199, R202): a reply whose tag and sequence name a request that is out ends it, whatever its kind; a non-blocking one
fills its register with the bytes that came, full, or with a marker where its status is not 0; the last reply of a blocking load writes its
register and the instruction completes; with a status the instruction traps with the status's cause. The answers of the hub and of a name unit
complete the instruction that stands for them. A reply that nothing waits for changes nothing. -/
def Obligations.RepliesFillAndComplete : Prop :=
  ∀ (s : State) (m : Msg) (f : Far) (rd size op : Nat) (signed : Bool) (name : BitVec 128) (args : List Word),
    let k := tagSlotKey m.tag
    let sl := s.slot k
    let st := replyStatus m
    let w := m.payload.getD 2 0
    let each := fun (P : State → Prop) =>
      (∃ t, exec (.readReply m) s = .next t ∧ P t) ∧ (∃ t, exec (.writeAcknowledgement m) s = .next t ∧ P t) ∧
      (∃ t, exec (.nearMemoryReply m) s = .next t ∧ P t) ∧ (∃ t, exec (.tensedReply m) s = .next t ∧ P t) ∧
      (∃ t, exec (.hubReply m) s = .next t ∧ P t) ∧ (∃ t, exec (.nameReply m) s = .next t ∧ P t) ∧ (∃ t, exec (.queryReply m) s = .next t ∧ P t)
    let asked := sl.far.find? (fun f => f.gen == tagGen m.tag && f.seq == m.seq)
    let out := asked = some f ∧ s.parks { m with launch := f.launch, window := f.window } = false ∧ f.gen = sl.gen ∧ sl.phase = .running ∧ f.name = none
    let rest := fun (sl' : Slot) => sl' = { sl with far := sl'.far, owed := sl'.owed }
    tagKind m.tag = 2 →
    (asked = none → s.parks m = false → each fun t => t = s) ∧
    (out → f.use = .fillX rd size 1 signed → each fun t =>
      (st = 0 → (t.slot k).xr rd = (if rd = 0 then 0 else extendBytes size signed w.toNat) ∧ (t.slot k).xmark rd = .full) ∧
      (st ≠ 0 → rd ≠ 0 → (t.slot k).xmark rd = .marked (f.cause st) (f.markAddr st)) ∧
      (∀ j, j ≠ rd → (t.slot k).xr j = sl.xr j ∧ (t.slot k).xmark j = sl.xmark j) ∧ (t.slot k).pc = sl.pc ∧
      (∀ g ∈ (t.slot k).far, g.gen = f.gen → g.seq ≠ f.seq) ∧ (st ≠ 1 → t.mem = s.mem) ∧ ∀ j, j ≠ k → t.slot j = s.slot j) ∧
    (out → f.use = .blocking → sl.wait = .blocked (.load rd size signed) 1 [] → each fun t =>
      (st = 0 → t.mem = s.mem ∧ ∃ sl' : Slot, rest sl' ∧ t.slot k = (sl'.setX rd (extendBytes size signed w.toNat)).complete) ∧
      (st = 1 → (t.slot k).phase = .frozen ∧ (t.slot k).kcause = 0x60 ∧ (t.slot k).kaddr = f.va) ∧
      (st = 2 → (t.slot k).phase = .frozen ∧ (t.slot k).kcause = 0x5A ∧ (t.slot k).kaddr = f.va)) ∧
    (out → f.use = .blocking → sl.wait = .blocked .store 1 [] → st = 0 → each fun t => t.mem = s.mem ∧ ∃ sl' : Slot, rest sl' ∧ t.slot k = sl'.complete) ∧
    (out → f.use = .posted → st = 0 → each fun t => t.mem = s.mem ∧
      t.slot k = { sl with far := (t.slot k).far, owed := (t.slot k).owed } ∧ (∀ g ∈ (t.slot k).far, g.gen = f.gen → g.seq ≠ f.seq)) ∧
    (out → f.use = .blocking → sl.wait = .blocked (.hub op rd) 1 [] → st = 0 → 1 ≤ op → op ≠ 3 →
      ∃ t sl', exec (.hubReply m) s = .next t ∧ rest sl' ∧ t.slot k = (sl'.setX rd w).complete ∧ t.mem = s.mem) ∧
    (out → f.use = .blocking → sl.wait = .blocked (.name 4 rd name args) 1 [] → st = 0 →
      ∃ t sl', exec (.nameReply m) s = .next t ∧ rest sl' ∧ t.slot k = (sl'.setX rd w).complete ∧ t.mem = s.mem)

/-- Messages that fire channels (R104 to R108): one for a context with room, whose launch is the context's own, runs and is not reproducible, joins
the queue of its channel and sets the channel's pending bit; every other channel is as before. Estimator items, trap reports, notices and the
peer-down notice name their fixed channels 241, 255, 254 and 253. A context that holds no launch, or whose launch is another than the message's, which
has ended (R376), discards them and counts; an item of a run that was stopped or killed is dropped (R389). -/
def Sys2Proof.Claim.HandlerMessagesQueueAtTheirChannel : Prop :=
  ∀ (s : State) (m : Msg),
    let core := s.served m.dstCore.toNat
    let c := m.ctx.toNat
    let x := s.ctx core c
    let l := s.launch x.launch
    let chan := fun (t : State) (i : Nat) => (t.ctx core c).chans.get i {}
    let fires := fun (i : Instr) (n : BitVec 8) => ∃ t, exec i s = .next t ∧
      (∃ q : Msg, (chan t n.toNat).queue = (chan s n.toNat).queue ++ [q] ∧ q.chan = n ∧ q.payload = m.payload ∧ q.key = m.key ∧ q.seq = m.seq) ∧
      (chan t n.toNat).pending = true ∧ (∀ j, j ≠ n.toNat → chan t j = chan s j) ∧ t.slots = s.slots ∧ t.mem = s.mem
    m.srcChip = s.hub.chipId →
    (x.launch ≠ 0 → l.killing = false → l.repro = false → x.held = [] → x.inbound < 128 → x.saved = false → x.repro = false → m.kind ≠ 0x03 →
      (m.launch = 0 ∨ m.launch = x.launch) →
      fires (.handlerMessage m) m.chan ∧ fires (.launchStart m) m.chan ∧ fires (.copyArrival m) m.chan ∧ fires (.trapReport m) 255 ∧
      fires (.errorNotice m) 254 ∧ fires (.peerDownNotice m) 253 ∧ (s.itemsGone m.launch = false → fires (.estimatorItem m) 241)) ∧
    ((x.launch = 0 ∨ s.outlasted core c x m = true) → ∃ t, exec (.handlerMessage m) s = .next t ∧ t.net = s.net ∧ (∀ j, chan t j = chan s j) ∧
      fld (t.ctx core c).ctxErr 16 16 = least 0xFFFF (fld x.ctxErr 16 16 + 1)) ∧
    (s.itemsGone m.launch = true → exec (.estimatorItem m) s = .next s)

/-- Messages between clauses (R103, R110 to R113, R117, R125, R130): a register reply fills the group its `sendr` left empty; a resume makes a suspended
clause runnable, with its status in the record, and puts it into the pool of its resume core; a spawn joins its core's pool; an exit report is
written into the parent's family entry, its result into the line of results and the arrived mask into the head. No other byte of memory
changes. -/
def Sys2Proof.Claim.ClauseMessagesTakeEffect : Prop :=
  ∀ (s : State) (m : Msg) (a : Ask),
    s.parks m = false → m.srcChip = s.hub.chipId →
    (let k := tagSlotKey m.tag
     let sl := s.slot k
     sl.asks.find? (fun a => a.gen == tagGen m.tag && a.vec == tagVec m.tag && a.reg == tagReg m.tag) = some a → a.gen = sl.gen → sl.phase = .running → m.rstat = 0 →
       ∃ t, exec (.registerReply m) s = .next t ∧ (∀ j, j ≠ k → t.slot j = s.slot j) ∧ t.mem = s.mem ∧
         t.slot k = { sl with asks := sl.asks.erase a, owed := sl.owed.set a.gen (sl.owed.get a.gen 0 - 1) }.fillGroup a.vec a.reg a.count m.payload) ∧
    (let core := tagCore m.tag
     let c := m.ctx.toNat
     let i := tagIndex m.tag
     let r := s.record core c i
     let dest := s.resumeCore r
     m.chan ≠ 1 → r.state = .suspended → r.ended = false → r.resumes = [] → m.rpay = false → m.forVf = none → (s.ctx (s.served core) c).saved = false →
       (s.ctx dest c).saved = false → (s.ctx dest c).repro = false →
       ∃ t, exec (.resume m) s = .next t ∧ (t.record core c i).state = .runnable ∧ (t.record core c i).status = r.status % 16 + m.rstat.toNat * 16 ∧
         t.slots = s.slots ∧ (∀ ga unit media e, s.tableLine core c (s.recordVa core c i) = .ok (ga, unit) → chipOf ga = s.hub.chipId →
           s.findLine (s.tableMsg core c ga unit) ga false false true = .at media e → media % 64 = 0 →
           t.bytes media 64 = { r with status := r.status % 16 + m.rstat.toNat * 16 }.image ∧
           ∀ b, (b < media ∨ media + 64 ≤ b) → memRead t.mem b = memRead s.mem b) ∧
         ∃ q : PoolItem, (t.ctx dest c).pool = (s.ctx dest c).pool ++ [q] ∧ q.kind = .resumed core i ∧ q.prio = r.clause.prio ∧ q.msg.payload = m.payload) ∧
    (let core := s.served m.dstCore.toNat
     let c := m.ctx.toNat
     let x := s.ctx core c
     m.kind = 0x03 → x.held = [] → x.inbound < 128 → x.saved = false → x.repro = false →
       ∃ t, exec (.spawnMessage m) s = .next t ∧ t.slots = s.slots ∧ t.mem = s.mem ∧
         ∃ q : PoolItem, (t.ctx core c).pool = x.pool ++ [q] ∧ q.kind = .child ∧ q.prio = fld (m.payload.getD 2 0) 32 8 ∧ q.msg.payload = m.payload) ∧
    (let core := tagCore m.tag
     let c := m.ctx.toNat
     let i := tagIndex m.tag
     let r := s.record core c i
     let o := ((m.payload.getD 1 0).setWidth 32 - r.family.joinBase).toNat
     r.state = .running → r.ended = false → r.susp = .susp → o < 64 → fld (m.payload.getD 1 0) 32 1 = 0 →
       ∃ t, exec (.exitReport m) s = .next t ∧ t.slots = s.slots ∧
         (∀ ga unit media e ga' unit' media' e',
           s.tableLine core c (s.familyVa core c i + word (64 + 64 * (o / 8))) = .ok (ga, unit) → chipOf ga = s.hub.chipId →
           s.findLine (s.tableMsg core c ga unit) ga false false true = .at media e → media % 64 = 0 →
           let f := r.family.report ((m.payload.getD 1 0).setWidth 32) false (m.payload.getD 0 0)
           let u := (s.setRecord core c i { r with family := f }).putResult core c i (o / 8)
           u.bytes media 64 = f.line (o / 8) ∧
           (u.tableLine core c (u.familyVa core c i) = .ok (ga', unit') → chipOf ga' = s.hub.chipId →
             u.findLine (u.tableMsg core c ga' unit') ga' false false true = .at media' e' → media' % 64 = 0 →
             t.bytes media' 64 = f.head ∧
             ∀ b, (b < media ∨ media + 64 ≤ b) → (b < media' ∨ media' + 64 ≤ b) → memRead t.mem b = memRead s.mem b)) ∧
         bit (t.record core c i).family.arrived o = true ∧ (t.record core c i).family.results.get o 0 = m.payload.getD 0 0 ∧
         (t.record core c i).family.lost = r.family.lost ∧ (t.record core c i).state = .running)

/-- FETCH_LINE_DELIVERY (R93): the port of a cluster serves the next core that asks. A translation that fails raises its cause at the slot, a page
that may not be executed 0x52; a line that its home reads reaches every slot of the cluster that asks for it, and no other slot and no memory
changes. -/
def Sys2Proof.Claim.FetchPortDeliversLines : Prop :=
  ∀ (s : State) (cl core k : Nat) (rest : List Nat),
    let va := (s.slot k).lineVa
    let asid := s.asid k
    let frozen := fun (cause : Nat) => ∃ t, exec (.fetchLineDelivery cl) s = .next t ∧ (t.slot k).phase = .frozen ∧ (t.slot k).kcause = word cause ∧
      (t.slot k).kaddr = (s.slot k).pc ∧ (t.slot k).kepc = (s.slot k).pc ∧ (t.slot k).fetching = false
    s.nextFetcher cl = some core → s.asking core = k :: rest →
    (∀ c, s.leafFor core asid va.toNat = .fail c → frozen c) ∧
    (∀ leaf ps, s.leafFor core asid va.toNat = .ok leaf ps →
      let ga := s.globalOf leaf ps va.toNat
      (leafX leaf = false → frozen 0x52) ∧
      (∀ (m : Msg) (media entry : Nat), leafX leaf = true → chipOf ga = s.hub.chipId → s.hub.moves = [] →
        m.unit = homeOf (leafPlacement leaf) (devOf ga) → m.srcChip = s.hub.chipId → m.srcVf = BitVec.ofNat 7 (s.ctx core (s.slot k).clause.ctx).vf →
        m.behalf = none → s.weak = [] →
        s.findLine m ga false true false = .at media entry → s.poisoned media 64 = false →
        ∃ t, exec (.fetchLineDelivery cl) s = .next t ∧ t.mem = s.mem ∧ k ∈ s.sharing cl va asid ∧
          (∀ j, j ∈ s.sharing cl va asid → (t.slot j).fetching = false ∧
            (t.slot j).line = some { va := va, asid := asid, data := BitVec.ofNat 512 (ofBytes (s.bytes media 64)) }) ∧
          (∀ j, j ∉ s.sharing cl va asid → t.slot j = s.slot j)))

/-- WATCHDOG and TRAP_RING_ENTRY (R96, R406): a clause that has used up its bound reports cause 0x11 with its cycles and address, and ends, at once
where no barrier request of it is out (R132); one that has not is left alone. A report that waits at a slot enters the trap ring once the ring has room. -/
def Sys2Proof.Claim.WatchdogEndsTheClause : Prop :=
  ∀ (s : State) (k : Nat),
    let sl := s.slot k
    let entry := s.hub.ktrap + word (64 * (s.hub.ktrapTail % 4096))
    (sl.phase = .running → coreOf k < 4096 → sl.kwdog.toNat ≤ sl.cycles →
      ∃ t, exec (.watchdog k) s = .next t ∧ (t.slot k).kcause = 0x11 ∧ (t.slot k).kaddr = word sl.cycles ∧ (t.slot k).kepc = sl.pc ∧
        (t.slot k).trapNo = sl.trapNo + 1 ∧ (t.slot k).phase ≠ .running ∧
        ((∀ f ∈ sl.far, f.kind ≠ 0x32) → sl.clause.regs = [] → (t.slot k).phase = .free)) ∧
    (sl.cycles < sl.kwdog.toNat → exec (.watchdog k) s = .next s) ∧
    (∀ p, s.hub.heldReports = [] → sl.ringReport = some p → ringFull s.hub.ktrapHead s.hub.ktrapTail 4096 = false →
      ∃ t, exec (.trapRingEntry k) s = .next t ∧
        (chipOf entry = s.hub.chipId → t.mem = (s.devWrite (devOf entry) (bytesOfWords p)).mem) ∧
        t.hub = { s.hub with ktrapTail := (s.hub.ktrapTail + 1) % 4096 } ∧ t.slot k = { sl with ringReport := none } ∧ ∀ j, j ≠ k → t.slot j = s.slot j)

/-- HANDLER_DISPATCH (R18, R106, R108, R109): a free slot of a core takes the oldest message of the channel that is chosen and starts its clause at
the handler's address, with the digest of the message, sequence 0 and the payload in x16 up; the channel is pending while it has more. In a
halted cluster nothing starts. MESSAGE_DEPARTURE (R104): a queued message leaves once nothing that it waits for is out, and no later
message of its clause overtakes it. -/
def Obligations.DispatchAndDeparture : Prop :=
  ∀ (s : State) (slot k c i g : Nat) (m : Msg) (rest : List Msg) (o p : Out),
    let core := coreOf slot
    let x := s.ctx core c
    let ch := x.chans.get i {}
    ((s.debug (clusterOf core)).halted = true → exec (.handlerDispatch slot) s = .next s) ∧
    ((s.debug (clusterOf core)).halted = false → (∀ j < 4, (s.ctx core j).preempted = false) → s.idleSlot core = some k → c = ((s.core core).lastCtx + 1) % 4 → s.pickOf core c = some (.chan i) →
      ch.queue = m :: rest → m.kind ≠ 0x08 → entryValid ch.entry = true → x.held = [] → nextGen (s.slot k).owed (s.slot k).gen 1024 = some g →
      ∃ t, exec (.handlerDispatch slot) s = .next t ∧ t.mem = s.mem ∧ (∀ j, j ≠ k → t.slot j = s.slot j) ∧
        (t.slot k).phase = .running ∧ (t.slot k).gen = g ∧ (t.slot k).pc = x.codeBase + word (fld ch.entry 0 32) ∧
        (t.slot k).kpath = mix m.key m.seq.toNat ∧ (t.slot k).kseq = 0 ∧ (t.slot k).cycles = 0 ∧ (t.slot k).kwdog = x.wdog ∧
        (t.slot k).clause.chan = BitVec.ofNat 8 i ∧ (t.slot k).clause.launch = x.launch ∧
        (∀ j < m.payload.length, j < 12 → (t.slot k).xr (16 + j) = m.payload.getD j 0) ∧ (∀ r, (t.slot k).xmark r = .full) ∧
        ((t.ctx core c).chans.get i {}).queue = rest ∧ ((t.ctx core c).chans.get i {}).pending = !rest.isEmpty) ∧
    ((s.core core).outq = [o] → o.seqs = [] → o.fwd = 0 → o.near = 0 →
      let u := (s.modCore core fun c => { c with outq := [] }).route { o.msg with stamp := s.stamp }
      ∃ t, exec (.messageDeparture core) s = .next t ∧ t = { u with agenda := t.agenda }) ∧
    ((s.core core).outq = [o, p] → (o.seqs ≠ [] ∨ o.fwd ≠ 0 ∨ o.near ≠ 0) → p.msg.key = o.msg.key → ∃ t, exec (.messageDeparture core) s = .next t ∧
      t.net = s.net ∧ t.fabricOut = s.fabricOut ∧ (t.core core).outq = [o, p])

/-- `cpy` and `xfer` (R352, R353, R355, R358, R362): a descriptor that is not 64-byte aligned or is malformed raises 0xA1, a count of 2^24 or more
0xA3; a descriptor in the near window that passes every check, without a guard and as a plain copy of rows kprog to N3 - 1 with
N3 above 0, joins the queue of its engine under the next id, which the destination takes; kprog is 0, and the engine looks for a command. -/
def Sys2Proof.Claim.CopyCommandsAreQueued : Prop :=
  ∀ (s : State) (k : KOps) (t : Near),
    let b := s.sl.xr k.rs1.toNat
    let n := s.sl.xr k.rs2.toNat
    let r := s.sl.kprog.toNat
    let d := s.nearBytes s.cur t 64
    let cl := clusterOf s.curCore
    let vf := s.curCtx.vf
    let issue := fun (i : Instr) (e : Nat) =>
      let transfer := decide (512 ≤ e)
      let id := commandId e vf false (s.engine e).seq
      let launch := s.sl.clause.launch
      let c : Cmd := { id := id, vf := vf, asid := s.asid s.cur, launch := launch, core := s.curCore, ctx := s.sl.clause.ctx, desc := d,
                       count := n.toNat, start := r, row := r }
      (b.toNat % 64 ≠ 0 → exec i s = .next (s.trap 0xA1 b)) ∧
      (b.toNat % 64 = 0 → Unfenced s → s.sl.fetched = [] → s.nearWeak = [] → s.access s.cur .read b 64 = .ok (.near t) → s.nearError t 64 = none →
        (malformed d transfer = true → exec i s = .next (s.trap 0xA1 b)) ∧
        (malformed d transfer = false → dGuard d = false →
          (2 ^ 24 ≤ n.toNat → exec i s = .next (s.trap 0xA3 n)) ∧
          (n.toNat < 2 ^ 24 → countMalformed d n.toNat = false → r < n.toNat → endpointOk transfer (dSrc d) (srcSpan d r (n.toNat - 1)) false = true →
            (transfer = true ∨ isNear (dSrc d) = true ∨ isNear (dDst d) = true) → endpointOk transfer (dDst d) (dstSpan d r (n.toNat - 1)) false = true →
            isNear (dArrive d) = false → dArrive d % 8 = 0 → (transfer = true ∨ streaming d n.toNat r = false) → (s.engine e).queue.length < queueLimit e →
            ∃ u, exec i s = .next u ∧ (u.engine e).queue = (s.engine e).queue ++ [c] ∧ (u.engine e).seq = (s.engine e).seq + 1 ∧
              (u.launch launch).commands = (s.launch launch).commands + 1 ∧ u.agenda = s.agenda ++ [.engineCommandStart e] ∧ u.mem = s.mem ∧
              u.slot s.cur = ({ s.sl with kprog := 0, kseq := s.sl.kseq + 1 }.setX k.rd.toNat id).complete ∧
              ∀ j, j ≠ s.cur → u.slot j = s.slot j)))
    Ready s [x1 k, x2 k] [toX k] → cl < 512 →
    issue (.cpy k) cl ∧ issue (.xfer k) (512 + cl % 16)

/-- `cpyq`, `cpyw` and `cpystop` (R358, R360, R363): an id that names no engine or another function raises 0xA4; the status of a queued or running
command is its state and row; one that has ended answers the status kept, or RETIRED; `cpyw` stands until then and releases the status. A
queued command that is stopped ends STOPPED at once; a running one is asked to stop, and the slot stands. -/
def Sys2Proof.Claim.CopyIdsAreAnswered : Prop :=
  ∀ (s : State) (k : KOps) (c : Cmd),
    let id := s.sl.xr k.rs1.toNat
    let ty := fld id 56 8
    let n := fld id 39 9
    let e := if ty = 0xC1 then n else 512 + n
    let names := (ty = 0xC1 ∨ (ty = 0xC2 ∧ n < 16)) ∧ fld id 32 7 = 0 ∧ fld id 48 7 = s.curCtx.vf
    let x := s.engine e
    let out := x.running = none ∧ (x.queue.find? fun c => c.id == id) = none
    let final := match x.kept.find? fun k => k.1 == id with | some k => k.2.1 | none => statusWord 6 0 0
    Ready s [x1 k] [toX k] →
    (¬ names → exec (.cpyq k) s = .next (s.trap 0xA4 id) ∧ exec (.cpyw k) s = .next (s.trap 0xA4 id) ∧ exec (.cpystop k) s = .next (s.trap 0xA4 id)) ∧
    (names → out → exec (.cpyq k) s = .next (s.finishX k.rd.toNat final) ∧ exec (.cpystop k) s = .next (s.finishX k.rd.toNat final) ∧
      ∃ t, exec (.cpyw k) s = .next t ∧ t.slot s.cur = (s.sl.setX k.rd.toNat final).complete ∧ (∀ q ∈ (t.engine e).kept, q.1 ≠ id) ∧
        (t.engine e).queue = x.queue ∧ t.mem = s.mem) ∧
    (names → x.running = some c → c.id = id →
      exec (.cpyq k) s = .next (s.finishX k.rd.toNat (statusWord 1 0 c.row)) ∧ exec (.cpyw k) s = .next s ∧
      (c.stop = 0 → ∃ t, exec (.cpystop k) s = .next t ∧ (t.engine e).running = some { c with stop := 1 } ∧ t.slots = s.slots)) ∧
    (names → x.running = none → (x.queue.find? fun c => c.id == id) = some c → (∀ q ∈ x.kept, q.1 ≠ id) →
      exec (.cpyq k) s = .next (s.finishX k.rd.toNat (statusWord 0 0 c.row)) ∧ exec (.cpyw k) s = .next s ∧
      ∃ t, exec (.cpystop k) s = .next t ∧ (t.engine e).queue = x.queue.erase c ∧ t.slot s.cur = (s.sl.setX k.rd.toNat (statusWord 3 0 c.row)).complete ∧
        t.mem = s.mem)

/-- Engines (R347, R359 to R361): an idle engine takes the first queued command of the next function in turn; a running command that has
done its rows, or is asked to stop before, ends in the state that R359 gives, its status is kept, and the engine looks for its next command; a row of bytes
between the near window and HBM of this package is copied whole; a chunk without arrival word and message lets the command go on. -/
def Sys2Proof.Claim.EnginesRunCommands : Prop :=
  ∀ (s : State) (e : Nat) (c : Cmd) (w : Nat × Word),
    let x := s.engine e
    let ends := fun (state : Nat) => ∃ t, exec (.engineRow e) s = .next t ∧ (t.engine e).running = none ∧
      (∃ n, (c.id, statusWord state 0 c.row, n) ∈ (t.engine e).kept) ∧ t.mem = s.mem ∧ t.slots = s.slots ∧
      t.agenda = s.agenda ++ [.launchCompletion c.launch, .engineCommandStart e]
    (x.running = none → s.engineHalted e = false → roundRobin x.lastVf (queuedVfs x.queue) = some c.vf → x.queue.find? (fun d => d.vf == c.vf) = some c →
      ∃ t, exec (.engineCommandStart e) s = .next t ∧ (t.engine e).running = some { c with running := true } ∧ (t.engine e).queue = x.queue.erase c ∧
        (t.engine e).lastVf = c.vf ∧ t.agenda = s.agenda ++ [.engineRow e] ∧ t.mem = s.mem ∧ t.slots = s.slots) ∧
    (x.running ≠ none → exec (.engineCommandStart e) s = .next s) ∧
    (x.running = some c → c.left = 0 → c.awaits = none → s.engineHalted e = false → bit c.id 55 = false →
      (c.count ≤ c.row → ends 2) ∧ (c.row < c.count → c.stop = 1 → ends 3) ∧ (c.row < c.count → c.stop = 2 → ends 5) ∧
      (∀ (u : State) (q : Pieces) (raws : List Nat),
        let acc := rowBytes c c.row raws
        let at_ := fun (l : Nat) => padAddr e (64 * l - padVa)
        c.stop = 0 → c.row + 1 < c.count → dChunk c.desc = 0 → e < 512 → s.readRuns e c {} (sourcePieces c.desc c.row) = (u, q, raws) →
        q.fault = none → q.held = false → q.missing = [] → s.partialBytes e c (rowBytes c c.row []) = [] →
        (∀ l, l ∈ linesOf acc → u.engineAccess e c (64 * l) 64 true = .near (at_ l)) →
        ∃ t, exec (.engineRow e) s = .next t ∧ t.slots = u.slots ∧ t.agenda = u.agenda ++ [.engineRow e] ∧
          (∃ d : Cmd, (t.engine e).running = some d ∧ d.row = c.row + 1 ∧ d.left = 0 ∧ d.id = c.id ∧ d.desc = c.desc ∧ d.count = c.count) ∧
          t.mem = (linesOf acc).foldl (fun mem l => memWriteMasked mem (at_ l) (u.lineData e c acc l).2 (u.lineData e c acc l).1) u.mem)) ∧
    (∀ v i3 j : Nat, dSfmt c.desc = 9 → dDfmt c.desc = 9 → dMx c.desc = false → dsc c.desc 55 1 = 0xE4 → dN c.desc 1 = 1 → dN c.desc 2 = 1 →
      j < dN c.desc 0 → 0 ≤ (dDst c.desc : Int) + i3 * dD c.desc 3 → (dDst c.desc : Int) + i3 * dD c.desc 3 + dN c.desc 0 < 2 ^ 48 →
      (rowBytes c i3 [v]).get (((dDst c.desc : Int) + i3 * dD c.desc 3).toNat + j) (0, 0) = (255, v / 2 ^ (8 * j) % 256)) ∧
    (x.running = some c → c.left = 0 → c.awaits = some w → c.acked = none → s.engineHalted e = false → dArrive c.desc = 0 → dAmsg c.desc = false →
      ∃ t, exec (.chunkArrival e) s = .next t ∧ (t.engine e).running = some { c with awaits := none } ∧ t.agenda = s.agenda ++ [.engineRow e] ∧
        t.mem = s.mem ∧ t.net = s.net)

/-- The law unit (R298, R302, R311, R314): a request for a word of a swept page, whose law is valid and runs on device time, conjugates the word to
the present: `twld` answers the value there; `twadd` and `twset` that cross no threshold write the sum or the new value as the law's range
takes it; LAST becomes the tick, and the tense and everything outside the word stay. An alarm that is due conjugates its word to exactly
its tick. A word of window time is not swept, any other is brought to the present; the page's next word follows in 2^18 ns. -/
def Sys2Proof.Claim.WordsAreTouchedAtTheirLaw : Prop :=
  ∀ (s : State) (m : Msg) (media entry unit : Nat) (l : Law) (x : Alarm) (ga : Word) (via : Option (Nat × Word)),
    let a := devOf (m.payload.getD 0 0)
    let v := word (s.devLoad a 8)
    let hi := word (s.devLoad (a + 8) 8)
    let now := word (s.ktick.toNat / 2 ^ l.shift)
    let Δ := (now.toNat + 2 ^ 32 - twLast hi) % 2 ^ 32
    let here := if twHeld hi = true ∨ Δ = 0 then v else wordInt (l.conjugate (l.value v) Δ).value
    let isLast := fun (t : State) (p : List Word) =>
      ∃ r : Msg, t.net.getLast? = some r ∧ r.kind = 0x35 ∧ r.dstCore = m.tag.setWidth 12 ∧ r.tag = m.tag ∧ r.seq = m.seq ∧ r.payload = p
    let leaves := fun (i : Instr) (b : Nat) (old : Word) (last : Nat) (v' : Word) (p : State → Prop) => ∃ t hi', exec i s = .next t ∧
      t.mem = (s.devWrite b (toBytes 8 v'.toNat ++ toBytes 8 (hi' : Word).toNat)).mem ∧ twLast hi' = last ∧ twTense hi' = twTense old ∧
      t.slots = s.slots ∧ p t
    let touch := fun (v' : Word) (p : List Word) => leaves (.tensedRequest m) a hi (fld now 0 32) v' fun t => isLast t p
    (m.srcChip = s.hub.chipId → s.holder m = none → s.parks m = false → m.rpay = false → (s.stack m.unit).crossings.length < 256 →
      s.findLine m (m.payload.getD 0 0) false (twOp m == 0) (twOp m != 0) = .at media entry → s.hub.tensed.find (pageOf a) = some via →
      s.load (media + 8) 8 = s.devLoad (a + 8) 8 → s.lawFor a hi = some l → twMalformed hi = false → s.poisoned media 16 = false → s.weak = [] →
      twAt m = false → twClock m = false → l.base = 0 → Δ < 2 ^ 31 →
      (twOp m = 0 → touch here [0, 0, here, 0]) ∧
      (twOp m = 1 → l.kind ≠ 4 → let y := (l.update (l.value here + (m.payload.getD 2 0).toInt)).1
        (l.crossed (l.value here) = true ∨ l.crossed y = false) → touch (wordInt y) [0, 0]) ∧
      (twOp m = 2 → l.kind ≠ 4 → let y := (l.update (l.value (m.payload.getD 2 0))).1
        (l.crossed (l.value here) = true ∨ l.crossed y = false) → touch (wordInt y) [0, 0])) ∧
    (firstAlarm ((s.stack unit).alarms.filter fun y => s.alarmDue y) = some x →
      let old := word (s.devLoad (x.addr + 8) 8)
      (s.stack unit).crossings.length < 256 → s.lawFor x.addr old = some l → s.media x.addr = some media → twMalformed old = false → s.poisoned media 16 = false →
      (x.tick.toNat + 2 ^ 32 - twLast old) % 2 ^ 32 < 2 ^ 31 → ∃ v', leaves (.alarm unit) x.addr old (fld x.tick 0 32) v' fun t => t.net = s.net) ∧
    (firstAlarm ((s.stack unit).alarms.filter fun y => s.alarmDue y) = none → exec (.alarm unit) s = .next s) ∧
    (let b := devOf ga
     let old := word (s.devLoad (b + 8) 8)
     let next := word (ga.toNat / 65536 * 65536 + (ga.toNat % 65536 + 16) % 65536)
     s.hub.tensed.find (pageOf b) = some none → s.stillTensed (pageOf b) none = true → ga ≠ findPages → s.ktick.toNat < s.hub.passStart + 2 ^ 30 →
     (twWin old = true → ∃ t, exec (.sweepTouch ga) s = .next t ∧ t.mem = s.mem ∧ t.timers = s.timers ++ [(s.ktick.toNat + 2 ^ 18, .sweepTouch next)]) ∧
     (twWin old = false → (s.stack (s.homeUnit b)).crossings.length < 256 → s.lawFor b old = some l → l.base = 0 → s.media b = some media →
       twMalformed old = false → s.poisoned media 16 = false → (now.toNat + 2 ^ 32 - twLast old) % 2 ^ 32 < 2 ^ 31 →
       ∃ v', leaves (.sweepTouch ga) b old (fld now 0 32) v' fun t => (s.ktick.toNat + 2 ^ 18, Instr.sweepTouch next) ∈ t.timers))

/-- Crossing messages and budgets (R309, R310, R381, R382): the head of a unit's queue leaves for the context of its function at the owner core, its
word's PENDING bit is cleared, and the rest of the queue moves up. A core's charge of a context leaves as a `twadd` of minus the time in
2^32nds to the budget word, and is cleared. A crossing of a function's budget word by a law of direction down pre-empts the function, one of
direction up restores it, and one of the direction that holds already changes nothing. -/
def Sys2Proof.Claim.CrossingsAndBudgets : Prop :=
  ∀ (s : State) (m h : Msg) (rest : List Msg) (unit core c : Nat) (l : Law),
    let a := devOf (h.payload.getD 5 0)
    let x := s.ctx core c
    let bud := (s.vf x.vf).bud
    let vf := m.srcVf.toNat
    let held := bit (s.vf vf).bud 62
    let w := s.devWrite (a + 8) (toBytes 8 (withFld (word (s.devLoad (a + 8) 8)) 42 1 0).toNat)
    (m.kind = 0 → m.unit = unit → (s.stack unit).crossings = h :: rest → h.rpay = false → dpitKernel (w.dpit (pageOf a)) = false →
      s.ctxOfVf (s.served h.dstCore.toNat) h.srcVf.toNat = some c →
      ∃ t q, exec (.crossing m) s = .next t ∧ t.net = s.net ++ [q] ∧ q.payload = h.payload ∧ q.chan = h.chan ∧ q.kind = h.kind ∧ q.dstCore = h.dstCore ∧
        q.ctx = BitVec.ofNat 2 c ∧ (t.stack unit).crossings = rest ∧ t.slots = s.slots ∧
        t.mem = w.mem) ∧
    (x.charge = 0 → exec (.budgetChargeReport core c) s = .next s) ∧
    (x.charge ≠ 0 → bit bud 63 = true → ∃ t q, exec (.budgetChargeReport core c) s = .next t ∧ t.net = s.net ++ [q] ∧ q.kind = 0x34 ∧
      q.srcVf = BitVec.ofNat 7 x.vf ∧ q.payload = [word (s.hub.chipId.toNat * 2 ^ 44 + fld bud 16 40 * 16), 1, wordInt (-((x.charge : Int) * 2 ^ 32)), 0] ∧
      (t.ctx core c).charge = 0 ∧ t.mem = s.mem ∧ t.slots = s.slots) ∧
    (∀ t, s.hub.klawTable = some t → lawAt t (fld (m.payload.getD 2 0) 8 8) = some l →
      (l.down = held → exec (.budgetCrossing m) s = .next s) ∧
      (l.down ≠ held → ∃ u, exec (.budgetCrossing m) s = .next u ∧ bit (u.vf vf).bud 62 = l.down ∧
        (l.down = true → ∀ y, y ∈ s.contextsOf vf → (u.ctx y.1 y.2).preempted = true) ∧
        (l.down = false → ∀ y, y ∈ s.contextsOf vf → (u.ctx y.1 y.2).preempted = false)))

/-- Requests at the hub (R316, R317, R372, R394): `lawget` answers the word of the installed table, `lawset` replaces it, and both answer 5 where no
table is installed; `tbadv` adds to the counter and answers its new value; `lstat` answers the status word of a launch, 8·2^60 for a
reserved name and 7·2^60 for one that is gone; `lkill` of a QUEUED launch ends it KILLED; a `launch` on a closed queue answers 0xB3, and one
with address 0 a new name. -/
def Obligations.HubAnswersRequests : Prop :=
  ∀ (s : State) (m : Msg) (i : Nat) (l : List Word) (u : State) (name : BitVec 128),
    let op := (m.payload.getD 0 0).toNat
    let p1 := m.payload.getD 1 0
    let p2 := m.payload.getD 2 0
    let v := m.srcVf.toNat
    let at_ := fld p1 0 8 * 4 + fld p1 8 2
    let n : BitVec 128 := p2 ++ p1
    let tells := fun (p : List Word) (f : State → Prop) => ∃ (t : State) (r : Msg), exec (.hubRequest m) s = .next t ∧ r ∈ t.net ∧ r.kind = 0x37 ∧
      r.dstCore = m.tag.setWidth 12 ∧ r.tag = m.tag ∧ r.seq = m.seq ∧ r.payload = p ∧ t.slots = s.slots ∧ f t
    let same := fun (t : State) => t.mem = s.mem ∧ t.hub = s.hub
    m.kind = 0x36 → m.srcChip = s.hub.chipId → s.parks m = false →
    (op = 1 → (s.vf v).law = some l → tells [0, 0, l.getD at_ 0, 0] same) ∧
    (op = 1 → (s.vf v).law = none → tells [5, 0] same) ∧
    (op = 0 → (s.vf v).law = none → tells [5, 0] same) ∧
    (op = 0 → (s.vf v).law = some l → tells [0, 0] fun t => (t.vf v).law = some (l.set at_ p2)) ∧
    (op = 2 → s.hub.tensed = [] → let new := (s.vf v).bases.get p1.toNat 0 + p2
      tells [0, 0, new, 0] fun t => (t.vf v).bases.get p1.toNat 0 = new ∧ t.mem = s.mem) ∧
    (op = 4 → s.launchNamed n = some i → tells [0, 0, s.launchStatus i, 0] same) ∧
    (op = 4 → s.launchNamed n = none → tells [0, 0, word ((if (s.reservedEntry n).isSome = true then 8 else 7) * 2 ^ 60), 0] same) ∧
    (op = 5 → s.launchNamed n = some i → (s.launch i).state = 0 → (s.launch i).waiting = [] → (s.launch i).est = none →
      tells [0, 0, Launch.status { s.launch i with state := 4, cause := 0, estate := 0, live := 0 }, 0] fun t => (t.launch i).state = 4) ∧
    (op = 3 → s.queueOpen p1.toNat v = false → tells [0xB3, 0, p1, 0] same) ∧
    (op = 3 → s.queueOpen p1.toNat v = true → m.payload.getD 3 0 = 0 → s.newLaunchName v 0 = some (u, name) →
      tells [0, 0, nameLow name, nameHigh name] fun t => t.mem = u.mem)

/-- The name unit (R331, R333, R338 to R342): a name that is not found answers its status, one that the requester may not use 10; a resolution answers
the binding and attribute word and notes the holder; `nmnew` inserts the entry, answers 11 where no slot is empty, or 12 where it carries no value; a rebind whose expected binding differs
answers 1; any other rebind or kill marks the entry MOVING, tells every holder and is answered by its commit. While a name is being
changed, its requests wait. -/
def Sys2Proof.Claim.NameUnitPerformsRequests : Prop :=
  ∀ (s : State) (m : Msg) (a : Nat),
    let n := reqName m
    let unit := s.nameUnit n
    let op := reqOp m
    let attr := s.entryAttr a
    let b := s.entryBinding a
    let found := s.lookup n = .inr a
    let cls := holderClusters s.hub.disabled (attrHolders attr) 0 32
    let tells := fun (p : List Word) (f : State → Prop) => ∃ (t : State) (r : Msg), exec (.nameRequest m) s = .next t ∧ t.net = s.net ++ [r] ∧ r.kind = 0x39 ∧
      r.dstCore = m.tag.setWidth 12 ∧ r.tag = m.tag ∧ r.seq = m.seq ∧ r.payload = p ∧ t.slots = s.slots ∧ f t
    let same := fun (t : State) => t.mem = s.mem
    m.srcChip = s.hub.chipId → s.parks m = false → reqPath m = 0 →
    (op = 6 → tells [word (s.statWord n).1, 0, (s.statWord n).2, 0, (s.statWord n).2, 0] same) ∧
    (op ≠ 6 → ((s.stack unit).opOn n).isSome = true → ∃ t, exec (.nameRequest m) s = .next t ∧ t.net = s.net ∧ t.mem = s.mem ∧
      ∀ o, o ∈ (t.stack unit).nameOps → o.name = n → o.held.getLast? = some m) ∧
    ((s.stack unit).opOn n = none →
      (op = 1 → reqArg m 2 = 1 → tells [12, 0, 0, 0, 0, 0] same) ∧
      (op = 1 → reqArg m 2 ≠ 1 → s.insertName n (reqArg m 0) (reqArg m 1) = none → tells [word (s.noSlot n), 0, 0, 0, 0, 0] same) ∧
      (op = 1 → reqArg m 2 ≠ 1 → ∀ u, s.insertName n (reqArg m 0) (reqArg m 1) = some u → tells [0, 0, nameLow n, nameHigh n, reqArg m 1, 0] fun t => t.mem = u.mem) ∧
      (op ≠ 1 → op ≠ 6 → ∀ st, s.lookup n = .inl st → tells [word st, 0, 0, 0, 0, 0] same) ∧
      (found → op = 0 → s.reqAllowed m attr = false → tells [10, 0, 0, 0, 0, 0] same) ∧
      (found → op = 0 → s.reqAllowed m attr = true → tells [0, 0, b, 0, attr, 0] fun t =>
        t.mem = (s.setEntryAttr a (attr ||| word (2 ^ (32 + reqCluster m / 16)))).mem) ∧
      (found → op = 2 → attrClass attr ≠ 4 → s.reqAllowed m attr = true → b ≠ reqArg m 0 → tells [0, 0, 1, 0, 0, 0] same) ∧
      (found → (op = 3 ∨ (op = 2 ∧ b = reqArg m 0 ∧ attrExtent attr ≤ (reqArg m 3).toNat)) → attrClass attr ≠ 4 → s.reqAllowed m attr = true →
        ∃ t, exec (.nameRequest m) s = .next t ∧ t.mem = (s.setEntryAttr a (withFld attr 30 2 2)).mem ∧ t.slots = s.slots ∧
          (t.stack unit).nameOps = (s.stack unit).nameOps ++ [{ msg := m, name := n, entry := a, owes := cls, number := (s.stack unit).nameSeq }] ∧ (t.stack unit).nameSeq = (s.stack unit).nameSeq + 1 ∧
          (∀ cl, cl ∈ cls → ∃ r : Msg, r ∈ t.net ∧ r.kind = 0x3A ∧ r.dstCore = BitVec.ofNat 12 (cl * 8) ∧
            r.payload = [nameLow n, nameHigh n, word (s.stack unit).nameSeq, 0]) ∧
          (∀ r ∈ t.net, r ∈ s.net ∨ r.kind = 0x3A) ∧ Instr.nameOperationCommit unit n ∈ t.agenda))

/-- Shoot-downs and commits (R325, R332, R333): a cluster told of a name that it does not hold, or through whose entry no access is out,
drops its entry and acknowledges at once, and otherwise when the last access is answered; a change commits when every holder has
acknowledged and no forwarded access of the name is out: a kill frees the entry, a rebind binds the new address, and the requester is
answered. A reservation writes the next block once the counter has reached the end of the one before. -/
def Sys2Proof.Claim.ShootDownsAndCommits : Prop :=
  ∀ (s : State) (m : Msg) (n : BitVec 128) (cl unit : Nat) (o : NameOp),
    let out := fun (cl : Nat) (n : BitVec 128) => (s.cluster cl).names.any (fun e => e.name == n && e.inFlight != 0) = true
    let deadOut := fun (cl : Nat) (n : BitVec 128) => (s.cluster cl).names.any (fun e => e.name == n && e.dead && e.inFlight != 0) = true
    let drops := fun (i : Instr) (cl unit number : Nat) (n : BitVec 128) => ∃ (t : State) (r : Msg), exec i s = .next t ∧
      (∀ e ∈ (t.cluster cl).names, e.name ≠ n) ∧ (∀ e ∈ (s.cluster cl).names, e.name ≠ n → e ∈ (t.cluster cl).names) ∧
      t.net = s.net ++ [r] ∧ r.kind = 0x3B ∧ r.dstChip = s.hub.chipId ∧ r.unit = unit ∧ r.tag = BitVec.ofNat 32 cl ∧
      r.payload = [nameLow n, nameHigh n, word number, 0] ∧ t.agenda = s.agenda ∧ t.mem = s.mem ∧ t.slots = s.slots
    let told := m.payload.getD 1 0 ++ m.payload.getD 0 0
    let at_ := clusterOf m.dstCore.toNat
    let attr := s.entryAttr o.entry
    let commits := fun (mem : List Host.Cell) => ∃ (t : State) (r : Msg), exec (.nameOperationCommit unit n) s = .next t ∧ t.mem = mem ∧
      t.net = s.net ++ [r] ∧ r.kind = 0x39 ∧ r.dstCore = o.msg.tag.setWidth 12 ∧ r.seq = o.msg.seq ∧ r.payload = [0, 0, 0, 0, 0, 0] ∧
      (t.stack unit).nameOps = (s.stack unit).nameOps.filter fun x => x.name != n
    (¬ out at_ told → drops (.shootDown m) at_ m.unit (m.payload.getD 2 0).toNat told) ∧
    (out at_ told → ∃ t, exec (.shootDown m) s = .next t ∧ t.agenda = s.agenda ∧ t.net = s.net ∧ t.mem = s.mem ∧
      ∀ e ∈ (t.cluster at_).names, e.name = told → e.dead = true ∧ e.op = (m.payload.getD 2 0).toNat) ∧
    (∀ d, ¬ deadOut cl n → (s.cluster cl).names.find? (fun e => e.name == n && e.dead) = some d → drops (.shootDownDrain cl unit n) cl unit d.op n) ∧
    ((deadOut cl n ∨ (s.cluster cl).names.find? (fun e => e.name == n && e.dead) = none) → exec (.shootDownDrain cl unit n) s = .next s) ∧
    ((s.stack unit).opOn n = some o → (o.owes ≠ [] ∨ (s.stack unit).forwarded.any (fun f => f.1 == n) = true) →
      exec (.nameOperationCommit unit n) s = .next s) ∧
    ((s.stack unit).opOn n = some o → o.owes = [] → (s.stack unit).forwarded.any (fun f => f.1 == n) = false → o.held = [] → reqPath o.msg = 0 →
      o.msg.srcChip = s.hub.chipId →
      (reqOp o.msg = 3 → commits (s.setEntryAttr o.entry (withFld attr 30 2 0)).mem) ∧
      (reqOp o.msg = 2 → commits ((s.devWrite (o.entry + 16) (toBytes 8 (reqArg o.msg 1).toNat)).setEntryAttr o.entry
        (word (fld attr 0 24 + fld (reqArg o.msg 2) 24 6 * 2 ^ 24 + 2 ^ 30))).mem)) ∧
    (s.hub.issued < s.hub.reservedEnd → exec .nameBlockReservation s = .next s) ∧
    (∀ i j, s.hub.slots = [some i, some j] → i < j → j + 1 < 2 ^ 48 → s.hub.issued = (j + 1) * 2 ^ 32 →
      exec .nameBlockReservation s = .next { s with hub := { s.hub with slots := [some (j + 1), some j] } })

/-- The kernel's name registers (R423, R455): NAMETAB takes its first valid write and no later one; NAMECMD does nothing while BUSY is set, answers 15
for a malformed block and 9 for a serial that no package has; NEW without a table answers 11, else it inserts the next name of the package
and stores it into the block; a rebind and a kill go to the name's home. -/
def Sys2Proof.Claim.KernelNameCommands : Prop :=
  ∀ (s u w : State) (v : Word) (n : BitVec 128),
    let l := fld v 0 5
    let valid := 16 ≤ l ∧ l ≤ 26 ∧ fld v 44 20 = 0 ∧ fld v 5 7 = 0 ∧ (fld v 12 32 * 4096) % 2 ^ (l + 7) = 0
    let b := s.nameBlock
    let c := word (dsc b 32 8)
    let binding := word (dsc b 16 8)
    let busy := bit s.hub.namestat 63 = true
    let begun := fun (op : Nat) => { s with hub := { s.hub with namecmd := word (op * 2 ^ 60) } }
    let result := fun (i : Instr) (op r : Nat) => exec i s = .next { s with hub := { s.hub with namecmd := word (op * 2 ^ 60), namestat := word (r * 2 ^ 55) } }
    let named : BitVec 128 := BitVec.ofNat 128 (dsc b 0 16)
    let goes := fun (i : Instr) (op : Nat) (args : List Word) => ∃ (t : State) (q : Msg), exec i s = .next t ∧ t.net = s.net ++ [q] ∧ q.kind = 0x38 ∧
      q.unit = s.nameUnit named ∧ q.payload = namePayload op 0 0 named args ∧ bit t.hub.namestat 63 = true ∧
      t.hub.namecmd = word (op * 2 ^ 60) ∧ t.mem = s.mem
    (s.nameTable = none → valid → exec (.nametabWrite v) s = .next { s with hub := { s.hub with nametab := v } }) ∧
    ((s.nameTable ≠ none ∨ ¬ valid) → exec (.nametabWrite v) s = .next s) ∧
    (busy → exec .namecmdNew s = .next s ∧ exec .namecmdCas s = .next s ∧ exec .namecmdKill s = .next s) ∧
    (¬ busy → blockOk b = false → result .namecmdNew 1 15 ∧ result .namecmdCas 2 15 ∧ result .namecmdKill 3 15) ∧
    (¬ busy → blockOk b = true →
      (creationOk c = true → binding.toNat % 64 = 0 → s.nameTable = none → result .namecmdNew 1 11) ∧
      (creationOk c = true → binding.toNat % 64 = 0 → s.nameTable ≠ none → (begun 1).hubName = some (u, n) →
        u.insertName n binding (newAttr c (blockPage b) (dsc b 40 1 % 128)) = some w →
        ∃ t, exec .namecmdNew s = .next t ∧ t.mem = (w.devStore (devOf s.hub.nameblk) (toBytes 16 n.toNat)).mem ∧ t.hub.namestat = 0 ∧ t.hub.namecmd = word (2 ^ 60) ∧ t.slots = s.slots) ∧
      (s.chipOfSerial (nameSerial named) = none → result .namecmdKill 3 9 ∧ (binding.toNat % 64 = 0 → result .namecmdCas 2 9)) ∧
      (s.chipOfSerial (nameSerial named) = some s.hub.chipId →
        goes .namecmdKill 3 [0, 0, 0, 0, 2, 0] ∧
        (binding.toNat % 64 = 0 → goes .namecmdCas 2 [word (dsc b 24 8), binding, word (blockPage b), -1, 2, 0])))

/-- Translation caches and lost packages (R336, R411, R412, R427): an invalidation at a core drops every entry that it selects and no other; a table
walk leaves the leaf of its address in the core's cache; a package that goes down is known to be down, and a request that is out there is
answered with status 3; one that returns can be reached again. -/
def Sys2Proof.Claim.TranslationsAndLostPackages : Prop :=
  ∀ (s : State) (core asid : Nat) (m : Msg) (va : Word) (chip : BitVec 20) (reason : BitVec 2),
    let a := m.payload.getD 0 0
    let c := m.payload.getD 1 0
    let selected := fun (e : Nat × Nat × Nat × Word) =>
      (bit c 17 = true ∨ e.1 = fld c 0 16) ∧ (bit c 16 = true ∨ e.2.2.1 = a.toNat / 2 ^ pageBits e.2.1)
    (∃ t, exec (.tlbInvalidation core m) s = .next t ∧ (∀ e, e ∈ (t.core core).tlb ↔ (e ∈ (s.core core).tlb ∧ ¬ selected e)) ∧
      (∀ j, j ≠ core → t.core j = s.core j) ∧ t.mem = s.mem) ∧
    (∀ leaf ps, leaf < 2 ^ 64 → tlbFind (s.core core).tlb asid va.toNat = none → s.leafFor core asid va.toNat = .ok leaf ps →
      ∃ t, exec (.tableWalk core asid va) s = .next t ∧ tlbFind (t.core core).tlb asid va.toNat = some (leaf, ps) ∧
        t.mem = s.mem ∧ t.slots = s.slots ∧ ∀ j, j ≠ core → t.core j = s.core j) ∧
    (chip = s.hub.chipId → exec (.peerDownEvent chip reason) s = .next s) ∧
    (chip ≠ s.hub.chipId → ∃ t, exec (.peerDownEvent chip reason) s = .next t ∧ chip.toNat ∈ t.hub.down ∧
      ∀ k f, f ∈ (s.slot k).far → f.chip = chip → coreOf k < Config.firstMgmtCore → (f.kind = 0x20 ∨ f.kind = 0x21 ∨ f.kind = 0x30) →
        ∃ r : Msg, r ∈ t.net ∧ r.tag = regTag f.gen false 0 (k % 4) (coreOf k) ∧ r.seq = f.seq ∧ r.payload = [3, 0]) ∧
    exec (.peerReturn chip) s = .next { s with hub := { s.hub with down := s.hub.down.filter (fun c => c != chip.toNat), lostPorts := [] } }

/-- `launch`, `lstat` and `lkill` (R392 to R394) ask the hub, and `eitem`, `econ` and `estat` (R392, R395 to R397) the estimator context of the clause's
launch: one request leaves, and all but `econ` stand until its answer. An address that is no multiple of 8 raises 0xB8, a queue of another
function 0xB3, a name of another class 0xB4, a launch without an estimator 0xB6, and a word above 7 0xBA. -/
def Sys2Proof.Claim.LaunchInstructionsAsk : Prop :=
  ∀ (s : State) (k : KOps) (ws : List Word) (e : CachedName) (est : Nat),
    let p := s.sl.xr k.rs1.toNat
    let q := s.sl.xr k.rs2.toNat
    let rd := k.rd.toNat
    let c := s.queueCfg q.toNat
    let mine := q.toNat < 1024 ∧ bit c 63 = true ∧ fld c 56 7 = s.curCtx.vf
    let n := s.sl.name k.rs1.toNat
    let s' := s.modCluster (clusterOf s.curCore) fun c => { c with names := cacheTouch c.names n }
    let own := s.hub.chipId
    let asks := fun (u : State) (va : Word) (p : List Word) => (u.sendFar s.cur 0x36 17 own va 0 .blocking (p.length / 2) p).block (.hub (p.getD 0 0).toNat rd) 1
    let toEst := fun (use : FarUse) (p : List Word) => s.sendFar s.cur 0x3F (32 + est) own 0 0 use (p.length / 2) p
    let run := (s.launch s.sl.clause.launch).est
    Unfenced s → s.sl.farRoom 1 = true →
    (Ready s [x1 k, x2 k] [toX k 2] [(rd, 2)] →
      (p.toNat % 8 ≠ 0 → exec (.launch k) s = .next (s.trap 0xB8 p)) ∧
      (p.toNat % 8 = 0 → ¬ mine → exec (.launch k) s = .next (s.trap 0xB3 q)) ∧
      (mine → s.released s.cur 2 = true →
        (p = 0 → exec (.launch k) s = .next (asks s p [3, q, s.curCtx.kasid, p])) ∧
        (p ≠ 0 → p.toNat % 8 = 0 → s.packetOf p = .ok ws → ws.length % 2 = 0 →
          exec (.launch k) s = .next (asks ((s.touched p).correctedAt p 128) p ([3, q, s.curCtx.kasid, p] ++ ws))))) ∧
    (Ready s [namePair k] [toX k] [(k.rs1.toNat, 2)] → s.issuer n = .ok own → cacheFind (s.cluster (clusterOf s.curCore)).names n = some e →
      (hasRight e.attr 0 true s.curCtx.vf = true →
        (attrClass e.attr ≠ 4 → exec (.lstat k) s = .next (s.trap 0xB4 (nameLow n))) ∧
        (attrClass e.attr = 4 → exec (.lstat k) s = .next (asks s' (nameLow n) [4, nameLow n, nameHigh n, 0]))) ∧
      (hasRight e.attr 3 true s.curCtx.vf = true → attrClass e.attr = 4 →
        exec (.lkill k) s = .next (asks s' (nameLow n) [5, nameLow n, nameHigh n, 0]))) ∧
    (Ready s [] [toX k 2] [(rd, 2)] →
      (run = none → exec (.eitem k) s = .next (s.trap 0xB6 0)) ∧
      (run = some est → (s.est est).pull = false → exec (.eitem k) s = .next (s.trap 0xB6 0)) ∧
      (run = some est → (s.est est).pull = true → exec (.eitem k) s = .next ((toEst .blocking [0, 0]).block (.estimator 0 rd) 1))) ∧
    (Ready s [x1 k, x2 k] [] → (run = none → exec (.econ k) s = .next (s.trap 0xB6 0)) ∧
      (run = some est → exec (.econ k) s = .next (toEst .posted [1, p, q, 0]).complete)) ∧
    (Ready s [x1 k] [toX k] → run = some est →
      (8 ≤ p.toNat → exec (.estat k) s = .next (s.trap 0xBA p)) ∧
      (p.toNat < 8 → exec (.estat k) s = .next ((toEst .blocking [2, p]).block (.estimator 2 rd) 1)))

/-- The system instructions (R408 to R414, R425): without the privilege they raise 0x06 with their word. `sresume` sends a frozen slot on at `kepc` or
at the address given, with everything kept but `kprog` where the address is another; `skill` ends its clause; both answer 2 for a slot they
may not act on and 1 for one that is not frozen by that trap. `sqkill` ends the launches of a queue and answers their number. `tlbinv`
drops what it selects at every core and answers 0. `dpitset` writes an entry, or begins a move and stands; 2 and 1 say why it refuses. -/
def Sys2Proof.Claim.SystemInstructions : Prop :=
  ∀ (s : State) (k : KOps) (n : Nat),
    let w := s.sl.xr k.rs1.toNat
    let y := s.sl.xr k.rs2.toNat
    let rd := k.rd.toNat
    let t := wordSlot w
    let o := s.slot t
    let a := if k.rs2 = 0 then o.kepc else y
    let answers := fun (i : Instr) (v : Word) => exec i s = .next (s.finishX rd v)
    let low := fun (i : Instr) => exec i s = .next (s.trap 0x06 ((wordOf i).setWidth 64))
    let may := s.mayActOn w = true
    let frozen := o.frozenBy w = true
    let selected := fun (e : Nat × Nat × Nat × Word) =>
      (bit y 17 = true ∨ e.1 = fld y 0 16) ∧ (bit y 16 = true ∨ e.2.2.1 = w.toNat / 2 ^ pageBits e.2.1)
    let old := s.dpit w.toNat
    s.sl.phase = .running → s.sl.blocked = false → s.sl.pp = false →
    (s.sl.priv < 1 → low (.sresume k) ∧ low (.skill k)) ∧
    (s.sl.priv < 3 → low (.sqkill k) ∧ low (.tlbinv k) ∧ low (.dpitset k)) ∧
    (Ready s (if k.rs2 = 0 then [x1 k] else [x1 k, x2 k]) [] [] false 1 →
      (¬ may → answers (.sresume k) 2) ∧ (may → ¬ frozen → answers (.sresume k) 1) ∧
      (may → frozen → o.clause.holds a = false → answers (.sresume k) 3) ∧
      (may → frozen → o.clause.holds a = true → ∃ u, exec (.sresume k) s = .next u ∧ (u.slot t).phase = .running ∧ (u.slot t).pc = a ∧
        (a = o.kepc → (u.slot t).kprog = o.kprog) ∧ (a ≠ o.kepc → (u.slot t).kprog = 0) ∧
        (∀ r, (u.slot t).xr r = o.xr r ∧ (u.slot t).vr r = o.vr r) ∧ (u.slot t).kstat = o.kstat ∧ u.slot s.cur = (s.sl.setX rd 0).complete ∧
        (∀ j, j ≠ t → j ≠ s.cur → u.slot j = s.slot j) ∧ u.mem = s.mem)) ∧
    (Ready s [x1 k] [] [] false 1 →
      (¬ may → answers (.skill k) 2) ∧ (may → ¬ frozen → answers (.skill k) 1) ∧
      (may → frozen → ∃ u, exec (.skill k) s = .next u ∧ (u.slot t).phase ≠ .frozen ∧ u.slot s.cur = (s.sl.setX rd 0).complete ∧
        (o.barrierOut = false → o.clause.regs = [] → (u.slot t).phase = .free))) ∧
    (Ready s [x1 k] [] [] false 3 →
      (1024 ≤ w.toNat → answers (.sqkill k) (-1)) ∧ (w.toNat < 1024 → s.unended w.toNat = [] → answers (.sqkill k) 0) ∧
      (w.toNat < 1024 → s.unended w.toNat = [n] → (s.launch n).state = 0 → (s.launch n).waiting = [] →
        ∃ u, exec (.sqkill k) s = .next u ∧ u.slot s.cur = (s.sl.setX rd 1).complete ∧ (u.launch n).state = 4)) ∧
    (Ready s [x1 k, x2 k] [] [] false 3 →
      ((fld y 19 45 ≠ 0 ∨ (bit y 16 = false ∧ fld w 48 16 ≠ 0)) → answers (.tlbinv k) 1) ∧
      (fld y 19 45 = 0 → (bit y 16 = true ∨ fld w 48 16 = 0) → s.sl.fetched = [] → s.through y w = [] →
        ∃ u, exec (.tlbinv k) s = .next u ∧ (∀ core e, e ∈ (u.core core).tlb ↔ (e ∈ (s.core core).tlb ∧ ¬ selected e)) ∧
          u.slot s.cur = ({ s.sl with line := (u.slot s.cur).line, fetchDropped := (u.slot s.cur).fetchDropped }.setX rd 0).complete ∧ u.mem = s.mem) ∧
      (entryOk w y.toNat = false → answers (.dpitset k) 2) ∧
      (entryOk w y.toNat = true → dpitMoving old = true → exec (.dpitset k) s = .next s) ∧
      (entryOk w y.toNat = true → dpitMoving old = false →
        let both := dpitValid old = true ∧ dpitValid y.toNat = true
        (both → dpitPlacement old ≠ dpitPlacement y.toNat → answers (.dpitset k) 1) ∧
        ((¬ both ∨ (dpitPlacement old = dpitPlacement y.toNat ∧ sameMedia old y.toNat = true)) →
          exec (.dpitset k) s = .next ((s.setDpit w.toNat y.toNat).finishX rd 0)) ∧
        (both → dpitPlacement old = dpitPlacement y.toNat → sameMedia old y.toNat = false →
          ∃ u v, exec (.dpitset k) s = .next u ∧ u.mem = (s.setDpit w.toNat (withBits old 62 1 1)).mem ∧ u.hub.moves.find w.toNat = some v ∧
            v.entry = withBits y.toNat 62 1 0 ∧ v.waiter = some s.cur ∧ (u.slot s.cur).wait = .blocked (.system 4 rd) 1 [] ∧ (u.slot s.cur).pc = s.sl.pc)))

/-- `trc` and `dmark` (R435 to R437): where the cluster traces the function, a record of the kind with the device time and the words given joins the
trace buffer while it has room; otherwise nothing is kept. A marked value halts the cluster where the action is 1, raises 0xBD where it is 2,
and any other only completes. -/
def Sys2Proof.Claim.TraceInstructions : Prop :=
  ∀ (s : State) (k : KOps),
    let w := s.sl.xr k.rs1.toNat
    let n := groupSize k.w
    let cl := clusterOf s.curCore
    let d := s.debug cl
    let ws := s.sl.xs k.rs2.toNat n
    let keeps := fun (i : Instr) (kind : Nat) (data : List Word) => ∃ u h, exec i s = .next u ∧ (u.debug cl).trace = d.trace ++ [h :: s.ktick :: padUnits data] ∧
      fld h 0 8 = kind ∧ u.slot s.cur = s.sl.complete ∧ u.mem = s.mem
    (Ready s [x1 k, x2 k n] [] [(k.rs2.toNat, n)] →
      (d.traces s.curCtx.vf = false → exec (.trc k) s = .next s.complete) ∧
      (d.traces s.curCtx.vf = true → traceUnits d.trace + (2 + (padUnits ws).length) / 2 ≤ 512 → keeps (.trc k) 1 ws)) ∧
    (Ready s [x1 k] [] →
      (d.traces s.curCtx.vf = false → d.marked w = false → exec (.dmark k) s = .next s.complete) ∧
      (d.traces s.curCtx.vf = true → d.marked w = false → traceUnits d.trace + 2 ≤ 512 → keeps (.dmark k) 2 [w]) ∧
      (d.traces s.curCtx.vf = false → d.marked w = true → fld d.dmCtl 61 2 = 2 → exec (.dmark k) s = .next (s.trap 0xBD w)) ∧
      (d.traces s.curCtx.vf = false → d.marked w = true → fld d.dmCtl 61 2 = 1 → exec (.dmark k) s = .next (s.complete.haltCluster cl 3 s.curCore s.cur)))

/-- Estimators (R384 to R391, R395 to R397): a contribution that the run refuses leaves it as it is and is answered with 4 after a stop or a kill, 6
where the position was not handed out, and 5 where it has come already; one that comes early waits in the reorder window; the one that is
due is accepted by R387. `eitem` takes the next position with its item, or -1 where there is none left; `estat` reads the live state. A push
run sends the next position to the core that its key picks. A stop removes the item messages of its launch. -/
def Obligations.EstimatorsAcceptInOrder : Prop :=
  ∀ (s : State) (m : Msg) (e : Nat),
    let x := s.est e
    let op := m.payload.getD 0 0
    let n := (m.payload.getD 1 0).toNat
    let v := m.payload.getD 2 0
    let l := s.launch x.launch
    let here := m.unit = 32 + e ∧ m.srcChip = s.hub.chipId ∧ s.parks m = false
    let tells := fun (t : State) (p : List Word) => ∃ r : Msg, r ∈ t.net ∧ r.kind = 0x33 ∧ r.dstCore = m.tag.setWidth 12 ∧ r.tag = m.tag ∧ r.seq = m.seq ∧
      r.payload = p
    let refused := fun (st : Nat) => ∃ t, exec (.estimatorRequest m) s = .next t ∧ t.hub = s.hub ∧ tells t [word st, 0]
    let ended := x.state = 2 ∨ x.state = 4
    let handed := x.state = 1 ∧ x.issued < x.items ∧ x.issued < x.accepted + 4096
    (here → op = 1 → ended → x.accepted ≤ n → refused 4) ∧
    (here → op = 1 → (¬ ended ∨ n < x.accepted) → x.issued ≤ n → refused 6) ∧
    (here → op = 1 → (¬ ended ∨ n < x.accepted) → n < x.issued → (n < x.accepted ∨ (x.window.find n).isSome = true) → refused 5) ∧
    (here → op = 1 → x.state = 1 → x.accepted < n → n < x.issued → x.window.find n = none → x.window.find x.accepted = none → x.waiting = [] →
      ∃ t, exec (.estimatorRequest m) s = .next t ∧ t.est e = { x with window := x.window.set n v } ∧ tells t [0, 0]) ∧
    (here → op = 1 → x.state = 1 → n = x.accepted → n < x.issued → x.window = [] → x.waiting = [] → n + 1 ≠ x.items → n + 1 < x.least →
      let delta := fSub v x.mean
      let mean := fAdd x.mean (fDiv delta (fNat (n + 1)))
      ∃ t, exec (.estimatorRequest m) s = .next t ∧
        t.est e = { x with accepted := n + 1, mean := mean, m2 := fAdd x.m2 (fMul delta (fSub v mean)) } ∧ tells t [0, 0]) ∧
    (here → op = 0 → x.waiting = [] → handed → ∃ t, exec (.estimatorRequest m) s = .next t ∧ t.est e = { x with issued := x.issued + 1 } ∧
      tells t [0, 0, word x.issued, word (x.item x.issued)]) ∧
    (here → op = 0 → x.waiting = [] → (x.state ≠ 1 ∨ x.items ≤ x.issued) → ∃ t, exec (.estimatorRequest m) s = .next t ∧ tells t [0, 0, -1, -1]) ∧
    (here → op = 2 → n < 8 → ∃ t, exec (.estimatorRequest m) s = .next t ∧ t.hub = s.hub ∧ tells t [0, 0, x.words.getD n 0, 0]) ∧
    (handed → x.pull = false → ∃ t q, exec (.estimatorHandout e) s = .next t ∧ (t.est e).issued = x.issued + 1 ∧ t.net = s.net ++ [q] ∧ q.kind = 0x0B ∧
      q.chan = 241 ∧ q.launch = x.launch ∧ q.payload = [word x.issued, word (x.item x.issued), x.args, word x.items] ∧
      q.dstCore = BitVec.ofNat 12 (s.coreAt l.node (hashRank (mix (deviceKey 0x50 0) x.issued) (s.logicalCount l.node)))) ∧
    ((¬ handed ∨ x.pull = true) → exec (.estimatorHandout e) s = .next s) ∧
    (x.killStop = false → ∃ t, exec (.estimatorStop e) s = .next t ∧ t.net = s.net.filter (fun q => !(q.kind == 0x0B && q.launch == x.launch)) ∧
      t.slots = s.slots ∧ t.mem = s.mem ∧ ∀ core c, (s.ctx core c).launch = x.launch → ∀ q ∈ ((t.ctx core c).chans.get 241 {}).queue,
        ¬ (q.kind = 0x0B ∧ q.launch = x.launch))

/-- Permutations (R384, R385): the items of a well-formed descriptor, taken by position, are each item below N once. -/
def Obligations.ItemsArePermuted : Prop :=
  ∀ (n : Nat) (l : Launch) (ga : Word × Nat), estDescOk l.desc = true →
    let x := estOf n l ga
    x.items = edItems l.desc ∧ (∀ i < x.items, x.item i < x.items) ∧ (∀ i j, i < x.items → j < x.items → x.item i = x.item j → i = j)

/-- Dispatch and the end of launches (R371, R373 to R379): a host enqueue is ignored while another goes on, and is refused with 0xB3 on a closed
queue and 0xB1 for a broken packet; an accepted one is QUEUED with its packet under its name, and where that
name was reserved the name unit is asked to bind it, before ENQSTAT is set. The launch that is dispatched is the first in
rank order, where the function may run; one whose tables have been read sends its next start message, and is RUNNING. A launch completes when nothing of it is left, KILLED
where it was killed, and its contexts are free; an expired one is cancelled with 0xB0. -/
def Obligations.LaunchesAreDispatchedAndEnd : Prop :=
  ∀ (s : State) (part vf c n : Nat) (queue : BitVec 10) (packet : List Word) (e : Nat × Launch) (now : Nat) (es : List (Nat × Launch)),
    let v := s.vf vf
    let q := queue.toNat
    let p := (packet ++ List.replicate 16 0).take 16
    let p' := p.set 0 (withFld (p.getD 0 0) 16 16 vf)
    let l := s.launch n
    let queued := fun (name : BitVec 128) => ({ packet := p', queue := q, vf := vf, name := name, starts := pkStarts p', repro := pkRepro p' } : Launch)
    let began := (s.captureInput 0 0 0 inHost ([word (vf + q * 2 ^ 8)] ++ packet) 3).setVf vf { v with packet := packet, enqStat := 0 }
    let free := bit v.enqStat 63 = true ∧ s.hub.boot.diverged = false
    let refuses := fun (cause : Nat) => ∃ t, exec (.hostEnqueue vf queue packet) s = .next t ∧ (t.vf vf).enqStat = word (2 ^ 63 + cause) ∧
      t.hub.launches = s.hub.launches ∧ t.mem = s.mem ∧ t.slots = s.slots
    (bit v.enqStat 63 = false → exec (.hostEnqueue vf queue packet) s = .next s) ∧
    (free → s.queueOpen q vf = false → refuses 0xB3) ∧
    (free → s.queueOpen q vf = true → packetOk p' = false → refuses 0xB1) ∧
    (free → s.queueOpen q vf = true → packetOk p' = true → pkEstimate p' = false → pkName p' ≠ 0 → s.reservedEntry (pkName p') = none → refuses 0xB4) ∧
    (∀ u name, free → s.queueOpen q vf = true → packetOk p' = true → pkEstimate p' = false → pkName p' = 0 →
      began.newLaunchName vf (launchBinding s.hub.nextLaunch) = some (u, name) →
      (s.queued q).length < 256 → ∃ t, exec (.hostEnqueue vf queue packet) s = .next t ∧ (t.vf vf).enqStat = word (2 ^ 63) ∧
        (t.vf vf).lastName = name ∧ t.launch s.hub.nextLaunch = queued name ∧ t.hub.nextLaunch = s.hub.nextLaunch + 1 ∧ t.mem = u.mem) ∧
    (∀ a, free → s.queueOpen q vf = true → packetOk p' = true → pkEstimate p' = false → pkName p' ≠ 0 → s.reservedEntry (pkName p') = some (a, vf) →
      (s.queued q).length < 256 → ∃ t, exec (.hostEnqueue vf queue packet) s = .next t ∧ (t.vf vf).enqStat = 0 ∧
        t.launch s.hub.nextLaunch = queued (pkName p') ∧ t.hub.nextLaunch = s.hub.nextLaunch + 1 ∧ t.mem = s.mem ∧
        (∃ r ∈ t.net, r.kind = 0x38 ∧ r.dstChip = s.hub.chipId ∧ r.unit = s.nameUnit (pkName p') ∧
          r.payload = namePayload opCas 0 0 (pkName p') [0, launchBinding s.hub.nextLaunch, 0, -1, 3, 0]) ∧
        ∃ x ∈ t.hub.enqueues, x.awaits = bindMark s.hub.nextLaunch ∧ x.vf = vf ∧ x.msg = none) ∧
    (firstRanked now es = some e → e ∈ es ∧ ∀ f ∈ es, before (rankOf f now) (rankOf e now) = false) ∧
    (let none' := (s.queuedFor part vf).filter (fun e => expired e.2 s.ktick.toNat) = []
     (none' → s.contextFor part vf = none → exec (.dispatchDecision part vf) s = .next s) ∧
     (none' → s.contextFor part vf = some c → s.activeIn part c = none → (bit v.ctl 63 = false ∨ bit v.bud 62 = true) →
       exec (.dispatchDecision part vf) s = .next s) ∧
     (none' → s.contextFor part vf = some c → s.activeIn part c = none → bit v.ctl 63 = true → bit v.bud 62 = false →
       firstRanked s.ktick.toNat ((s.queuedFor part vf).filter fun e => (s.freeEst (s.lowDie part)).isSome || !pkEstimate e.2.packet) = some e →
       exec (.dispatchDecision part vf) s = .next (s.beginDispatch part vf c e.1)) ∧
     (none' → s.contextFor part vf = some c → s.activeIn part c = some n → l.prepared = false → exec (.dispatchDecision part vf) s = .next (s.prepare n)) ∧
     (none' → s.contextFor part vf = some c → s.activeIn part c = some n → l.prepared = true → l.started < l.starts → l.killing = false →
       (l.est = none ∨ 0 < l.started) →
       ∃ t m, exec (.dispatchDecision part vf) s = .next t ∧ t.net = s.net ++ [m] ∧ m.kind = 0x08 ∧ m.chan = BitVec.ofNat 8 (pkEntry l.packet) ∧
         m.payload = [pkArgs l.packet, word l.started] ∧ m.launch = n ∧
         m.dstCore = BitVec.ofNat 12 (if pkGroup l.packet = true then l.group0.getD l.started 0 else s.hashCore l.node (mix 0 l.started)) ∧
         t.launch n = { l with started := l.started + 1, pending := l.pending + 1, state := 2 } ∧ t.slots = s.slots ∧ t.mem = s.mem) ∧
     (none' → (∀ e ∈ s.queuedFor part vf, pkExpire e.2.packet = false) → exec (.launchExpiryScan part vf) s = .next s)) ∧
    ((s.queuedFor part vf).filter (fun e => expired e.2 s.ktick.toNat) = [(n, l)] → l.waiting = [] →
      ∃ t, exec (.launchExpiryScan part vf) s = .next t ∧ (t.launch n).state = 5 ∧ (t.launch n).cause = 0xB0 ∧ t.slots = s.slots) ∧
    (let ended := (l.state = 2 ∨ (l.prepared = true ∧ l.killing = true ∧ l.state = 1)) ∧ l.live = 0 ∧ l.commands = 0 ∧ s.estOver l = true ∧ (l.killing = true ∨ (l.started = l.starts ∧ l.pending = 0))
     (¬ ended → exec (.launchCompletion n) s = .next s) ∧
     (ended → l.waiting = [] → ∃ t, exec (.launchCompletion n) s = .next t ∧ (t.launch n).state = (if l.killing = true then 4 else 3) ∧
       (t.launch n).live = 0 ∧ t.slots = s.slots ∧ ∀ core i, (s.ctx core i).launch = n → (t.ctx core i).launch = 0 ∧ (t.ctx core i).chans = []))

/-- Pre-emption and delivery windows (R119 to R122): a pre-empted context with no slot bound is saved: its queued messages and its pool leave the
core, the messages in the order of arrival, and its enable and pending bits stay; else nothing happens. A window that may not close stays open; one that closes is followed by the
next, and what was parked takes effect: operations of units, replies, then messages, each in the order of R121. -/
def Obligations.ContextsAreSavedAndWindowsClose : Prop :=
  ∀ (s : State) (core c n : Nat) (ms : List Msg),
    let x := s.ctx core c
    let saves := x.preempted = true ∧ x.saved = false ∧ s.ctxIdle core c = true
    let l := s.launch n
    (¬ saves → exec (.contextSave core c) s = .next s) ∧
    (saves → ∃ t, exec (.contextSave core c) s = .next t ∧ t.slots = s.slots ∧ t.net = s.net ∧
      let y := t.ctx core c
      y.saved = true ∧ y.preempted = true ∧ y.pool = [] ∧ y.savedMsgs = x.waiting ∧ y.savedPool.length = (x.pool.filter PoolItem.isClause).length ∧
      ∀ i, (y.chans.get i {}).queue = [] ∧ (y.chans.get i {}).enable = (x.chans.get i {}).enable ∧ (y.chans.get i {}).pending = (x.chans.get i {}).pending) ∧
    (s.windowReady n = false → exec (.deliveryWindowClose n) s = .next s) ∧
    (s.windowReady n = true → ∃ t, exec (.deliveryWindowClose n) s = .next t ∧ (t.launch n).window = l.window + 1 ∧ (t.launch n).opening = true ∧ (inEffect l.parked).Sublist t.net) ∧
    (inEffect ms).Perm ms ∧ (sortMsgs ms).Pairwise (fun a b => before (sortKey b) (sortKey a) = false)

/-- The life of pages (R227 to R237): a move sets MOVING and sends a notice to each home; the last home to take it brings about the copy, line by
line with its poison, after which the new entry is in force, with any HINT taken meanwhile, and the held requests go on first. A move of a
block of a stack's reserve writes its reserve map (the page numbers of such blocks are the model's choice: log 109). The heat buffer of a home is added to the
heat words, and nothing else in memory changes. The tracker, where it is enabled, moves the hottest TIER 1 page into a free HBM frame. A
scrubbed atom with one wrong bit is corrected and counted; one with more is poisoned. -/
def Obligations.PagesMoveAndAreScrubbed : Prop :=
  ∀ (s : State) (page home stack old new atom errors i : Nat) (entry : Word) (v : Move),
    let e := s.dpit page
    let homes := pageHomes (dpitPlacement e)
    let t := s.hub.tracker
    (page < reservePages → dpitValid e = true → dpitMoving e = false → ∃ u, exec (.pageMove page entry) s = .next u ∧ u.mem = (s.setDpit page (withBits e 62 1 1)).mem ∧
      u.hub.moves.find page = some { entry := withBits entry.toNat 62 1 0, homes := homes } ∧ u.slots = s.slots ∧
      u.agenda = s.agenda ++ homes.map fun h => .moveBeginNotice page h) ∧
    (page < reservePages → (dpitValid e = false ∨ dpitMoving e = true) → exec (.pageMove page entry) s = .next s) ∧
    (let k := (page - reservePages) / 2 ^ 24
     let b := (page - reservePages) % 2 ^ 24
     let map := (s.stack k).reserveMap
     reservePages ≤ page → k < 16 → reserveBlock ≤ b → ((map.find b).isSome = true ∨ map.length < 32) →
       ∃ u, exec (.pageMove page entry) s = .next u ∧ (u.stack k).reserveMap = map.set b (fld entry 0 28) ∧ u.slots = s.slots) ∧
    (s.hub.moves.find page = none → exec (.moveBeginNotice page home) s = .next s ∧ exec (.moveCopy page) s = .next s) ∧
    (s.hub.moves.find page = some v →
      (∃ u w, exec (.moveBeginNotice page home) s = .next u ∧ u.hub.moves.find page = some w ∧ w = { v with taken := w.taken } ∧
        (∀ h, h ∈ w.taken ↔ h = home ∨ h ∈ v.taken) ∧ u.mem = s.mem ∧ u.slots = s.slots ∧
        ((∀ h ∈ v.homes, h = home ∨ h ∈ v.taken) → u.agenda = s.agenda ++ [.moveCopy page]) ∧
        ((∃ h ∈ v.homes, h ≠ home ∧ h ∉ v.taken) → u.agenda = s.agenda)) ∧
      ((∃ h ∈ v.homes, h ∉ v.taken) → exec (.moveCopy page) s = .next s) ∧
      ((∀ h ∈ v.homes, h ∈ v.taken) → v.after = none → v.waiter = none → v.tracked = false → t.period = none →
        let c := s.copyPage page e v.entry 0 1024
        ∃ u, exec (.moveCopy page) s = .next u ∧ u.mem = (c.setDpit page (v.final e)).mem ∧ u.hub.moves.find page = none ∧ u.net = v.held ++ c.net ∧
          u.slots = c.slots)) ∧
    (Memory.wf s.mem = true → s.weak = [] →
      (s.copyLine old new).bytes new 64 = s.bytes old 64 ∧
      (∀ b, (b < new ∨ new + 64 ≤ b) → memRead (s.copyLine old new).mem b = memRead s.mem b) ∧
      (new % 64 = 0 → old % 64 = 0 → new + 64 ≤ 2 ^ 40 → old + 64 ≤ 2 ^ 40 →
        (new ∈ (s.copyLine old new).poison ↔ old ∈ s.poison) ∧ (new + 32 ∈ (s.copyLine old new).poison ↔ old + 32 ∈ s.poison))) ∧
    (∃ u, exec (.heatWriteback stack) s = .next u ∧ (u.stack stack).heat = [] ∧ u.slots = s.slots ∧
      ∀ b, (∀ h ∈ (s.stack stack).heat, b < s.heatAddr h.1 ∨ s.heatAddr h.1 + 16 ≤ b) → memRead u.mem b = memRead s.mem b) ∧
    (hotEnabled t.ctl = false → exec .trackerPeriod s = .next s) ∧
    (hotEnabled t.ctl = true → t.queue = [page] → t.period = none → 0 < hotLimit t.ctl → dpitValid e = true → dpitMoving e = false → dpitTier e = 1 → dpitPinned e = false →
      hotPromote t.ctl ≤ s.heatOf page → s.hbmFrame (dpitPlacement e) = some i →
      let w := s.freeFrame t.hbm i
      let c := s.setFrame t.hbm i (withFld w 63 1 0)
      c.dpit page = e → ∃ u, exec .trackerPeriod s = .next u ∧ u.mem = (c.setDpit page (withBits e 62 1 1)).mem ∧ u.hub.tracker.queue = [] ∧
        fld u.hub.tracker.stat 0 32 = (fld t.stat 0 32 + 1) % 2 ^ 32 ∧
        ∃ m, u.hub.moves.find page = some m ∧ m.entry = withBits (withMedia e 0 (fld w 28 4) (fld w 0 28)) 62 1 0 ∧ m.tracked = true) ∧
    (s.weak = [] → (errors = 0 ∨ 2 ^ 40 ≤ 32 * atom ∨ 32 * atom ∈ s.poison) → exec (.patrolScrub atom errors) s = .next s) ∧
    (s.weak = [] → 32 * atom < 2 ^ 40 → 32 * atom ∉ s.poison →
      let k := 32 * atom / 2 ^ 36
      let c := 32 * atom % 2 ^ 36 / 4096 % 32
      (errors = 1 → ∃ u, exec (.patrolScrub atom errors) s = .next u ∧ (u.stack k).corrected.get c 0 = (s.stack k).corrected.get c 0 + 1 ∧ u.poison = s.poison ∧
        ((s.stack k).corrected.get c 0 + 1 ≠ (s.stack k).threshold → u.mem = s.mem ∧ u.hub = s.hub)) ∧
      (2 ≤ errors → ∃ u, exec (.patrolScrub atom errors) s = .next u ∧ 32 * atom ∈ u.poison ∧
        ∀ x, (x ∈ s.poison → x ∈ u.poison) ∧ (x ∈ u.poison → x ∈ s.poison ∨ x / 128 = 32 * atom / 128)))

/-- Debug modules and traces (R431 to R433, R439 to R441): a halt request halts a cluster that is not halted, keeps its slots and counts in
DBGSTAT; a resume lets it go on; a step releases one slot of a halted cluster, which reads as not halted meanwhile; HALTREQ and RESUME stay set as
log 114 has it (the model's choice); a trigger line halts the clusters that listen to it. CLEAR
empties the loss table. A sample records the issued and stalled instructions of the eight cores and starts the counts anew. The open segment is
sealed when it is full, old enough or EN is clear, and the completed write of a segment frees its slot. -/
def Obligations.DebugModulesHaltAndTrace : Prop :=
  ∀ (s : State) (cl core slot line : Nat) (r : List Word) (g : Segment) (gs : List Segment),
    let d := s.debug cl
    let k := (cl * 8 + core % 8) * 4 + slot % 4
    let t := s.hub.trace
    (d.halted = true → exec (.debugHaltreq cl) s = .next (s.ctlBit cl 63 true)) ∧
    (d.halted = false → ∃ u, exec (.debugHaltreq cl) s = .next u ∧ (u.debug cl).halted = true ∧ bit (u.debug cl).stat 63 = true ∧
      fld (u.debug cl).stat 60 3 = 0 ∧ fld (u.debug cl).stat 0 32 = (fld d.stat 0 32 + 1) % 2 ^ 32 ∧ bit (u.debug cl).ctl 63 = true ∧
      u.slots = s.slots ∧ u.mem = s.mem ∧ ∀ j, j ≠ cl → u.debug j = s.debug j) ∧
    (d.halted = false → exec (.debugResume cl) s = .next (s.ctlBit cl 62 true) ∧ exec (.debugStep cl core slot) s = .next s) ∧
    (d.halted = true → ∃ u, exec (.debugResume cl) s = .next u ∧ (u.debug cl).halted = false ∧ (u.debug cl).stepping = none ∧
      bit (u.debug cl).stat 63 = false ∧ bit (u.debug cl).ctl 62 = true ∧ bit (u.debug cl).ctl 63 = false ∧ u.mem = s.mem ∧
      ∀ j, (u.slot j).pc = (s.slot j).pc ∧ (u.slot j).phase = (s.slot j).phase ∧ (∀ i, (u.slot j).xr i = (s.slot j).xr i) ∧
        (clusterOf (coreOf j) ≠ cl → u.slot j = s.slot j) ∧
        (clusterOf (coreOf j) = cl → (s.slot j).phase ≠ .free → (u.slot j).skipBreak = true)) ∧
    (d.halted = true → ∃ u, exec (.debugStep cl core slot) s = .next u ∧ (u.debug cl).halted = true ∧ (u.debug cl).stepping = some k ∧ bit (u.debug cl).stat 63 = false ∧ u.stopped k = false ∧
      (∀ j, j ≠ k → clusterOf (coreOf j) = cl → u.stopped j = true) ∧ u.mem = s.mem ∧ ∀ j, j ≠ k → u.slot j = s.slot j) ∧
    (∃ u, exec (.triggerLinePulse line) s = .next u ∧ u.slots = s.slots ∧ u.mem = s.mem ∧
      (bit d.trig (8 + line % 8) = true → (u.debug cl).halted = true) ∧
      ((∀ e ∈ s.clusters, e.1 = cl → bit e.2.dbg.trig (8 + line % 8) = false) → u.debug cl = d)) ∧
    (∃ u, exec (.lossTableClear cl) s = .next u ∧ u.debug cl = { d with loss := [] } ∧ u.slots = s.slots ∧ u.mem = s.mem ∧ u.hub = s.hub) ∧
    (d.samples = false → exec (.traceSample cl) s = .next s) ∧
    (d.samples = true → traceUnits d.trace + 5 ≤ 512 → ∃ u h, exec (.traceSample cl) s = .next u ∧ (u.debug cl).issued = [] ∧ (u.debug cl).stalled = [] ∧
      fld h 0 8 = 5 ∧ u.slots = s.slots ∧ u.mem = s.mem ∧ (u.debug cl).trace = d.trace ++ [h :: s.ktick :: (List.range 8).map fun i =>
        word (d.issued.get i 0 % 2 ^ 32 + d.stalled.get i 0 % 2 ^ 32 * 2 ^ 32)]) ∧
    (t.records = [] → exec .traceSegmentSeal s = .next s) ∧
    (∀ rest, t.records = r :: rest → t.full = false → s.ktick.toNat < (r.getD 1 0).toNat + 2 ^ 20 → bit t.cfg 63 = true →
      exec .traceSegmentSeal s = .next s) ∧
    (∀ rest, t.records = r :: rest → (bit t.cfg 63 = false ∨ (r.getD 1 0).toNat + 2 ^ 20 ≤ s.ktick.toNat) → traceUnits t.records ≤ 4088 →
      t.staged.length < t.slots → ∃ u x, exec .traceSegmentSeal s = .next u ∧ u.hub.trace.staged = t.staged ++ [x] ∧ u.hub.trace.seq = t.seq + 1 ∧
        u.hub.trace.records = [] ∧ x.seq = t.seq ∧ x.first = r.getD 1 0 ∧ x.body = (t.records.map bytesOfWords).flatten ∧ u.slots = s.slots ∧ u.mem = s.mem) ∧
    (s.hub.boot.diverged = true → exec .storageCompletion s = .next s) ∧
    (s.hub.boot.diverged = false →
      (bit t.cfg 62 = false → t.sending = [] → exec .storageCompletion s = .next s) ∧
      (t.sending ≠ [] → t.staged = g :: gs → ∃ u, exec .storageCompletion s = .next u ∧ u.hub.trace.staged = gs ∧
        fld u.hub.trace.stat 0 32 = (fld t.stat 0 32 + 1) % 2 ^ 32 ∧ u.slots = s.slots ∧ u.mem = s.mem))

/-- Fabric reduction windows (R273 to R276, R424): a forwarded contribution of another code or of a chip that does not contribute is refused and changes
no memory; in free mode it is one reduction at its element; under REPRO it waits in its round. A withdrawal turns the status block INCOMPLETE
with the contributor's bit and keeps the contributor out. A declaration block that is well-formed makes the window, and the results 1 to 4 say
why not; a list of contributors at another package is asked for first; a command while BUSY does nothing; a redeclaration waits for open rounds, and one that cannot reach a
contributor withdraws the window. -/
def Obligations.FabricWindowsCombine : Prop :=
  ∀ (s : State) (id media entry : Nat) (m : Msg) (w x : Window) (chip : BitVec 20),
    let ga := m.payload.getD 0 0
    let code := fld (m.payload.getD 1 0) 0 5
    let i := w.index m.srcChip
    let home := s.homedWindow id
    let busy := bit s.hub.winstat 63 = true
    let cmd := fun (op : Nat) => word (op * 2 ^ 60 + id % 64 * 2 ^ 54)
    let result := fun (i : Instr) (op r : Nat) => exec i s = .next { s with hub := { s.hub with wincmd := cmd op, winstat := word (r * 2 ^ 60) } }
    let here := s.holder m = none ∧ s.weak = []
    let known := fun (x : Window) => ∀ c ∈ x.members, c = s.hub.chipId.toNat ∨ s.chipDown c = false
    let others := s.hub.windows.filter fun y => !(y.home == s.hub.chipId && y.id == id)
    let makes := fun (i : Instr) => ∃ t, exec i s = .next t ∧ t.hub.windows = others ++ [x] ∧ t.hub.winstat = 0 ∧
      t.mem = (s.devStore (devOf x.status) ([1] ++ List.replicate 575 0)).mem ∧ t.slots = s.slots
    (here → home = some w → (code ≠ w.code ∨ m.srcChip.toNat ∉ w.members) → ∃ t, exec (.fabricCombine id m) s = .next t ∧ t.mem = s.mem ∧ t.slots = s.slots) ∧
    (here → home = some w → code = w.code → m.srcChip.toNat ∈ w.members → w.repro = false → s.findLine m ga false true true = .at media entry →
      s.poisoned media (redSize code) = false → ∃ t, exec (.fabricCombine id m) s = .next t ∧ t.slots = s.slots ∧
        t.mem = memWriteBytes s.mem media (toBytes (redSize code) (redApply code (s.load media (redSize code)) (m.payload.getD 2 0).toNat))) ∧
    (here → home = some w → code = w.code → m.srcChip.toNat ∈ w.members → w.repro = true → (∀ r ∈ w.rounds, r.addr ≠ ga) →
      w.complete { addr := ga, parts := [(i, m)], held := [] } = false → ∃ t y, exec (.fabricCombine id m) s = .next t ∧ t.mem = s.mem ∧ t.slots = s.slots ∧
        t.homedWindow id = some y ∧ y.rounds = w.rounds ++ [{ addr := ga, parts := [(i, m)], held := [] }]) ∧
    ((home = none ∨ ∃ y, home = some y ∧ (chip.toNat ∉ y.members ∨ chip.toNat ∈ y.gone)) → exec (.contributorWithdrawal id chip) s = .next s) ∧
    (home = some w → chip.toNat ∈ w.members → chip.toNat ∉ w.gone → w.rounds = [] →
      let a := devOf w.status
      let j := w.index chip
      let u := s.devWrite a [2]
      ∃ t y, exec (.contributorWithdrawal id chip) s = .next t ∧ t.homedWindow id = some y ∧ y = { w with gone := w.gone ++ [chip.toNat] } ∧ t.slots = s.slots ∧
        t.mem = (u.devWrite (a + 64 + j / 8) [BitVec.ofNat 8 (u.devLoad (a + 64 + j / 8) 1 ||| 2 ^ (j % 8))]).mem) ∧
    (busy → exec (.wincmdDeclare id) s = .next s ∧ exec (.wincmdRedeclare id) s = .next s ∧ exec (.wincmdRemove id) s = .next s) ∧
    (¬ busy →
      (home = none → result (.wincmdRedeclare id) 2 1 ∧ result (.wincmdRemove id) 3 1) ∧ (home = some w → result (.wincmdDeclare id) 1 1) ∧
      (home = none → s.windowBlock id = none → result (.wincmdDeclare id) 1 2) ∧
      (home = none → s.hub.reads = [] → ∀ list c, s.windowBlock id = some (x, list, c) → chipOf list ≠ s.hub.chipId →
        s.chipDown (chipOf list).toNat = false → ∃ q, exec (.wincmdDeclare id) s = .next ({ s with hub :=
          { s.hub with wincmd := cmd 1, winstat := word (2 ^ 63), reads := [{ what := .members x true, addr := list, count := c }] } }.route q) ∧
          q.kind = 0x20 ∧ q.dstChip = chipOf list) ∧
      (home = none → s.declared id = some x → ¬ known x → result (.wincmdDeclare id) 1 3) ∧
      (home = none → s.declared id = some x → known x → 64 ≤ s.hub.windows.length → result (.wincmdDeclare id) 1 4) ∧
      (home = none → s.declared id = some x → known x → s.hub.windows.length < 64 → makes (.wincmdDeclare id)) ∧
      (home = some w → (∀ y ∈ s.hub.windows, y.redeclare = false) → w.rounds = [] → s.declared id = some x → known x → makes (.wincmdRedeclare id)) ∧
      (home = some w → (∀ y ∈ s.hub.windows, y.redeclare = false) → w.rounds = [] → s.declared id = some x → ¬ known x →
        exec (.wincmdRedeclare id) s = .next { s with hub := { s.hub with windows := others, wincmd := cmd 2, winstat := word (3 * 2 ^ 60) } }) ∧
      (home = some w → (∀ y ∈ s.hub.windows, y.redeclare = false ∧ y.rounds ≠ []) → ∃ t y, exec (.wincmdRedeclare id) s = .next t ∧
        bit t.hub.winstat 63 = true ∧ t.homedWindow id = some y ∧ y = { w with redeclare := true } ∧ t.mem = s.mem) ∧
      (home = some w → w.rounds = [] → exec (.wincmdRemove id) s = .next { s with hub := { s.hub with windows := others, wincmd := cmd 3, winstat := 0 } }))

/-- Partitions and functions (R415 to R418, R426): a command while BUSY does nothing; PSTAT takes the result. ASSIGN gives the function its context on every
core of a node that no other partition meets; RELEASE takes it away; MERGE joins two idle halves of the same functions, whose latches are EMPTY from then on; SHRINK moves the
partition to the node kept once the removed cores are empty. A reset of a function without launches clears its law table, ring pointers and
counts. -/
def Obligations.PartitionsChange : Prop :=
  ∀ (s : State) (cmd : Word) (v : Nat) (p a : Part),
    let n := fld cmd 32 16
    let c := fld cmd 58 2
    let f := fld cmd 50 7
    let keep := fld cmd 16 16
    let part := s.hub.parts.find n
    let node := 1 ≤ n ∧ n < 1024
    let idle := s.hub.ops = [] ∧ s.hub.begun = false
    let taken := (∃ e ∈ s.hub.parts, e.1 ≠ n ∧ nodesMeet e.1 n = true) ∨ (∃ q, part = some q ∧ ((q.ctxs.find c).isSome = true ∨ ∃ e ∈ q.ctxs, e.2 = f)) ∨
      ∃ k ∈ s.nodeCores n, (s.ctx k c).saveBase = 0
    let gives := fun (i : Instr) (r : Nat) (g : State → Prop) => ∃ u, exec i s = .next u ∧ u.hub.pstat = word (r * 2 ^ 60) ∧ u.hub.ops = [] ∧ g u
    let same := fun (u : State) => u.hub.parts = s.hub.parts ∧ u.cores = s.cores ∧ u.slots = s.slots ∧ u.mem = s.mem
    (bit s.hub.pstat 63 = true → exec (.pcmdAssign cmd) s = .next s ∧ exec (.pcmdRelease cmd) s = .next s ∧ exec (.pcmdMerge cmd) s = .next s ∧
      exec (.pcmdShrink cmd) s = .next s) ∧
    (bit s.hub.pstat 63 = false → idle →
      (¬ node → gives (.pcmdAssign cmd) 2 same) ∧ (node → s.nodeCores n = [] → gives (.pcmdAssign cmd) 4 same) ∧
      (node → s.nodeCores n ≠ [] → taken → gives (.pcmdAssign cmd) 3 same) ∧
      (node → s.nodeCores n ≠ [] → ¬ taken → gives (.pcmdAssign cmd) 0 fun u => (∃ q, u.hub.parts.find n = some q ∧ q.ctxs.find c = some f) ∧ u.slots = s.slots ∧
        u.mem = s.mem ∧ ∀ k ∈ s.nodeCores n, (u.ctx k c).assigned = true ∧ (u.ctx k c).vf = f ∧ (u.ctx k c).kasid = word (fld (s.vf f).ctl 0 16)) ∧
      (part = none → gives (.pcmdRelease cmd) 2 same) ∧ (part = some p → p.ctxs.find c = none → gives (.pcmdRelease cmd) 3 same) ∧
      (part = some p → p.ctxs.find c ≠ none → s.activeIn n c ≠ none → gives (.pcmdRelease cmd) 1 same) ∧
      (part = some p → p.ctxs.find c ≠ none → s.activeIn n c = none → gives (.pcmdRelease cmd) 0 fun u => u.slots = s.slots ∧ u.mem = s.mem ∧
        (∀ q, u.hub.parts.find n = some q → q.ctxs = p.ctxs.del c) ∧ ∀ k ∈ s.nodeCores n, (u.ctx k c).assigned = false) ∧
      ((s.hub.parts.find (2 * n) = none ∨ s.hub.parts.find (2 * n + 1) = none) → gives (.pcmdMerge cmd) 2 same) ∧
      (node → s.hub.parts.find (2 * n) = some p → s.hub.parts.find (2 * n + 1) = some a → p.ctxs = a.ctxs →
        (∀ e ∈ p.ctxs, s.activeIn (2 * n) e.1 = none ∧ s.activeIn (2 * n + 1) e.1 = none) → gives (.pcmdMerge cmd) 0 fun u =>
          u.hub.parts.find n = some p ∧ u.hub.parts.find (2 * n) = none ∧ u.hub.parts.find (2 * n + 1) = none ∧ u.slots = s.slots ∧ u.mem = s.mem ∧
          ∀ k ∈ s.nodeCores n, ∀ i, u.ctx k i = { s.ctx k i with bl := [] }) ∧
      (∀ r, s.shrinkRefused cmd = some r → gives (.pcmdShrink cmd) r same) ∧
      (s.shrinkRefused cmd = none → part = some p → (∀ k ∈ s.removed cmd, ∀ j < 4, (s.slot (4 * k + j)).phase = .free) → gives (.pcmdShrink cmd) 0 fun u =>
        u.hub.parts.find keep = some p ∧ u.hub.parts.find n = none) ∧
      (s.shrinkRefused cmd = none → (∃ k ∈ s.removed cmd, ∃ j < 4, (s.slot (4 * k + j)).phase = .running) → ∃ u, exec (.pcmdShrink cmd) s = .next u ∧
        bit u.hub.pstat 63 = true ∧ u.hub.parts = s.hub.parts ∧ u.slots = s.slots)) ∧
    (bit (s.vf v).ctl 62 = true → exec (.vfReset v) s = .next s) ∧
    (bit (s.vf v).ctl 62 = false → idle → s.unendedOf v = [] → s.hub.opWait = none →
      (∀ k, (s.slot k).far = [] ∧ (s.slot k).fetchFar = none) → (∀ e, (s.engine e).running = none) → ∃ u, exec (.vfReset v) s = .next u ∧
      let x := u.vf v
      x.law = none ∧ x.eqHead = 0 ∧ x.eqTail = 0 ∧ x.cqHead = 0 ∧ x.cqTail = 0 ∧ x.cnt = 0 ∧ x.resetting = false ∧ bit x.ctl 62 = false ∧
        bit x.ctl 63 = bit (s.vf v).ctl 63 ∧ u.hub.ops = [])

/-- The kernel's registers (R421, R423, R429): a machine-check record enters the ring at its tail while it has room, else KMCLOST counts it. SMAPN takes a
map whose serials rise strictly, and 0 for any other, and asks another package for one that lies there; KLAW installs the table at its address
or none. A write of a management address takes effect by its unit and offset, once no kernel's law table is being read; one that is not
8-byte aligned or names no unit is ignored. A read gives the register back. -/
def Obligations.KernelRegistersTakeEffect : Prop :=
  ∀ (s : State) (r : McRecord) (v : Word) (reg : Nat),
    let k := s.hub.kmc
    let size := 2 ^ fld k 0 12
    let ring := 8 ≤ fld k 0 12 ∧ fld k 0 12 ≤ 16
    let full := ringFull s.hub.kmcHead s.hub.kmcTail size = true
    let entry := withFld k 0 12 0 + word (32 * (s.hub.kmcTail % size))
    let record := [word (r.kind.toNat + r.unitType.toNat * 2 ^ 16 + r.unit.toNat * 2 ^ 32), r.addr, s.ktick, r.detail]
    let n := fld v 0 20
    let serial := fun i => s.devLoad (devOf s.hub.smap + 16 * i) 6
    let own := chipOf s.hub.smap = s.hub.chipId
    let rises := ∀ i, i + 1 < n → serial i < serial (i + 1)
    let ga := withFld v 0 5 0
    let unit := reg / 2 ^ 32 % 2 ^ 12
    let off := reg % 2 ^ 32
    let type := reg / 2 ^ 44 % 16
    let hub := fun (f : Hub → Hub) => exec (.mgmtRegisterWrite reg v) s = .next { s with hub := f s.hub }
    let acts := fun (i : Instr) => exec (.mgmtRegisterWrite reg v) s = exec i s
    (ring → ¬ full → ∃ t, exec (.machineCheckRecord r) s = .next t ∧ t.hub = { s.hub with kmcTail := (s.hub.kmcTail + 1) % size } ∧ t.slots = s.slots ∧
      (chipOf entry = s.hub.chipId → t.mem = (s.devWrite (devOf entry) (bytesOfWords record)).mem ∧ t.fabricOut = s.fabricOut) ∧
      (chipOf entry ≠ s.hub.chipId → s.chipDown (chipOf entry).toNat = false → t.mem = s.mem ∧ ∃ q, t.fabricOut = s.fabricOut ++ [q] ∧
        q.kind = 0x21 ∧ q.dstChip = chipOf entry ∧ q.payload = [entry, 32] ++ record)) ∧
    ((¬ ring ∨ full) → exec (.machineCheckRecord r) s =
      .next { s with hub := { s.hub with kmcLost := if s.hub.kmcLost = -1 then s.hub.kmcLost else s.hub.kmcLost + 1 } }) ∧
    (s.hub.reads = [] →
      (own → n ≤ 786432 → rises → exec (.smapnWrite v) s = .next { s with hub := { s.hub with smapn := word n, smapLive := s.hub.smap, smapCopy := [] } }) ∧
      ((786432 < n ∨ (own ∧ ¬ rises)) → exec (.smapnWrite v) s = .next { s with hub := { s.hub with smapn := 0, smapLive := s.hub.smap } }) ∧
      (¬ own → 0 < n → n ≤ 786432 → s.chipDown (chipOf s.hub.smap).toNat = false → s.hub.smap.toNat % 4096 = 0 → ∃ q, exec (.smapnWrite v) s =
        .next ({ s with hub := { s.hub with reads := [{ what := .map, addr := s.hub.smap, count := n }] } }.route q) ∧
        q.kind = 0x20 ∧ q.dstChip = chipOf s.hub.smap ∧ q.payload = [s.hub.smap, 64])) ∧
    (s.hub.reads = [] → bit v 0 = true → chipOf ga = s.hub.chipId → exec (.klawWrite v) s =
      .next { s with hub := { s.hub with klaw := withFld v 1 4 0, klawTable := some (wordsOf 1024 (s.devBytes (devOf ga) 8192)) } }) ∧
    (s.hub.reads = [] → bit v 0 = false → exec (.klawWrite v) s = .next { s with hub := { s.hub with klaw := withFld v 1 4 0, klawTable := none } }) ∧
    (s.lawReading = false → (off % 8 ≠ 0 ∨ 5 ≤ type ∨ (type = 3 ∧ 16 ≤ unit)) → exec (.mgmtRegisterWrite reg v) s = .next s) ∧
    (s.lawReading = false → type = 0 →
      (off = 0x810 → hub fun h => { h with ktrap := withFld v 0 12 0 }) ∧ (off = 0x820 → hub fun h => { h with keq := v }) ∧
      (off = 0x828 → hub fun h => { h with keqHead := fld v 0 32 }) ∧ (off = 0x830 → hub fun h => { h with kmc := v }) ∧
      (off = 0x838 → hub fun h => { h with kmcHead := fld v 0 32 }) ∧ (off = 0x878 → hub fun h => { h with smap := withFld v 0 12 0 }) ∧
      (off = 0x8A0 → hub fun h => { h with winblk := withFld v 0 6 0 }) ∧ (off = 0x8A8 → hub fun h => { h with nameblk := withFld v 0 6 0 }) ∧
      (off = 0x860 → acts (.nametabWrite v)) ∧ (off = 0x880 → acts (.smapnWrite v)) ∧ (off = 0x888 → acts (.klawWrite v)) ∧
      (off = 0x800 → (fld v 60 4 = 1 → acts (.pcmdAssign v)) ∧ (fld v 60 4 = 2 → acts (.pcmdRelease v)) ∧ (fld v 60 4 = 3 → acts (.pcmdMerge v)) ∧
        (fld v 60 4 = 4 → acts (.pcmdShrink v))) ∧
      (off = 0x890 → (fld v 60 4 = 1 → acts (.wincmdDeclare (fld v 54 6))) ∧ (fld v 60 4 = 2 → acts (.wincmdRedeclare (fld v 54 6))) ∧
        (fld v 60 4 = 3 → acts (.wincmdRemove (fld v 54 6)))) ∧
      (off = 0x8B0 → (fld v 60 4 = 1 → acts .namecmdNew) ∧ (fld v 60 4 = 2 → acts .namecmdCas) ∧ (fld v 60 4 = 3 → acts .namecmdKill)) ∧
      ((off = 0x808 ∨ off = 0x840 ∨ off = 0x868) → exec (.mgmtRegisterWrite reg v) s = .next s)) ∧
    (s.lawReading = true → type = 0 → hub fun h => { h with heldWrites := h.heldWrites ++ [(reg, v)] }) ∧
    (off % 8 ≠ 0 → s.registerRead reg = 0) ∧
    (type = 0 → (off = 0x808 → s.registerRead reg = s.hub.pstat) ∧ (off = 0x810 → s.registerRead reg = s.hub.ktrap) ∧
      (off = 0x818 → s.registerRead reg = word (s.hub.ktrapTail * 2 ^ 32 + s.hub.ktrapHead)) ∧ (off = 0x840 → s.registerRead reg = s.hub.kmcLost) ∧
      (off = 0x868 → s.registerRead reg = word s.hub.issued) ∧ (off = 0x898 → s.registerRead reg = s.hub.winstat))

/-- Resets and management frames (R232, R325, R448, R450, R451): a package reset clears slots, cores, units, queues and HBM, keeps the bytes of the CXL tier but no poison, the serial, the
configuration and the accepted sequence, and never rewinds the name counter. A frame that is not accepted is counted; a reset command stores
its sequence and resets by its MODE; a configuration write replaces the record in the copy that is not in force; TRIP survives the reset after a trip; an attestation request is answered with the serial, the
measurement, the nonce and the time. -/
def Sys2Proof.Claim.PackageResetsAndFrames : Prop :=
  ∀ (s : State) (f nonce : List Byte),
    let b := s.hub.boot
    let fresh := fun (t : State) => t.slots = [] ∧ t.cores = [] ∧ t.clusters = [] ∧ t.stackTab = [] ∧ t.net = [] ∧ t.agenda = [] ∧ t.ktick = 0 ∧
      t.hub.launches = [] ∧ t.poison = [] ∧ t.hub.vfs = [] ∧ t.hub.off = false ∧ (∀ a < 2 ^ 40, memRead t.mem a = 0) ∧
      (∀ a, 2 ^ 40 ≤ a → a < 2 ^ 45 → memRead t.mem a = memRead s.mem a) ∧ t.hub.boot.serial = b.serial ∧ t.hub.boot.config = b.config ∧
      t.hub.chipId = s.hub.chipId ∧ t.hub.issued = s.hub.reservedEnd ∧ t.hub.trip = (s.hub.trip && s.hub.off)
    let counted := fun (i : Instr) => ∃ t, exec i s = .next t ∧ t.hub.boot.rejected = b.rejected + 1 ∧ t.hub.boot.sequence = b.sequence ∧
      t.hub.boot.config = b.config ∧ t.hub.boot.replies = b.replies ∧ t.slots = s.slots ∧ t.mem = s.mem
    let mode := (frameBody f).getD 0 0
    (∃ t, exec .packageReset s = .next t ∧ fresh t ∧ t.hub.boot.sequence = b.sequence ∧ t.hub.boot.mode = 0 ∧
      ∀ i j, s.hub.slots = [some i, some j] → i < j → j + 1 < 2 ^ 48 → t.hub.slots = [some (j + 1), some j]) ∧
    (b.diverged = true → exec (.mgmtResetCommand f) s = .next s ∧ exec (.mgmtConfigurationWrite f) s = .next s ∧ exec (.mgmtAttestationRequest f) s = .next s) ∧
    (b.diverged = false →
      (s.accepts 1 f = false → counted (.mgmtResetCommand f)) ∧ (s.accepts 2 f = false → counted (.mgmtConfigurationWrite f)) ∧
      ((frameIs 3 f = false ∨ (frameBody f).length ≠ 32) → counted (.mgmtAttestationRequest f)) ∧
      (s.accepts 1 f = true → (mode = 0 ∨ mode = 1) → ∃ t, exec (.mgmtResetCommand f) s = .next t ∧ fresh t ∧ t.hub.boot.sequence = frameSeq f ∧
        t.hub.boot.mode = mode.toNat ∧ bit t.hub.trace.cfg 62 = (mode == 1)) ∧
      (s.accepts 1 f = true → 2 < mode.toNat → ∃ t, exec (.mgmtResetCommand f) s = .next t ∧ t.hub.boot.sequence = frameSeq f ∧ t.slots = s.slots ∧
        t.mem = s.mem) ∧
      (s.accepts 2 f = true → ∃ t, exec (.mgmtConfigurationWrite f) s = .next t ∧ t.hub.boot.sequence = frameSeq f ∧ t.slots = s.slots ∧ t.mem = s.mem ∧
        (if b.useB then t.hub.boot.copyB = b.copyB else t.hub.boot.copyA = b.copyA) ∧
        t.hub.boot.config = if (frameBody f).length = 512 then frameBody f else b.config) ∧
      (frameIs 3 f = true → (frameBody f).length = 32 → ∃ t, exec (.mgmtAttestationRequest f) s = .next t ∧ t.slots = s.slots ∧ t.mem = s.mem ∧
        t.hub.boot.replies = b.replies ++ [s.replyFrame f (s.attestation (frameBody f))])) ∧
    (nonce.length = 32 →
      let a := s.attestation nonce
      a.take 6 = toBytes 6 b.serial.toNat ∧ (a.drop 72).take 32 = b.measured ∧ (a.drop 104).take 32 = nonce ∧ (a.drop 136).take 8 = toBytes 8 s.ktick.toNat)

/-- Boot, entropy, power and links (R449, R452 to R454): a genuine image is measured and runs on the sixteen management cores from its first byte with
PRIV 11; another is followed by a fresh fetch 2 s later. A failed health test stops the entropy source and is reported; a recovery lets it serve
again. Above a limit the clock falls, after 100 samples below both it rises, and a die above the trip temperature powers the package down. A lost
port takes down the packages to which no route remains. -/
def Sys2Proof.Claim.PlatformEvents : Prop :=
  ∀ (s : State) (image : List Byte) (watts temp port : Nat),
    let b := s.hub.boot
    let clock := fun (t : State) (mhz : Nat) => t.hub.mhz = mhz ∧ t.hub.off = s.hub.off ∧ t.slots = s.slots ∧ t.mem = s.mem
    let hot := powerLimit < watts ∨ Config.tempLimit < temp
    ((b.booted = true ∨ s.ktick.toNat < b.fetchAt.toNat) → exec (.bootImageFetch image) s = .next s) ∧
    (b.booted = false → b.fetchAt.toNat ≤ s.ktick.toNat →
      (Config.imageGenuine image = false → exec (.bootImageFetch image) s =
        .next { s with hub := { s.hub with boot := { b with fetchAt := s.ktick + 2000000000 } } }) ∧
      (Config.imageGenuine image = true → ∃ t, exec (.bootImageFetch image) s = .next t ∧ t.hub.boot.booted = true ∧ t.hub.boot.measure = sm3 image ∧
        (∀ i < 16, (t.slot ((4096 + i) * 4)).phase = .running ∧ (t.slot ((4096 + i) * 4)).pc = 0 ∧ (t.slot ((4096 + i) * 4)).kstat = 3) ∧
        (∀ k, k < 16384 → t.slot k = s.slot k) ∧ t.mem = s.mem)) ∧
    (∃ t, exec .entropyHealthFailure s = .next t ∧ t.hub.entropyBad = true ∧ t.slots = s.slots ∧
      exec (.machineCheckRecord { kind := 0x0104, unitType := 0, unit := 0, addr := 0, detail := 0 })
        { s with hub := { s.hub with entropyBad := true } } = .next t) ∧
    exec .entropySourceRecovery s = .next { s with hub := { s.hub with entropyBad := false } } ∧
    (tripTemp < temp → ∃ t, exec (.powerSample watts temp) s = .next t ∧ t.hub.trip = true ∧ t.hub.off = true ∧ t.agenda = [] ∧ t.net = []) ∧
    (temp ≤ tripTemp → hot → ∃ t, exec (.powerSample watts temp) s = .next t ∧ clock t (greatest 1200 (s.hub.mhz - 100)) ∧ t.hub.coolFor = 0) ∧
    (temp ≤ tripTemp → ¬ hot → 99 ≤ s.hub.coolFor → ∃ t, exec (.powerSample watts temp) s = .next t ∧ clock t (least 3600 (s.hub.mhz + 100))) ∧
    (temp ≤ tripTemp → ¬ hot → s.hub.coolFor < 99 → ∃ t, exec (.powerSample watts temp) s = .next t ∧ clock t s.hub.mhz ∧
      t.hub.coolFor = s.hub.coolFor + 1) ∧
    (∃ t, exec (.linkRetryExhausted port) s = .next t ∧ port % 16 ∈ t.hub.lostPorts ∧
      let u := { s with hub := { s.hub with lostPorts := insertNat s.hub.lostPorts (port % 16) } }
      ∀ c ∈ s.chipsSeen, c < 2 ^ 20 → c ≠ s.hub.chipId.toNat → u.chipDown c = true → c ∈ t.hub.down)

/-- What reset leaves: device time and its fraction at 0 (R15), all of HBM reading as 0 (R232), every scratchpad tile THREAD (R252),
no far request counted (R200), every latch EMPTY (R178), no cluster fused off (R447), the registers with a reset value in the manual at that value
(R229, R380, R440, R441, R453), and no clause bound. That every other register reads 0 and is full, and that the CXL tier and the memories of cores
and clusters read as 0, is the model's choice (logs 1 and 2). -/
def Obligations.ResetState : Prop :=
  let s := State.reset
  s.ktick = 0 ∧ s.tickRem = 0 ∧ Memory.wf s.mem = true ∧ (∀ a, memRead s.mem a = 0) ∧
  (∀ k, (s.slot k).phase = .free ∧ (s.slot k).gen = 0 ∧ (s.slot k).trapNo = 0 ∧ (s.slot k).kstat = 0) ∧
  (∀ k r, (s.slot k).xr r = 0 ∧ (s.slot k).xmark r = .full ∧ (s.slot k).vr r = 0 ∧ (s.slot k).vmark r = .full) ∧
  (∀ cl t, (s.cluster cl).owner.get t false = false) ∧
  (∀ c, (s.core c).kreql = 0 ∧ (s.core c).kreqx = 0) ∧
  (∀ c x l, ((s.ctx c x).bl.get l {}).state = .empty) ∧
  (∀ cl, (s.debug cl).trcCtl = 0x1000000000000000 ∧ (s.debug cl).halted = false ∧ (s.debug cl).lossCtl = 0) ∧
  (∀ v, (s.vf v).enqStat = 0x8000000000000000 ∧ (s.vf v).ctl = 0) ∧
  s.hub.fused = [] ∧ s.hub.mhz = 3600 ∧ s.hub.tracker.ctl = 0x100000400E0A1000 ∧ s.hub.trace.cfg = 0x0006000000000000 ∧
  s.net = [] ∧ s.agenda = [] ∧ s.timers = []

/-- Words of each custom major and of the base decode to the instruction that the tables of R61 to R70 give them; a word that no row
lists, and one with a field value that is not allowed, is no instruction. -/
def Obligations.DecodeWords : Prop :=
  decode 0x0044040B#32 = .ok (.vaddF { e2 := false, e1 := false, w := 0, rs2 := 4, rs1 := 8, rd := 8 }) ∧
  decode 0x0074102B#32 = .ok (.mmaReg { e2 := false, e1 := false, w := 0, rs2 := 7, rs1 := 8, rd := 0 }) ∧
  decode 0xC01622DB#32 = .ok (.gld 6 { e1 := false, imm8 := 1, rs1 := 12, rd := 5 }) ∧
  decode 0x626AB05B#32 = .ok (.gst 3 { e2 := false, e1 := false, w := 1, rs2 := 6, rs1 := 21, imm5 := 0 }) ∧
  decode 0x436643DB#32 = .ok (.nmcas { e2 := false, e1 := false, w := 1, rs2 := 22, rs1 := 12, rd := 7 }) ∧
  decode 0x487444FB#32 = .ok (.min { e2 := false, e1 := true, w := 0, rs2 := 7, rs1 := 8, rd := 9 }) ∧
  decode 0x20B0107B#32 = .ok (.fen { e2 := false, e1 := false, w := 0, rs2 := 11, rs1 := 0, rd := 0 }) ∧
  decode 0xFF810113#32 = .ok (.baseAlu (.opImm .addi 2 2 0xFF8)) ∧
  decode 0x0062B423#32 = .ok (.baseStore .sd 5 6 8) ∧
  decode 0xFE629EE3#32 = .ok (.baseBranch .bne 5 6 0xFFE) ∧
  decode 0x00000073#32 = .ok .ecall ∧
  (∃ r, decode 0x467444FB#32 = .refused r) ∧ (∃ r, decode 0x00000000#32 = .refused r) ∧ (∃ r, decode 0xFFFFFFFF#32 = .refused r)

/-- Decoding what the encoder writes for a well-formed instruction gives that instruction back, with every operand; and a word that decodes
is the word that the encoder writes for its instruction, so no bit of a word is dropped (R60 to R72). -/
def Obligations.DecodeInvertsEncode : Prop :=
  (∀ (i : Instr) (w : BitVec 32), i.wf = true → (∀ v, i ≠ .illegalEncoding v) → encode i = some w → decode w = .ok i) ∧
  (∀ (i : Instr) (w : BitVec 32), decode w = .ok i → i.wf = true ∧ encode i = some w)

/-- A step runs the decoded instruction: where no watchdog has expired and a slot is the next to issue, the step is what its word's instruction
does, and then what units do that wait; a word that is no instruction, and on a management core one that such a core does not execute (R404), runs
as ILLEGAL_ENCODING. A watchdog that has expired comes first (R99). Where no slot is left to issue, the step is the next event, as long as the
cycle has events left; else the cycle is over. That a cycle is made of these steps in this order is the model's choice (log 3). -/
def Sys2Proof.Claim.StepRunsDecoded : Prop :=
  ∀ (s : State) (k : Nat), s.hub.off = false →
    let u := (s.issuing k).countIssue (coreOf k) false
    let runs := fun (i : Instr) => ∀ t, exec i u = .next t → step s = .next t.polls
    let idle := s.watchdogFirst = none ∧ s.nextSlot = none
    (∀ rest, s.agenda = .watchdog k :: rest → ∀ t, exec (.watchdog k) { s with agenda := rest } = .next t → step s = .next t.polls) ∧
    (s.watchdogFirst = none → s.nextSlot = some k →
      (∀ w, s.takeWord k = .inr w → let allowed := coreOf k < 4096 ∨ mgmtWord w = true
        (∀ i, decode w = .ok i → allowed → runs i) ∧
        ((∃ r, decode w = .refused r) ∨ ¬ allowed → runs (.illegalEncoding w))) ∧
      (∀ t, s.takeWord k = .inl t → step s = .next t.polls)) ∧
    (idle → 0 < s.eventsLeft → ∀ t e, s.nextEvent = some (t, some e) → ∀ v, exec e t = .next v → step s = .next v.after) ∧
    (idle → (s.eventsLeft = 0 ∨ s.nextEvent = none) → step s = .next s.tick) ∧
    ((s.debug (clusterOf (coreOf k))).samples = false → u = s.issuing k) ∧
    (∀ l, (s.slot k).line = some l → l.va = (s.slot k).lineVa → l.asid = s.asid k → l.poisoned = false → (s.slot k).fetchCause = none →
      s.breakpoint k = none → s.takeWord k = .inr (l.wordAt (s.slot k).pc)) ∧
    (∀ (l : Line) (pc : Word), (l.wordAt pc).toNat = l.data.toNat / 2 ^ (8 * (pc.toNat % 64)) % 2 ^ 32)

/-- A word that is placed for the first step after reset runs there, unless it is one that stalls there: the placing changes nothing that the fetch
does not need. -/
def Sys2Proof.Claim.PlacedWordRunsFirst : Prop :=
  ∀ (w : BitVec 32) (i : Instr), decode w = .ok i →
    let s := State.reset.withFetchWord 32 w.toNat
    (s.stalls 0 = false → ∀ t, exec i (s.issuing 0) = .next t → step s = .next t.polls) ∧ (s.stalls 0 = true → step s = .next s.tick)

/-- Slots take turns (R95): a cycle issues at most one instruction of each core, of a slot whose clause runs, that nothing holds, that no debug
module has stopped and whose next instruction does not stall; of a core's slots that are ready it is the next after the slot that issued last,
round-robin; and where none issues, none that the cycle has left is ready. Cores are served from the lowest up, which is the model's choice (log 3). -/
def Sys2Proof.Claim.SlotsTakeTurns : Prop :=
  ∀ s : State, (s.slots.map fun (e : Nat × Slot) => e.1).Pairwise (fun a b => a < b) →
    let ready := fun j => s.mayIssue j = true ∧ s.stalls j = false
    let turn := fun j => (j % 4 + 3 * (s.core (coreOf j)).lastSlot + 3) % 4
    (∀ k, s.nextSlot = some k → ready k ∧ s.coreNext ≤ coreOf k ∧
      (s.slot k).phase = .running ∧ (s.slot k).blocked = false ∧ (s.slot k).fetching = false ∧ s.stopped k = false ∧
      (∀ j, coreOf j = coreOf k → ready j → turn k ≤ turn j) ∧
      (∀ j sl, (j, sl) ∈ s.slots → s.coreNext ≤ coreOf j → ready j → coreOf k ≤ coreOf j) ∧
      (s.issuing k).coreNext = coreOf k + 1 ∧ ((s.issuing k).core (coreOf k)).lastSlot = k % 4 ∧ (s.issuing k).cur = k) ∧
    (s.nextSlot = none → ∀ j sl, (j, sl) ∈ s.slots → s.coreNext ≤ coreOf j → ¬ ready j) ∧
    (∀ k, s.stalls k = true → ∃ w t, s.takeWord k = .inr w ∧ exec (instrAt k w) (s.probe k) = .next t ∧ t.slot k = (s.probe k).slot k) ∧
    s.tick.coreNext = 0

/-- The invariant holds at reset. -/
def Obligations.ResetInv : Prop := Inv State.reset

/-- Every step keeps the invariant: the turn stays one of the two of the model's interleaving (log 3), the fraction of a nanosecond stays below
one (R15), and after every step no debug module holds a STEP for a slot whose one instruction is over (R433). -/
def Obligations.StepKeepsInv : Prop := ∀ s t : State, Inv s → Goes s t → Inv t

/-- No step of any state ends in a fault or a refusal: every stop that the manual names is a trap that the machine takes (R97). -/
def Sys2Proof.Claim.EveryStepGoesOn : Prop := ∀ s : State, ∃ t, Goes s t

/-- The common checks in their order (R73): a group that is not aligned raises 0x01, a pending prefix that the instruction does not take 0x02,
too little privilege 0x06; then the sources in order, of which an empty one traps with 0x03 and its register or stalls, and a marked one raises
what its marker holds, and one whose parity fails raises 0x05 (in this order for one source, log 94); then a destination with an empty member
raises 0x04. A slot whose requests are out stays as it is. An instruction that passes them all has its effect, and a trap of its own is taken. -/
def Obligations.CommonChecksComeInOrder : Prop :=
  ∀ (s : State) (n : Need) (body : Res State),
    let o := s.sl
    let out := s.run n body
    let w : Word := n.word.setWidth 64
    let aligned := ∀ g ∈ n.groups, g.1 % g.2 = 0
    let prefixed := n.format = true ∨ o.pp = false
    let clear := fun (x : Src) => ∀ i < x.count, o.mark x.vec (x.reg + i) = .full
    (o.blocked = true → out = s) ∧
    (o.blocked = false →
      (¬ aligned → out = s.trap 0x01 w) ∧
      (aligned → ¬ prefixed → out = s.trap 0x02 w) ∧
      (aligned → prefixed → o.priv < n.priv → out = s.trap 0x06 w) ∧
      (aligned → prefixed → n.priv ≤ o.priv → ∀ before x later, n.srcs = before ++ x :: later → (∀ y ∈ before, clear y) → ∀ i < x.count,
        (o.mark x.vec (x.reg + i) = .empty → (∀ j < i, o.mark x.vec (x.reg + j) ≠ .empty) →
          out = if x.trap then s.trap 0x03 (regId x.vec (x.reg + i) x.field) else s) ∧
        (∀ c a, o.mark x.vec (x.reg + i) = .marked c a → (∀ j < x.count, o.mark x.vec (x.reg + j) ≠ .empty) →
          (∀ j < i, o.mark x.vec (x.reg + j) = .full) → out = s.raise c a) ∧
        (o.mark x.vec (x.reg + i) = .faulty → (∀ j < x.count, j ≠ i → o.mark x.vec (x.reg + j) = .full) →
          out = s.trap 0x05 (regId x.vec (x.reg + i) x.field))) ∧
      (aligned → prefixed → n.priv ≤ o.priv → (∀ x ∈ n.srcs, clear x) → ∀ before d later, n.dsts = before ++ d :: later →
        (∀ e ∈ before, ∀ i < e.count, o.mark e.vec (e.reg + i) ≠ .empty) → ∀ i < d.count, o.mark d.vec (d.reg + i) = .empty →
        (∀ j < i, o.mark d.vec (d.reg + j) ≠ .empty) → out = s.trap 0x04 (regId d.vec (d.reg + i) d.field))) ∧
    (Ready s n.srcs n.dsts n.groups n.format n.priv →
      (∀ t, body = .ok t → out = t) ∧ (∀ c a, body = .trap c a → out = s.raise c a ∧ (c ≠ 0x50 → out = s.trap c a)) ∧ (body = .stall → out = s))

/-- What a register instruction leaves unchanged (R65, R66, R82, R87): its destination group, the flags it raises, the pending prefix, the
loop counts and the program counter apart, nothing changes, in the slot or elsewhere; a flag once set stays set; memory stays as it is. -/
def Sys2Proof.Claim.RegisterInstructionsChangeNothingElse : Prop :=
  ∀ (s : State) (rd : Nat) (v : Word) (vs : List VWord) (f : Flags),
    let a := s.finishX rd v
    let b := s.finishXF rd v f
    let c := s.finishV rd vs f
    OnlyRegisters s s.complete false 0 0 ∧ s.complete.sl.flags = s.sl.flags ∧
    OnlyRegisters s a false rd 1 ∧ a.sl.flags = s.sl.flags ∧ (rd ≠ 0 → a.sl.xr rd = v ∧ a.sl.xmark rd = .full) ∧
    OnlyRegisters s b false rd 1 ∧ b.sl.flags = s.sl.flags ||| f.toNat ∧ (rd ≠ 0 → b.sl.xr rd = v ∧ b.sl.xmark rd = .full) ∧
    OnlyRegisters s c true rd vs.length ∧ c.sl.flags = s.sl.flags ||| f.toNat ∧
    (∀ i < vs.length, c.sl.vr (rd + i) = vs.getD i 0 ∧ c.sl.vmark (rd + i) = .full) ∧
    a.mem = s.mem ∧ b.mem = s.mem ∧ c.mem = s.mem

/-- Registers read what was last written to them, and an instruction that writes a register changes nothing else (R65, R66, R82, R87). -/
def Obligations.RegistersHoldTheirValues : Prop :=
  Claim.RegistersReadWhatWasWritten ∧ Claim.RegisterInstructionsChangeNothingElse

/-- The hardware loops: how a loop starts (R86), and what completing an instruction does at its end (R66, R87). -/
def Obligations.LoopsStartAndEnd : Prop :=
  Claim.LoopsStartOrSkip ∧ Claim.CompletionFollowsTheLoopRule ∧ Claim.JumpsAndWritesAtLoopEnds

/-- Taking a trap (R97): what the slot saves, and where its report goes (R98, R405, R406). -/
def Obligations.TrapsFreezeAndReport : Prop :=
  Claim.TrapSavesAndFreezes ∧ Claim.TrapReportGoesToItsHandler

/-- The integer words of RV64I and M (R76). -/
def Obligations.IntegerResults : Prop :=
  Claim.BaseAluResults ∧ Claim.MultiplyDivideResults

/-- The base loads and stores, near (R77, R78, R195) and far (R199 to R201). -/
def Obligations.BaseLoadsAndStores : Prop :=
  Claim.NearLoadsAndStores ∧ Claim.FarLoadsAndStores

/-- The words of SYSTEM and FENCE, and a word that is no instruction (R61, R74, R80 to R82, R431). -/
def Obligations.SystemWordsOfTheBase : Prop :=
  Claim.EnvironmentWordsTrap ∧ Claim.ControlRegisterForms ∧ Claim.UnknownControlRegisterTraps

/-- The scalar extras (R84, R85) and `align` (R94). -/
def Obligations.ScalarExtrasAndAlign : Prop :=
  Claim.ScalarExtras ∧ Claim.AlignHoldsAndReleases

/-- Scalar floating point (R89 to R92), and the payloads that it and the lanes take (R164, R175). -/
def Obligations.ScalarFloats : Prop :=
  Claim.ScalarFloatResults ∧ Claim.PlainPayloadRequired

/-- Integer lanes: arithmetic and shifts, compares, and logic (R140 to R142). -/
def Obligations.VectorIntegers : Prop :=
  Claim.VectorIntegerResults ∧ Claim.VectorCompareResults ∧ Claim.VectorLogicResults ∧ Claim.LaneWordsRefuseAPrefix

/-- Lane moves, packing and conversion. -/
def Obligations.VectorMovesAndConversions : Prop :=
  Claim.LaneMoveResults ∧ Claim.PackAndUnpackResults ∧ Claim.ConversionResults

/-- Reductions and rankings over lanes. -/
def Obligations.VectorReductions : Prop :=
  Claim.ReductionResults ∧ Claim.TopkRanksTheLanes ∧ Claim.RankingsRefuseAPrefix

/-- Near stores, and the forwarding table through which they reach another stripe (R245, R248). -/
def Obligations.NearStoresAreForwarded : Prop :=
  Claim.NearStoreWritesItsBytes ∧ Claim.ForwardingEntryReachesItsStripe

/-- Vector loads and stores and posted accesses, near and far. -/
def Obligations.VectorAndPostedAccesses : Prop :=
  Claim.NearVectorAndPostedAccesses ∧ Claim.FarVectorAndPostedAccesses

/-- Gathers, scatters and streams. -/
def Obligations.GatherScatterAndStreams : Prop :=
  Claim.GatherAndScatter ∧ Claim.StreamDeliveries

/-- Accumulator tiles and latches: clearing, loads, stores, and acceptance of a step. -/
def Obligations.TilesAndLatches : Prop :=
  Claim.TilesClearLoadAndStore ∧ Claim.LatchLoadAndMatrixAcceptance

/-- What matrix steps add to their tile. -/
def Obligations.MatrixSteps : Prop :=
  Claim.MatrixStepsAccumulate ∧ Claim.IntegerStepIsTheExactSum

/-- `mgeo`, and the parts it cuts. -/
def Obligations.Geometry : Prop :=
  Claim.GeometryWords ∧ Claim.GeometryPartsCoverTheWhole

/-- Sends, replies and the bits of channels. -/
def Obligations.SendsAndChannels : Prop :=
  Claim.SendsQueueOneMessage ∧ Claim.ChannelBits

/-- Suspension, spawning, joining and the end of a clause. -/
def Obligations.ClausesSuspendSpawnAndEnd : Prop :=
  Claim.SuspensionWritesTheRecord ∧ Claim.SpawnAndExit ∧ Claim.EndingClauseDropsItsRegistrations

/-- Fences and tile ownership. -/
def Obligations.Fences : Prop :=
  Claim.FencesAndOwnership ∧ Claim.PendingFencesHoldTheNextAccess

/-- Atomics, barrier instructions and `grp`. -/
def Obligations.AtomicsAndBarriers : Prop :=
  Claim.AtomicsAskTheHome ∧ Claim.BarrierInstructionsAskTheObject ∧ Claim.GroupMemberIsRead

/-- Instructions on tensed words, and on laws. -/
def Obligations.TensedInstructions : Prop :=
  Claim.WordInstructionsAskTheLawUnit ∧ Claim.LawInstructionsAskTheHub

/-- What homes do with reads and writes, and with whom they admit. -/
def Obligations.HomesReadAndWrite : Prop :=
  Claim.HomeReadsAndWrites ∧ Claim.HomeAdmitsOwnersAndTableEntries

/-- Atomics and barrier objects at homes. -/
def Obligations.HomeAtomicsAndBarriers : Prop :=
  Claim.HomeAtomics ∧ Claim.BarrierObjectPhases

/-- Messages that channels, clauses and records take. -/
def Obligations.MessagesArrive : Prop :=
  Claim.HandlerMessagesQueueAtTheirChannel ∧ Claim.ClauseMessagesTakeEffect

/-- The fetch port and the watchdog (R93, R96). -/
def Obligations.FetchPortAndWatchdog : Prop :=
  Claim.FetchPortDeliversLines ∧ Claim.WatchdogEndsTheClause

/-- Copy and transfer commands, from the instruction to the engine. -/
def Obligations.CopyCommands : Prop :=
  Claim.CopyCommandsAreQueued ∧ Claim.CopyIdsAreAnswered ∧ Claim.EnginesRunCommands

/-- Tensed words at their law unit: touches, crossings and budgets. -/
def Obligations.TensedWords : Prop :=
  Claim.WordsAreTouchedAtTheirLaw ∧ Claim.CrossingsAndBudgets

/-- Name units: requests, shoot-downs and commits. -/
def Obligations.NameUnits : Prop :=
  Claim.NameUnitPerformsRequests ∧ Claim.ShootDownsAndCommits

/-- The kernel's name commands, translations and lost packages. -/
def Obligations.NameCommandsAndLostPackages : Prop :=
  Claim.KernelNameCommands ∧ Claim.TranslationsAndLostPackages

/-- Launch, system and trace instructions. -/
def Obligations.SystemInstructionsAsk : Prop :=
  Claim.LaunchInstructionsAsk ∧ Claim.SystemInstructions ∧ Claim.TraceInstructions

/-- Package resets, management frames and the platform's events. -/
def Obligations.PackageEvents : Prop :=
  Claim.PackageResetsAndFrames ∧ Claim.PlatformEvents

/-- A step runs the decoded instruction, and a placed word runs first after reset. -/
def Obligations.StepsRunInstructions : Prop :=
  Claim.StepRunsDecoded ∧ Claim.PlacedWordRunsFirst

/-- Slots take turns (R95), and no step ends in a fault or a refusal (R97). -/
def Obligations.StepsGoOnInTurn : Prop :=
  Claim.SlotsTakeTurns ∧ Claim.EveryStepGoesOn
end

