-- ==== Sys2Proof/Laws/Bits.lean ====
section
/-!
SUPPORT. Bit fields: what a field reads after another has been replaced (00_scope.md R3).
-/
namespace Sys2Proof.Machine

theorem bitsOf_lt (v lo n : Nat) : bitsOf v lo n < 2 ^ n := Nat.mod_lt _ (Nat.two_pow_pos n)

/-- A field is its bits. -/
theorem testBit_bitsOf (v lo n i : Nat) : (bitsOf v lo n).testBit i = (decide (i < n) && v.testBit (lo + i)) := by
  rw [bitsOf, Nat.testBit_mod_two_pow, Nat.testBit_div_two_pow, Nat.add_comm i lo]

/-- One bit of a number is its `testBit`. -/
theorem bitOf_eq_testBit (v i : Nat) : bitOf v i = v.testBit i := by
  rw [bitOf, Nat.testBit_eq_decide_div_mod_eq]; simp [BEq.beq]

theorem bit_eq_getLsbD (w : BitVec 64) (i : Nat) : bit w i = w.getLsbD i := by rw [bit, bitOf_eq_testBit]; rfl

/-- A number with a field replaced, by its bits. -/
theorem testBit_withBits (v lo n x i : Nat) :
    (withBits v lo n x).testBit i = if lo ≤ i ∧ i < lo + n then x.testBit (i - lo) else v.testBit i := by
  have h1 := Nat.div_add_mod v (2 ^ lo)
  have h2 := Nat.div_add_mod (v / 2 ^ lo) (2 ^ n)
  have e : withBits v lo n x = 2 ^ lo * (2 ^ n * (v / 2 ^ lo / 2 ^ n) + x % 2 ^ n) + v % 2 ^ lo := by
    have hd : v = 2 ^ lo * (2 ^ n * (v / 2 ^ lo / 2 ^ n) + v / 2 ^ lo % 2 ^ n) + v % 2 ^ lo := by rw [h2, h1]
    have hm : bitsOf v lo n = v / 2 ^ lo % 2 ^ n := rfl
    rw [withBits, hm, Nat.mul_comm _ (2 ^ lo), Nat.mul_comm (x % 2 ^ n) (2 ^ lo)]
    rw [Nat.mul_add] at hd ⊢
    omega
  rw [e]
  have hlo : v % 2 ^ lo < 2 ^ lo := Nat.mod_lt _ (Nat.two_pow_pos _)
  have hx : x % 2 ^ n < 2 ^ n := Nat.mod_lt _ (Nat.two_pow_pos _)
  rw [Nat.testBit_two_pow_mul_add _ hlo]
  by_cases hi : i < lo
  · rw [if_pos hi, if_neg (by omega), Nat.testBit_mod_two_pow]; simp [hi]
  · rw [if_neg hi, Nat.testBit_two_pow_mul_add _ hx]
    by_cases hn : i - lo < n
    · rw [if_pos hn, if_pos (by omega), Nat.testBit_mod_two_pow]; simp [hn]
    · rw [if_neg hn, if_neg (by omega), Nat.testBit_div_two_pow, Nat.testBit_div_two_pow]; congr 1; omega

/-- A word with a field replaced, by its bits. -/
theorem bit_withFld (w : BitVec 64) (lo n x i : Nat) (h : i < 64) :
    bit (withFld w lo n x) i = if lo ≤ i ∧ i < lo + n then x.testBit (i - lo) else bit w i := by
  rw [bit_eq_getLsbD, withFld, bit, bitOf_eq_testBit, word, BitVec.getLsbD_ofNat, testBit_withBits]
  simp [h]

theorem bit_withFld_other (w : BitVec 64) (lo n x i : Nat) (h : i < lo ∨ lo + n ≤ i) : bit (withFld w lo n x) i = bit w i := by
  by_cases hi : i < 64
  · rw [bit_withFld _ _ _ _ _ hi, if_neg (by omega)]
  · rw [bit_eq_getLsbD, bit_eq_getLsbD, BitVec.getLsbD_of_ge _ _ (by omega), BitVec.getLsbD_of_ge _ _ (by omega)]

theorem bit_withFld_zero (w : BitVec 64) (i : Nat) (h : i < 64) : bit (withFld w i 1 (false.toNat)) i = false := by
  rw [bit_withFld _ _ _ _ _ h, if_pos (by omega)]; simp

/-- Two fields are equal where their bits are. -/
theorem fld_congr (a b : BitVec 64) (lo n : Nat) (h : ∀ i, lo ≤ i → i < lo + n → bit a i = bit b i) : fld a lo n = fld b lo n := by
  apply Nat.eq_of_testBit_eq
  intro i
  rw [fld, fld, testBit_bitsOf, testBit_bitsOf]
  by_cases hi : i < n
  · have := h (lo + i) (by omega) (by omega)
    rw [bit, bit, bitOf_eq_testBit, bitOf_eq_testBit] at this; rw [this]
  · simp [hi]

theorem fld_withFld_of_disjoint (w : BitVec 64) (lo n x p m : Nat) (h : p + m ≤ lo ∨ lo + n ≤ p) (_ : p + m ≤ 64) :
    fld (withFld w lo n x) p m = fld w p m := by
  apply fld_congr
  intro i h1 h2
  exact bit_withFld_other _ _ _ _ _ (by omega)

theorem fld_withFld_same (w : BitVec 64) (lo n x : Nat) (h : lo + n ≤ 64) : fld (withFld w lo n x) lo n = x % 2 ^ n := by
  apply Nat.eq_of_testBit_eq
  intro i
  rw [fld, testBit_bitsOf, Nat.testBit_mod_two_pow]
  by_cases hi : i < n
  · have := bit_withFld w lo n x (lo + i) (by omega)
    rw [bit, bitOf_eq_testBit, if_pos (by omega)] at this; rw [this]; simp [hi]
  · simp [hi]

/-- A field after other bits have been set at its place. -/
theorem fld_or_shift (w : BitVec 64) (f : BitVec 5) (lo : Nat) (h : lo + 5 ≤ 64) :
    fld (w ||| (f.setWidth 64 <<< lo)) lo 5 = fld w lo 5 ||| f.toNat := by
  apply Nat.eq_of_testBit_eq
  intro i
  rw [fld, fld, testBit_bitsOf, Nat.testBit_or, testBit_bitsOf]
  by_cases hi : i < 5
  · have e : ∀ v : BitVec 64, v.toNat.testBit (lo + i) = v.getLsbD (lo + i) := fun _ => rfl
    rw [e, e, BitVec.getLsbD_or, BitVec.getLsbD_shiftLeft, BitVec.getLsbD_setWidth]
    have e' : f.toNat.testBit i = f.getLsbD i := rfl
    simp [hi, e', show lo + i < 64 by omega, show ¬ lo + i < lo by omega, show lo + i - lo = i by omega, show i < 64 by omega]
  · have : f.toNat.testBit i = false := Nat.testBit_lt_two_pow (Nat.lt_of_lt_of_le f.isLt (Nat.pow_le_pow_right (by omega) (by omega)))
    simp [hi, this]

theorem bit_or_shift_other (w : BitVec 64) (f : BitVec 5) (lo i : Nat) (h : i < lo ∨ lo + 5 ≤ i) :
    bit (w ||| (f.setWidth 64 <<< lo)) i = bit w i := by
  rw [bit_eq_getLsbD, bit_eq_getLsbD, BitVec.getLsbD_or, BitVec.getLsbD_shiftLeft, BitVec.getLsbD_setWidth]
  rcases h with h | h
  · simp [h]
  · have : f.getLsbD (i - lo) = false := BitVec.getLsbD_of_ge _ _ (by omega)
    simp [this]

end Sys2Proof.Machine
end

