-- ==== Sys2Proof/Laws/State.lean ====
section
/-!
SUPPORT. What each named update of the state leaves unchanged, field by field, and what the units read after it.
-/
namespace Sys2Proof.Machine

/-! ### `setSlot` writes `slots` only -/

@[simp] theorem State.setSlot_cur (s : State) (k : Nat) (v : Slot) : (s.setSlot k v).cur = s.cur := rfl
@[simp] theorem State.setSlot_cores (s : State) (k : Nat) (v : Slot) : (s.setSlot k v).cores = s.cores := rfl
@[simp] theorem State.setSlot_clusters (s : State) (k : Nat) (v : Slot) : (s.setSlot k v).clusters = s.clusters := rfl
@[simp] theorem State.setSlot_stackTab (s : State) (k : Nat) (v : Slot) : (s.setSlot k v).stackTab = s.stackTab := rfl
@[simp] theorem State.setSlot_hub (s : State) (k : Nat) (v : Slot) : (s.setSlot k v).hub = s.hub := rfl
@[simp] theorem State.setSlot_mem (s : State) (k : Nat) (v : Slot) : (s.setSlot k v).mem = s.mem := rfl
@[simp] theorem State.setSlot_poison (s : State) (k : Nat) (v : Slot) : (s.setSlot k v).poison = s.poison := rfl
@[simp] theorem State.setSlot_nearBad (s : State) (k : Nat) (v : Slot) : (s.setSlot k v).nearBad = s.nearBad := rfl
@[simp] theorem State.setSlot_net (s : State) (k : Nat) (v : Slot) : (s.setSlot k v).net = s.net := rfl
@[simp] theorem State.setSlot_fabricOut (s : State) (k : Nat) (v : Slot) : (s.setSlot k v).fabricOut = s.fabricOut := rfl
@[simp] theorem State.setSlot_agenda (s : State) (k : Nat) (v : Slot) : (s.setSlot k v).agenda = s.agenda := rfl
@[simp] theorem State.setSlot_timers (s : State) (k : Nat) (v : Slot) : (s.setSlot k v).timers = s.timers := rfl
@[simp] theorem State.setSlot_turn (s : State) (k : Nat) (v : Slot) : (s.setSlot k v).turn = s.turn := rfl
@[simp] theorem State.setSlot_coreNext (s : State) (k : Nat) (v : Slot) : (s.setSlot k v).coreNext = s.coreNext := rfl
@[simp] theorem State.setSlot_eventsLeft (s : State) (k : Nat) (v : Slot) : (s.setSlot k v).eventsLeft = s.eventsLeft := rfl
@[simp] theorem State.setSlot_stored (s : State) (k : Nat) (v : Slot) : (s.setSlot k v).stored = s.stored := rfl
@[simp] theorem State.setSlot_weak (s : State) (k : Nat) (v : Slot) : (s.setSlot k v).weak = s.weak := rfl
@[simp] theorem State.setSlot_nearWeak (s : State) (k : Nat) (v : Slot) : (s.setSlot k v).nearWeak = s.nearWeak := rfl
@[simp] theorem State.setSlot_ktick (s : State) (k : Nat) (v : Slot) : (s.setSlot k v).ktick = s.ktick := rfl
@[simp] theorem State.setSlot_tickRem (s : State) (k : Nat) (v : Slot) : (s.setSlot k v).tickRem = s.tickRem := rfl
@[simp] theorem State.setSlot_srcSeq (s : State) (k : Nat) (v : Slot) : (s.setSlot k v).srcSeq = s.srcSeq := rfl
@[simp] theorem State.setSlot_draws (s : State) (k : Nat) (v : Slot) : (s.setSlot k v).draws = s.draws := rfl

/-! ### `modSlot` writes `slots` only -/

@[simp] theorem State.modSlot_cur (s : State) (k : Nat) (f : Slot → Slot) : (s.modSlot k f).cur = s.cur := rfl
@[simp] theorem State.modSlot_cores (s : State) (k : Nat) (f : Slot → Slot) : (s.modSlot k f).cores = s.cores := rfl
@[simp] theorem State.modSlot_clusters (s : State) (k : Nat) (f : Slot → Slot) : (s.modSlot k f).clusters = s.clusters := rfl
@[simp] theorem State.modSlot_stackTab (s : State) (k : Nat) (f : Slot → Slot) : (s.modSlot k f).stackTab = s.stackTab := rfl
@[simp] theorem State.modSlot_hub (s : State) (k : Nat) (f : Slot → Slot) : (s.modSlot k f).hub = s.hub := rfl
@[simp] theorem State.modSlot_mem (s : State) (k : Nat) (f : Slot → Slot) : (s.modSlot k f).mem = s.mem := rfl
@[simp] theorem State.modSlot_poison (s : State) (k : Nat) (f : Slot → Slot) : (s.modSlot k f).poison = s.poison := rfl
@[simp] theorem State.modSlot_nearBad (s : State) (k : Nat) (f : Slot → Slot) : (s.modSlot k f).nearBad = s.nearBad := rfl
@[simp] theorem State.modSlot_net (s : State) (k : Nat) (f : Slot → Slot) : (s.modSlot k f).net = s.net := rfl
@[simp] theorem State.modSlot_fabricOut (s : State) (k : Nat) (f : Slot → Slot) : (s.modSlot k f).fabricOut = s.fabricOut := rfl
@[simp] theorem State.modSlot_agenda (s : State) (k : Nat) (f : Slot → Slot) : (s.modSlot k f).agenda = s.agenda := rfl
@[simp] theorem State.modSlot_timers (s : State) (k : Nat) (f : Slot → Slot) : (s.modSlot k f).timers = s.timers := rfl
@[simp] theorem State.modSlot_turn (s : State) (k : Nat) (f : Slot → Slot) : (s.modSlot k f).turn = s.turn := rfl
@[simp] theorem State.modSlot_coreNext (s : State) (k : Nat) (f : Slot → Slot) : (s.modSlot k f).coreNext = s.coreNext := rfl
@[simp] theorem State.modSlot_eventsLeft (s : State) (k : Nat) (f : Slot → Slot) : (s.modSlot k f).eventsLeft = s.eventsLeft := rfl
@[simp] theorem State.modSlot_stored (s : State) (k : Nat) (f : Slot → Slot) : (s.modSlot k f).stored = s.stored := rfl
@[simp] theorem State.modSlot_weak (s : State) (k : Nat) (f : Slot → Slot) : (s.modSlot k f).weak = s.weak := rfl
@[simp] theorem State.modSlot_nearWeak (s : State) (k : Nat) (f : Slot → Slot) : (s.modSlot k f).nearWeak = s.nearWeak := rfl
@[simp] theorem State.modSlot_ktick (s : State) (k : Nat) (f : Slot → Slot) : (s.modSlot k f).ktick = s.ktick := rfl
@[simp] theorem State.modSlot_tickRem (s : State) (k : Nat) (f : Slot → Slot) : (s.modSlot k f).tickRem = s.tickRem := rfl
@[simp] theorem State.modSlot_srcSeq (s : State) (k : Nat) (f : Slot → Slot) : (s.modSlot k f).srcSeq = s.srcSeq := rfl
@[simp] theorem State.modSlot_draws (s : State) (k : Nat) (f : Slot → Slot) : (s.modSlot k f).draws = s.draws := rfl

/-! ### `modCur` writes `slots` only -/

@[simp] theorem State.modCur_cur (s : State) (f : Slot → Slot) : (s.modCur f).cur = s.cur := rfl
@[simp] theorem State.modCur_cores (s : State) (f : Slot → Slot) : (s.modCur f).cores = s.cores := rfl
@[simp] theorem State.modCur_clusters (s : State) (f : Slot → Slot) : (s.modCur f).clusters = s.clusters := rfl
@[simp] theorem State.modCur_stackTab (s : State) (f : Slot → Slot) : (s.modCur f).stackTab = s.stackTab := rfl
@[simp] theorem State.modCur_hub (s : State) (f : Slot → Slot) : (s.modCur f).hub = s.hub := rfl
@[simp] theorem State.modCur_mem (s : State) (f : Slot → Slot) : (s.modCur f).mem = s.mem := rfl
@[simp] theorem State.modCur_poison (s : State) (f : Slot → Slot) : (s.modCur f).poison = s.poison := rfl
@[simp] theorem State.modCur_nearBad (s : State) (f : Slot → Slot) : (s.modCur f).nearBad = s.nearBad := rfl
@[simp] theorem State.modCur_net (s : State) (f : Slot → Slot) : (s.modCur f).net = s.net := rfl
@[simp] theorem State.modCur_fabricOut (s : State) (f : Slot → Slot) : (s.modCur f).fabricOut = s.fabricOut := rfl
@[simp] theorem State.modCur_agenda (s : State) (f : Slot → Slot) : (s.modCur f).agenda = s.agenda := rfl
@[simp] theorem State.modCur_timers (s : State) (f : Slot → Slot) : (s.modCur f).timers = s.timers := rfl
@[simp] theorem State.modCur_turn (s : State) (f : Slot → Slot) : (s.modCur f).turn = s.turn := rfl
@[simp] theorem State.modCur_coreNext (s : State) (f : Slot → Slot) : (s.modCur f).coreNext = s.coreNext := rfl
@[simp] theorem State.modCur_eventsLeft (s : State) (f : Slot → Slot) : (s.modCur f).eventsLeft = s.eventsLeft := rfl
@[simp] theorem State.modCur_stored (s : State) (f : Slot → Slot) : (s.modCur f).stored = s.stored := rfl
@[simp] theorem State.modCur_weak (s : State) (f : Slot → Slot) : (s.modCur f).weak = s.weak := rfl
@[simp] theorem State.modCur_nearWeak (s : State) (f : Slot → Slot) : (s.modCur f).nearWeak = s.nearWeak := rfl
@[simp] theorem State.modCur_ktick (s : State) (f : Slot → Slot) : (s.modCur f).ktick = s.ktick := rfl
@[simp] theorem State.modCur_tickRem (s : State) (f : Slot → Slot) : (s.modCur f).tickRem = s.tickRem := rfl
@[simp] theorem State.modCur_srcSeq (s : State) (f : Slot → Slot) : (s.modCur f).srcSeq = s.srcSeq := rfl
@[simp] theorem State.modCur_draws (s : State) (f : Slot → Slot) : (s.modCur f).draws = s.draws := rfl

/-! ### `setCore` writes `cores` only -/

@[simp] theorem State.setCore_cur (s : State) (k : Nat) (v : Core) : (s.setCore k v).cur = s.cur := rfl
@[simp] theorem State.setCore_slots (s : State) (k : Nat) (v : Core) : (s.setCore k v).slots = s.slots := rfl
@[simp] theorem State.setCore_clusters (s : State) (k : Nat) (v : Core) : (s.setCore k v).clusters = s.clusters := rfl
@[simp] theorem State.setCore_stackTab (s : State) (k : Nat) (v : Core) : (s.setCore k v).stackTab = s.stackTab := rfl
@[simp] theorem State.setCore_hub (s : State) (k : Nat) (v : Core) : (s.setCore k v).hub = s.hub := rfl
@[simp] theorem State.setCore_mem (s : State) (k : Nat) (v : Core) : (s.setCore k v).mem = s.mem := rfl
@[simp] theorem State.setCore_poison (s : State) (k : Nat) (v : Core) : (s.setCore k v).poison = s.poison := rfl
@[simp] theorem State.setCore_nearBad (s : State) (k : Nat) (v : Core) : (s.setCore k v).nearBad = s.nearBad := rfl
@[simp] theorem State.setCore_net (s : State) (k : Nat) (v : Core) : (s.setCore k v).net = s.net := rfl
@[simp] theorem State.setCore_fabricOut (s : State) (k : Nat) (v : Core) : (s.setCore k v).fabricOut = s.fabricOut := rfl
@[simp] theorem State.setCore_agenda (s : State) (k : Nat) (v : Core) : (s.setCore k v).agenda = s.agenda := rfl
@[simp] theorem State.setCore_timers (s : State) (k : Nat) (v : Core) : (s.setCore k v).timers = s.timers := rfl
@[simp] theorem State.setCore_turn (s : State) (k : Nat) (v : Core) : (s.setCore k v).turn = s.turn := rfl
@[simp] theorem State.setCore_coreNext (s : State) (k : Nat) (v : Core) : (s.setCore k v).coreNext = s.coreNext := rfl
@[simp] theorem State.setCore_eventsLeft (s : State) (k : Nat) (v : Core) : (s.setCore k v).eventsLeft = s.eventsLeft := rfl
@[simp] theorem State.setCore_stored (s : State) (k : Nat) (v : Core) : (s.setCore k v).stored = s.stored := rfl
@[simp] theorem State.setCore_weak (s : State) (k : Nat) (v : Core) : (s.setCore k v).weak = s.weak := rfl
@[simp] theorem State.setCore_nearWeak (s : State) (k : Nat) (v : Core) : (s.setCore k v).nearWeak = s.nearWeak := rfl
@[simp] theorem State.setCore_ktick (s : State) (k : Nat) (v : Core) : (s.setCore k v).ktick = s.ktick := rfl
@[simp] theorem State.setCore_tickRem (s : State) (k : Nat) (v : Core) : (s.setCore k v).tickRem = s.tickRem := rfl
@[simp] theorem State.setCore_srcSeq (s : State) (k : Nat) (v : Core) : (s.setCore k v).srcSeq = s.srcSeq := rfl
@[simp] theorem State.setCore_draws (s : State) (k : Nat) (v : Core) : (s.setCore k v).draws = s.draws := rfl

/-! ### `modCore` writes `cores` only -/

@[simp] theorem State.modCore_cur (s : State) (k : Nat) (f : Core → Core) : (s.modCore k f).cur = s.cur := rfl
@[simp] theorem State.modCore_slots (s : State) (k : Nat) (f : Core → Core) : (s.modCore k f).slots = s.slots := rfl
@[simp] theorem State.modCore_clusters (s : State) (k : Nat) (f : Core → Core) : (s.modCore k f).clusters = s.clusters := rfl
@[simp] theorem State.modCore_stackTab (s : State) (k : Nat) (f : Core → Core) : (s.modCore k f).stackTab = s.stackTab := rfl
@[simp] theorem State.modCore_hub (s : State) (k : Nat) (f : Core → Core) : (s.modCore k f).hub = s.hub := rfl
@[simp] theorem State.modCore_mem (s : State) (k : Nat) (f : Core → Core) : (s.modCore k f).mem = s.mem := rfl
@[simp] theorem State.modCore_poison (s : State) (k : Nat) (f : Core → Core) : (s.modCore k f).poison = s.poison := rfl
@[simp] theorem State.modCore_nearBad (s : State) (k : Nat) (f : Core → Core) : (s.modCore k f).nearBad = s.nearBad := rfl
@[simp] theorem State.modCore_net (s : State) (k : Nat) (f : Core → Core) : (s.modCore k f).net = s.net := rfl
@[simp] theorem State.modCore_fabricOut (s : State) (k : Nat) (f : Core → Core) : (s.modCore k f).fabricOut = s.fabricOut := rfl
@[simp] theorem State.modCore_agenda (s : State) (k : Nat) (f : Core → Core) : (s.modCore k f).agenda = s.agenda := rfl
@[simp] theorem State.modCore_timers (s : State) (k : Nat) (f : Core → Core) : (s.modCore k f).timers = s.timers := rfl
@[simp] theorem State.modCore_turn (s : State) (k : Nat) (f : Core → Core) : (s.modCore k f).turn = s.turn := rfl
@[simp] theorem State.modCore_coreNext (s : State) (k : Nat) (f : Core → Core) : (s.modCore k f).coreNext = s.coreNext := rfl
@[simp] theorem State.modCore_eventsLeft (s : State) (k : Nat) (f : Core → Core) : (s.modCore k f).eventsLeft = s.eventsLeft := rfl
@[simp] theorem State.modCore_stored (s : State) (k : Nat) (f : Core → Core) : (s.modCore k f).stored = s.stored := rfl
@[simp] theorem State.modCore_weak (s : State) (k : Nat) (f : Core → Core) : (s.modCore k f).weak = s.weak := rfl
@[simp] theorem State.modCore_nearWeak (s : State) (k : Nat) (f : Core → Core) : (s.modCore k f).nearWeak = s.nearWeak := rfl
@[simp] theorem State.modCore_ktick (s : State) (k : Nat) (f : Core → Core) : (s.modCore k f).ktick = s.ktick := rfl
@[simp] theorem State.modCore_tickRem (s : State) (k : Nat) (f : Core → Core) : (s.modCore k f).tickRem = s.tickRem := rfl
@[simp] theorem State.modCore_srcSeq (s : State) (k : Nat) (f : Core → Core) : (s.modCore k f).srcSeq = s.srcSeq := rfl
@[simp] theorem State.modCore_draws (s : State) (k : Nat) (f : Core → Core) : (s.modCore k f).draws = s.draws := rfl

/-! ### `setCtx` writes `cores` only -/

@[simp] theorem State.setCtx_cur (s : State) (k c : Nat) (v : Ctx) : (s.setCtx k c v).cur = s.cur := rfl
@[simp] theorem State.setCtx_slots (s : State) (k c : Nat) (v : Ctx) : (s.setCtx k c v).slots = s.slots := rfl
@[simp] theorem State.setCtx_clusters (s : State) (k c : Nat) (v : Ctx) : (s.setCtx k c v).clusters = s.clusters := rfl
@[simp] theorem State.setCtx_stackTab (s : State) (k c : Nat) (v : Ctx) : (s.setCtx k c v).stackTab = s.stackTab := rfl
@[simp] theorem State.setCtx_hub (s : State) (k c : Nat) (v : Ctx) : (s.setCtx k c v).hub = s.hub := rfl
@[simp] theorem State.setCtx_mem (s : State) (k c : Nat) (v : Ctx) : (s.setCtx k c v).mem = s.mem := rfl
@[simp] theorem State.setCtx_poison (s : State) (k c : Nat) (v : Ctx) : (s.setCtx k c v).poison = s.poison := rfl
@[simp] theorem State.setCtx_nearBad (s : State) (k c : Nat) (v : Ctx) : (s.setCtx k c v).nearBad = s.nearBad := rfl
@[simp] theorem State.setCtx_net (s : State) (k c : Nat) (v : Ctx) : (s.setCtx k c v).net = s.net := rfl
@[simp] theorem State.setCtx_fabricOut (s : State) (k c : Nat) (v : Ctx) : (s.setCtx k c v).fabricOut = s.fabricOut := rfl
@[simp] theorem State.setCtx_agenda (s : State) (k c : Nat) (v : Ctx) : (s.setCtx k c v).agenda = s.agenda := rfl
@[simp] theorem State.setCtx_timers (s : State) (k c : Nat) (v : Ctx) : (s.setCtx k c v).timers = s.timers := rfl
@[simp] theorem State.setCtx_turn (s : State) (k c : Nat) (v : Ctx) : (s.setCtx k c v).turn = s.turn := rfl
@[simp] theorem State.setCtx_coreNext (s : State) (k c : Nat) (v : Ctx) : (s.setCtx k c v).coreNext = s.coreNext := rfl
@[simp] theorem State.setCtx_eventsLeft (s : State) (k c : Nat) (v : Ctx) : (s.setCtx k c v).eventsLeft = s.eventsLeft := rfl
@[simp] theorem State.setCtx_stored (s : State) (k c : Nat) (v : Ctx) : (s.setCtx k c v).stored = s.stored := rfl
@[simp] theorem State.setCtx_weak (s : State) (k c : Nat) (v : Ctx) : (s.setCtx k c v).weak = s.weak := rfl
@[simp] theorem State.setCtx_nearWeak (s : State) (k c : Nat) (v : Ctx) : (s.setCtx k c v).nearWeak = s.nearWeak := rfl
@[simp] theorem State.setCtx_ktick (s : State) (k c : Nat) (v : Ctx) : (s.setCtx k c v).ktick = s.ktick := rfl
@[simp] theorem State.setCtx_tickRem (s : State) (k c : Nat) (v : Ctx) : (s.setCtx k c v).tickRem = s.tickRem := rfl
@[simp] theorem State.setCtx_srcSeq (s : State) (k c : Nat) (v : Ctx) : (s.setCtx k c v).srcSeq = s.srcSeq := rfl
@[simp] theorem State.setCtx_draws (s : State) (k c : Nat) (v : Ctx) : (s.setCtx k c v).draws = s.draws := rfl

/-! ### `modCtx` writes `cores` only -/

@[simp] theorem State.modCtx_cur (s : State) (k c : Nat) (f : Ctx → Ctx) : (s.modCtx k c f).cur = s.cur := rfl
@[simp] theorem State.modCtx_slots (s : State) (k c : Nat) (f : Ctx → Ctx) : (s.modCtx k c f).slots = s.slots := rfl
@[simp] theorem State.modCtx_clusters (s : State) (k c : Nat) (f : Ctx → Ctx) : (s.modCtx k c f).clusters = s.clusters := rfl
@[simp] theorem State.modCtx_stackTab (s : State) (k c : Nat) (f : Ctx → Ctx) : (s.modCtx k c f).stackTab = s.stackTab := rfl
@[simp] theorem State.modCtx_hub (s : State) (k c : Nat) (f : Ctx → Ctx) : (s.modCtx k c f).hub = s.hub := rfl
@[simp] theorem State.modCtx_mem (s : State) (k c : Nat) (f : Ctx → Ctx) : (s.modCtx k c f).mem = s.mem := rfl
@[simp] theorem State.modCtx_poison (s : State) (k c : Nat) (f : Ctx → Ctx) : (s.modCtx k c f).poison = s.poison := rfl
@[simp] theorem State.modCtx_nearBad (s : State) (k c : Nat) (f : Ctx → Ctx) : (s.modCtx k c f).nearBad = s.nearBad := rfl
@[simp] theorem State.modCtx_net (s : State) (k c : Nat) (f : Ctx → Ctx) : (s.modCtx k c f).net = s.net := rfl
@[simp] theorem State.modCtx_fabricOut (s : State) (k c : Nat) (f : Ctx → Ctx) : (s.modCtx k c f).fabricOut = s.fabricOut := rfl
@[simp] theorem State.modCtx_agenda (s : State) (k c : Nat) (f : Ctx → Ctx) : (s.modCtx k c f).agenda = s.agenda := rfl
@[simp] theorem State.modCtx_timers (s : State) (k c : Nat) (f : Ctx → Ctx) : (s.modCtx k c f).timers = s.timers := rfl
@[simp] theorem State.modCtx_turn (s : State) (k c : Nat) (f : Ctx → Ctx) : (s.modCtx k c f).turn = s.turn := rfl
@[simp] theorem State.modCtx_coreNext (s : State) (k c : Nat) (f : Ctx → Ctx) : (s.modCtx k c f).coreNext = s.coreNext := rfl
@[simp] theorem State.modCtx_eventsLeft (s : State) (k c : Nat) (f : Ctx → Ctx) : (s.modCtx k c f).eventsLeft = s.eventsLeft := rfl
@[simp] theorem State.modCtx_stored (s : State) (k c : Nat) (f : Ctx → Ctx) : (s.modCtx k c f).stored = s.stored := rfl
@[simp] theorem State.modCtx_weak (s : State) (k c : Nat) (f : Ctx → Ctx) : (s.modCtx k c f).weak = s.weak := rfl
@[simp] theorem State.modCtx_nearWeak (s : State) (k c : Nat) (f : Ctx → Ctx) : (s.modCtx k c f).nearWeak = s.nearWeak := rfl
@[simp] theorem State.modCtx_ktick (s : State) (k c : Nat) (f : Ctx → Ctx) : (s.modCtx k c f).ktick = s.ktick := rfl
@[simp] theorem State.modCtx_tickRem (s : State) (k c : Nat) (f : Ctx → Ctx) : (s.modCtx k c f).tickRem = s.tickRem := rfl
@[simp] theorem State.modCtx_srcSeq (s : State) (k c : Nat) (f : Ctx → Ctx) : (s.modCtx k c f).srcSeq = s.srcSeq := rfl
@[simp] theorem State.modCtx_draws (s : State) (k c : Nat) (f : Ctx → Ctx) : (s.modCtx k c f).draws = s.draws := rfl

/-! ### `setCluster` writes `clusters` only -/

@[simp] theorem State.setCluster_cur (s : State) (k : Nat) (v : Cluster) : (s.setCluster k v).cur = s.cur := rfl
@[simp] theorem State.setCluster_slots (s : State) (k : Nat) (v : Cluster) : (s.setCluster k v).slots = s.slots := rfl
@[simp] theorem State.setCluster_cores (s : State) (k : Nat) (v : Cluster) : (s.setCluster k v).cores = s.cores := rfl
@[simp] theorem State.setCluster_stackTab (s : State) (k : Nat) (v : Cluster) : (s.setCluster k v).stackTab = s.stackTab := rfl
@[simp] theorem State.setCluster_hub (s : State) (k : Nat) (v : Cluster) : (s.setCluster k v).hub = s.hub := rfl
@[simp] theorem State.setCluster_mem (s : State) (k : Nat) (v : Cluster) : (s.setCluster k v).mem = s.mem := rfl
@[simp] theorem State.setCluster_poison (s : State) (k : Nat) (v : Cluster) : (s.setCluster k v).poison = s.poison := rfl
@[simp] theorem State.setCluster_nearBad (s : State) (k : Nat) (v : Cluster) : (s.setCluster k v).nearBad = s.nearBad := rfl
@[simp] theorem State.setCluster_net (s : State) (k : Nat) (v : Cluster) : (s.setCluster k v).net = s.net := rfl
@[simp] theorem State.setCluster_fabricOut (s : State) (k : Nat) (v : Cluster) : (s.setCluster k v).fabricOut = s.fabricOut := rfl
@[simp] theorem State.setCluster_agenda (s : State) (k : Nat) (v : Cluster) : (s.setCluster k v).agenda = s.agenda := rfl
@[simp] theorem State.setCluster_timers (s : State) (k : Nat) (v : Cluster) : (s.setCluster k v).timers = s.timers := rfl
@[simp] theorem State.setCluster_turn (s : State) (k : Nat) (v : Cluster) : (s.setCluster k v).turn = s.turn := rfl
@[simp] theorem State.setCluster_coreNext (s : State) (k : Nat) (v : Cluster) : (s.setCluster k v).coreNext = s.coreNext := rfl
@[simp] theorem State.setCluster_eventsLeft (s : State) (k : Nat) (v : Cluster) : (s.setCluster k v).eventsLeft = s.eventsLeft := rfl
@[simp] theorem State.setCluster_stored (s : State) (k : Nat) (v : Cluster) : (s.setCluster k v).stored = s.stored := rfl
@[simp] theorem State.setCluster_weak (s : State) (k : Nat) (v : Cluster) : (s.setCluster k v).weak = s.weak := rfl
@[simp] theorem State.setCluster_nearWeak (s : State) (k : Nat) (v : Cluster) : (s.setCluster k v).nearWeak = s.nearWeak := rfl
@[simp] theorem State.setCluster_ktick (s : State) (k : Nat) (v : Cluster) : (s.setCluster k v).ktick = s.ktick := rfl
@[simp] theorem State.setCluster_tickRem (s : State) (k : Nat) (v : Cluster) : (s.setCluster k v).tickRem = s.tickRem := rfl
@[simp] theorem State.setCluster_srcSeq (s : State) (k : Nat) (v : Cluster) : (s.setCluster k v).srcSeq = s.srcSeq := rfl
@[simp] theorem State.setCluster_draws (s : State) (k : Nat) (v : Cluster) : (s.setCluster k v).draws = s.draws := rfl

/-! ### `modCluster` writes `clusters` only -/

@[simp] theorem State.modCluster_cur (s : State) (k : Nat) (f : Cluster → Cluster) : (s.modCluster k f).cur = s.cur := rfl
@[simp] theorem State.modCluster_slots (s : State) (k : Nat) (f : Cluster → Cluster) : (s.modCluster k f).slots = s.slots := rfl
@[simp] theorem State.modCluster_cores (s : State) (k : Nat) (f : Cluster → Cluster) : (s.modCluster k f).cores = s.cores := rfl
@[simp] theorem State.modCluster_stackTab (s : State) (k : Nat) (f : Cluster → Cluster) : (s.modCluster k f).stackTab = s.stackTab := rfl
@[simp] theorem State.modCluster_hub (s : State) (k : Nat) (f : Cluster → Cluster) : (s.modCluster k f).hub = s.hub := rfl
@[simp] theorem State.modCluster_mem (s : State) (k : Nat) (f : Cluster → Cluster) : (s.modCluster k f).mem = s.mem := rfl
@[simp] theorem State.modCluster_poison (s : State) (k : Nat) (f : Cluster → Cluster) : (s.modCluster k f).poison = s.poison := rfl
@[simp] theorem State.modCluster_nearBad (s : State) (k : Nat) (f : Cluster → Cluster) : (s.modCluster k f).nearBad = s.nearBad := rfl
@[simp] theorem State.modCluster_net (s : State) (k : Nat) (f : Cluster → Cluster) : (s.modCluster k f).net = s.net := rfl
@[simp] theorem State.modCluster_fabricOut (s : State) (k : Nat) (f : Cluster → Cluster) : (s.modCluster k f).fabricOut = s.fabricOut := rfl
@[simp] theorem State.modCluster_agenda (s : State) (k : Nat) (f : Cluster → Cluster) : (s.modCluster k f).agenda = s.agenda := rfl
@[simp] theorem State.modCluster_timers (s : State) (k : Nat) (f : Cluster → Cluster) : (s.modCluster k f).timers = s.timers := rfl
@[simp] theorem State.modCluster_turn (s : State) (k : Nat) (f : Cluster → Cluster) : (s.modCluster k f).turn = s.turn := rfl
@[simp] theorem State.modCluster_coreNext (s : State) (k : Nat) (f : Cluster → Cluster) : (s.modCluster k f).coreNext = s.coreNext := rfl
@[simp] theorem State.modCluster_eventsLeft (s : State) (k : Nat) (f : Cluster → Cluster) : (s.modCluster k f).eventsLeft = s.eventsLeft := rfl
@[simp] theorem State.modCluster_stored (s : State) (k : Nat) (f : Cluster → Cluster) : (s.modCluster k f).stored = s.stored := rfl
@[simp] theorem State.modCluster_weak (s : State) (k : Nat) (f : Cluster → Cluster) : (s.modCluster k f).weak = s.weak := rfl
@[simp] theorem State.modCluster_nearWeak (s : State) (k : Nat) (f : Cluster → Cluster) : (s.modCluster k f).nearWeak = s.nearWeak := rfl
@[simp] theorem State.modCluster_ktick (s : State) (k : Nat) (f : Cluster → Cluster) : (s.modCluster k f).ktick = s.ktick := rfl
@[simp] theorem State.modCluster_tickRem (s : State) (k : Nat) (f : Cluster → Cluster) : (s.modCluster k f).tickRem = s.tickRem := rfl
@[simp] theorem State.modCluster_srcSeq (s : State) (k : Nat) (f : Cluster → Cluster) : (s.modCluster k f).srcSeq = s.srcSeq := rfl
@[simp] theorem State.modCluster_draws (s : State) (k : Nat) (f : Cluster → Cluster) : (s.modCluster k f).draws = s.draws := rfl

/-! ### `modDebug` writes `clusters` only -/

@[simp] theorem State.modDebug_cur (s : State) (k : Nat) (f : Debug → Debug) : (s.modDebug k f).cur = s.cur := rfl
@[simp] theorem State.modDebug_slots (s : State) (k : Nat) (f : Debug → Debug) : (s.modDebug k f).slots = s.slots := rfl
@[simp] theorem State.modDebug_cores (s : State) (k : Nat) (f : Debug → Debug) : (s.modDebug k f).cores = s.cores := rfl
@[simp] theorem State.modDebug_stackTab (s : State) (k : Nat) (f : Debug → Debug) : (s.modDebug k f).stackTab = s.stackTab := rfl
@[simp] theorem State.modDebug_hub (s : State) (k : Nat) (f : Debug → Debug) : (s.modDebug k f).hub = s.hub := rfl
@[simp] theorem State.modDebug_mem (s : State) (k : Nat) (f : Debug → Debug) : (s.modDebug k f).mem = s.mem := rfl
@[simp] theorem State.modDebug_poison (s : State) (k : Nat) (f : Debug → Debug) : (s.modDebug k f).poison = s.poison := rfl
@[simp] theorem State.modDebug_nearBad (s : State) (k : Nat) (f : Debug → Debug) : (s.modDebug k f).nearBad = s.nearBad := rfl
@[simp] theorem State.modDebug_net (s : State) (k : Nat) (f : Debug → Debug) : (s.modDebug k f).net = s.net := rfl
@[simp] theorem State.modDebug_fabricOut (s : State) (k : Nat) (f : Debug → Debug) : (s.modDebug k f).fabricOut = s.fabricOut := rfl
@[simp] theorem State.modDebug_agenda (s : State) (k : Nat) (f : Debug → Debug) : (s.modDebug k f).agenda = s.agenda := rfl
@[simp] theorem State.modDebug_timers (s : State) (k : Nat) (f : Debug → Debug) : (s.modDebug k f).timers = s.timers := rfl
@[simp] theorem State.modDebug_turn (s : State) (k : Nat) (f : Debug → Debug) : (s.modDebug k f).turn = s.turn := rfl
@[simp] theorem State.modDebug_coreNext (s : State) (k : Nat) (f : Debug → Debug) : (s.modDebug k f).coreNext = s.coreNext := rfl
@[simp] theorem State.modDebug_eventsLeft (s : State) (k : Nat) (f : Debug → Debug) : (s.modDebug k f).eventsLeft = s.eventsLeft := rfl
@[simp] theorem State.modDebug_stored (s : State) (k : Nat) (f : Debug → Debug) : (s.modDebug k f).stored = s.stored := rfl
@[simp] theorem State.modDebug_weak (s : State) (k : Nat) (f : Debug → Debug) : (s.modDebug k f).weak = s.weak := rfl
@[simp] theorem State.modDebug_nearWeak (s : State) (k : Nat) (f : Debug → Debug) : (s.modDebug k f).nearWeak = s.nearWeak := rfl
@[simp] theorem State.modDebug_ktick (s : State) (k : Nat) (f : Debug → Debug) : (s.modDebug k f).ktick = s.ktick := rfl
@[simp] theorem State.modDebug_tickRem (s : State) (k : Nat) (f : Debug → Debug) : (s.modDebug k f).tickRem = s.tickRem := rfl
@[simp] theorem State.modDebug_srcSeq (s : State) (k : Nat) (f : Debug → Debug) : (s.modDebug k f).srcSeq = s.srcSeq := rfl
@[simp] theorem State.modDebug_draws (s : State) (k : Nat) (f : Debug → Debug) : (s.modDebug k f).draws = s.draws := rfl

/-! ### `setStack` writes `stackTab` only -/

@[simp] theorem State.setStack_cur (s : State) (k : Nat) (v : Stack) : (s.setStack k v).cur = s.cur := rfl
@[simp] theorem State.setStack_slots (s : State) (k : Nat) (v : Stack) : (s.setStack k v).slots = s.slots := rfl
@[simp] theorem State.setStack_cores (s : State) (k : Nat) (v : Stack) : (s.setStack k v).cores = s.cores := rfl
@[simp] theorem State.setStack_clusters (s : State) (k : Nat) (v : Stack) : (s.setStack k v).clusters = s.clusters := rfl
@[simp] theorem State.setStack_hub (s : State) (k : Nat) (v : Stack) : (s.setStack k v).hub = s.hub := rfl
@[simp] theorem State.setStack_mem (s : State) (k : Nat) (v : Stack) : (s.setStack k v).mem = s.mem := rfl
@[simp] theorem State.setStack_poison (s : State) (k : Nat) (v : Stack) : (s.setStack k v).poison = s.poison := rfl
@[simp] theorem State.setStack_nearBad (s : State) (k : Nat) (v : Stack) : (s.setStack k v).nearBad = s.nearBad := rfl
@[simp] theorem State.setStack_net (s : State) (k : Nat) (v : Stack) : (s.setStack k v).net = s.net := rfl
@[simp] theorem State.setStack_fabricOut (s : State) (k : Nat) (v : Stack) : (s.setStack k v).fabricOut = s.fabricOut := rfl
@[simp] theorem State.setStack_agenda (s : State) (k : Nat) (v : Stack) : (s.setStack k v).agenda = s.agenda := rfl
@[simp] theorem State.setStack_timers (s : State) (k : Nat) (v : Stack) : (s.setStack k v).timers = s.timers := rfl
@[simp] theorem State.setStack_turn (s : State) (k : Nat) (v : Stack) : (s.setStack k v).turn = s.turn := rfl
@[simp] theorem State.setStack_coreNext (s : State) (k : Nat) (v : Stack) : (s.setStack k v).coreNext = s.coreNext := rfl
@[simp] theorem State.setStack_eventsLeft (s : State) (k : Nat) (v : Stack) : (s.setStack k v).eventsLeft = s.eventsLeft := rfl
@[simp] theorem State.setStack_stored (s : State) (k : Nat) (v : Stack) : (s.setStack k v).stored = s.stored := rfl
@[simp] theorem State.setStack_weak (s : State) (k : Nat) (v : Stack) : (s.setStack k v).weak = s.weak := rfl
@[simp] theorem State.setStack_nearWeak (s : State) (k : Nat) (v : Stack) : (s.setStack k v).nearWeak = s.nearWeak := rfl
@[simp] theorem State.setStack_ktick (s : State) (k : Nat) (v : Stack) : (s.setStack k v).ktick = s.ktick := rfl
@[simp] theorem State.setStack_tickRem (s : State) (k : Nat) (v : Stack) : (s.setStack k v).tickRem = s.tickRem := rfl
@[simp] theorem State.setStack_srcSeq (s : State) (k : Nat) (v : Stack) : (s.setStack k v).srcSeq = s.srcSeq := rfl
@[simp] theorem State.setStack_draws (s : State) (k : Nat) (v : Stack) : (s.setStack k v).draws = s.draws := rfl

/-! ### `modStack` writes `stackTab` only -/

@[simp] theorem State.modStack_cur (s : State) (k : Nat) (f : Stack → Stack) : (s.modStack k f).cur = s.cur := rfl
@[simp] theorem State.modStack_slots (s : State) (k : Nat) (f : Stack → Stack) : (s.modStack k f).slots = s.slots := rfl
@[simp] theorem State.modStack_cores (s : State) (k : Nat) (f : Stack → Stack) : (s.modStack k f).cores = s.cores := rfl
@[simp] theorem State.modStack_clusters (s : State) (k : Nat) (f : Stack → Stack) : (s.modStack k f).clusters = s.clusters := rfl
@[simp] theorem State.modStack_hub (s : State) (k : Nat) (f : Stack → Stack) : (s.modStack k f).hub = s.hub := rfl
@[simp] theorem State.modStack_mem (s : State) (k : Nat) (f : Stack → Stack) : (s.modStack k f).mem = s.mem := rfl
@[simp] theorem State.modStack_poison (s : State) (k : Nat) (f : Stack → Stack) : (s.modStack k f).poison = s.poison := rfl
@[simp] theorem State.modStack_nearBad (s : State) (k : Nat) (f : Stack → Stack) : (s.modStack k f).nearBad = s.nearBad := rfl
@[simp] theorem State.modStack_net (s : State) (k : Nat) (f : Stack → Stack) : (s.modStack k f).net = s.net := rfl
@[simp] theorem State.modStack_fabricOut (s : State) (k : Nat) (f : Stack → Stack) : (s.modStack k f).fabricOut = s.fabricOut := rfl
@[simp] theorem State.modStack_agenda (s : State) (k : Nat) (f : Stack → Stack) : (s.modStack k f).agenda = s.agenda := rfl
@[simp] theorem State.modStack_timers (s : State) (k : Nat) (f : Stack → Stack) : (s.modStack k f).timers = s.timers := rfl
@[simp] theorem State.modStack_turn (s : State) (k : Nat) (f : Stack → Stack) : (s.modStack k f).turn = s.turn := rfl
@[simp] theorem State.modStack_coreNext (s : State) (k : Nat) (f : Stack → Stack) : (s.modStack k f).coreNext = s.coreNext := rfl
@[simp] theorem State.modStack_eventsLeft (s : State) (k : Nat) (f : Stack → Stack) : (s.modStack k f).eventsLeft = s.eventsLeft := rfl
@[simp] theorem State.modStack_stored (s : State) (k : Nat) (f : Stack → Stack) : (s.modStack k f).stored = s.stored := rfl
@[simp] theorem State.modStack_weak (s : State) (k : Nat) (f : Stack → Stack) : (s.modStack k f).weak = s.weak := rfl
@[simp] theorem State.modStack_nearWeak (s : State) (k : Nat) (f : Stack → Stack) : (s.modStack k f).nearWeak = s.nearWeak := rfl
@[simp] theorem State.modStack_ktick (s : State) (k : Nat) (f : Stack → Stack) : (s.modStack k f).ktick = s.ktick := rfl
@[simp] theorem State.modStack_tickRem (s : State) (k : Nat) (f : Stack → Stack) : (s.modStack k f).tickRem = s.tickRem := rfl
@[simp] theorem State.modStack_srcSeq (s : State) (k : Nat) (f : Stack → Stack) : (s.modStack k f).srcSeq = s.srcSeq := rfl
@[simp] theorem State.modStack_draws (s : State) (k : Nat) (f : Stack → Stack) : (s.modStack k f).draws = s.draws := rfl

/-! ### `modHub` writes `hub` only -/

@[simp] theorem State.modHub_cur (s : State) (f : Hub → Hub) : (s.modHub f).cur = s.cur := rfl
@[simp] theorem State.modHub_slots (s : State) (f : Hub → Hub) : (s.modHub f).slots = s.slots := rfl
@[simp] theorem State.modHub_cores (s : State) (f : Hub → Hub) : (s.modHub f).cores = s.cores := rfl
@[simp] theorem State.modHub_clusters (s : State) (f : Hub → Hub) : (s.modHub f).clusters = s.clusters := rfl
@[simp] theorem State.modHub_stackTab (s : State) (f : Hub → Hub) : (s.modHub f).stackTab = s.stackTab := rfl
@[simp] theorem State.modHub_mem (s : State) (f : Hub → Hub) : (s.modHub f).mem = s.mem := rfl
@[simp] theorem State.modHub_poison (s : State) (f : Hub → Hub) : (s.modHub f).poison = s.poison := rfl
@[simp] theorem State.modHub_nearBad (s : State) (f : Hub → Hub) : (s.modHub f).nearBad = s.nearBad := rfl
@[simp] theorem State.modHub_net (s : State) (f : Hub → Hub) : (s.modHub f).net = s.net := rfl
@[simp] theorem State.modHub_fabricOut (s : State) (f : Hub → Hub) : (s.modHub f).fabricOut = s.fabricOut := rfl
@[simp] theorem State.modHub_agenda (s : State) (f : Hub → Hub) : (s.modHub f).agenda = s.agenda := rfl
@[simp] theorem State.modHub_timers (s : State) (f : Hub → Hub) : (s.modHub f).timers = s.timers := rfl
@[simp] theorem State.modHub_turn (s : State) (f : Hub → Hub) : (s.modHub f).turn = s.turn := rfl
@[simp] theorem State.modHub_coreNext (s : State) (f : Hub → Hub) : (s.modHub f).coreNext = s.coreNext := rfl
@[simp] theorem State.modHub_eventsLeft (s : State) (f : Hub → Hub) : (s.modHub f).eventsLeft = s.eventsLeft := rfl
@[simp] theorem State.modHub_stored (s : State) (f : Hub → Hub) : (s.modHub f).stored = s.stored := rfl
@[simp] theorem State.modHub_weak (s : State) (f : Hub → Hub) : (s.modHub f).weak = s.weak := rfl
@[simp] theorem State.modHub_nearWeak (s : State) (f : Hub → Hub) : (s.modHub f).nearWeak = s.nearWeak := rfl
@[simp] theorem State.modHub_ktick (s : State) (f : Hub → Hub) : (s.modHub f).ktick = s.ktick := rfl
@[simp] theorem State.modHub_tickRem (s : State) (f : Hub → Hub) : (s.modHub f).tickRem = s.tickRem := rfl
@[simp] theorem State.modHub_srcSeq (s : State) (f : Hub → Hub) : (s.modHub f).srcSeq = s.srcSeq := rfl
@[simp] theorem State.modHub_draws (s : State) (f : Hub → Hub) : (s.modHub f).draws = s.draws := rfl

/-! ### `setLaunch` writes `hub` only -/

@[simp] theorem State.setLaunch_cur (s : State) (n : Nat) (l : Launch) : (s.setLaunch n l).cur = s.cur := rfl
@[simp] theorem State.setLaunch_slots (s : State) (n : Nat) (l : Launch) : (s.setLaunch n l).slots = s.slots := rfl
@[simp] theorem State.setLaunch_cores (s : State) (n : Nat) (l : Launch) : (s.setLaunch n l).cores = s.cores := rfl
@[simp] theorem State.setLaunch_clusters (s : State) (n : Nat) (l : Launch) : (s.setLaunch n l).clusters = s.clusters := rfl
@[simp] theorem State.setLaunch_stackTab (s : State) (n : Nat) (l : Launch) : (s.setLaunch n l).stackTab = s.stackTab := rfl
@[simp] theorem State.setLaunch_mem (s : State) (n : Nat) (l : Launch) : (s.setLaunch n l).mem = s.mem := rfl
@[simp] theorem State.setLaunch_poison (s : State) (n : Nat) (l : Launch) : (s.setLaunch n l).poison = s.poison := rfl
@[simp] theorem State.setLaunch_nearBad (s : State) (n : Nat) (l : Launch) : (s.setLaunch n l).nearBad = s.nearBad := rfl
@[simp] theorem State.setLaunch_net (s : State) (n : Nat) (l : Launch) : (s.setLaunch n l).net = s.net := rfl
@[simp] theorem State.setLaunch_fabricOut (s : State) (n : Nat) (l : Launch) : (s.setLaunch n l).fabricOut = s.fabricOut := rfl
@[simp] theorem State.setLaunch_agenda (s : State) (n : Nat) (l : Launch) : (s.setLaunch n l).agenda = s.agenda := rfl
@[simp] theorem State.setLaunch_timers (s : State) (n : Nat) (l : Launch) : (s.setLaunch n l).timers = s.timers := rfl
@[simp] theorem State.setLaunch_turn (s : State) (n : Nat) (l : Launch) : (s.setLaunch n l).turn = s.turn := rfl
@[simp] theorem State.setLaunch_coreNext (s : State) (n : Nat) (l : Launch) : (s.setLaunch n l).coreNext = s.coreNext := rfl
@[simp] theorem State.setLaunch_eventsLeft (s : State) (n : Nat) (l : Launch) : (s.setLaunch n l).eventsLeft = s.eventsLeft := rfl
@[simp] theorem State.setLaunch_stored (s : State) (n : Nat) (l : Launch) : (s.setLaunch n l).stored = s.stored := rfl
@[simp] theorem State.setLaunch_weak (s : State) (n : Nat) (l : Launch) : (s.setLaunch n l).weak = s.weak := rfl
@[simp] theorem State.setLaunch_nearWeak (s : State) (n : Nat) (l : Launch) : (s.setLaunch n l).nearWeak = s.nearWeak := rfl
@[simp] theorem State.setLaunch_ktick (s : State) (n : Nat) (l : Launch) : (s.setLaunch n l).ktick = s.ktick := rfl
@[simp] theorem State.setLaunch_tickRem (s : State) (n : Nat) (l : Launch) : (s.setLaunch n l).tickRem = s.tickRem := rfl
@[simp] theorem State.setLaunch_srcSeq (s : State) (n : Nat) (l : Launch) : (s.setLaunch n l).srcSeq = s.srcSeq := rfl
@[simp] theorem State.setLaunch_draws (s : State) (n : Nat) (l : Launch) : (s.setLaunch n l).draws = s.draws := rfl

/-! ### `modLaunch` writes `hub` only -/

@[simp] theorem State.modLaunch_cur (s : State) (n : Nat) (f : Launch → Launch) : (s.modLaunch n f).cur = s.cur := rfl
@[simp] theorem State.modLaunch_slots (s : State) (n : Nat) (f : Launch → Launch) : (s.modLaunch n f).slots = s.slots := rfl
@[simp] theorem State.modLaunch_cores (s : State) (n : Nat) (f : Launch → Launch) : (s.modLaunch n f).cores = s.cores := rfl
@[simp] theorem State.modLaunch_clusters (s : State) (n : Nat) (f : Launch → Launch) : (s.modLaunch n f).clusters = s.clusters := rfl
@[simp] theorem State.modLaunch_stackTab (s : State) (n : Nat) (f : Launch → Launch) : (s.modLaunch n f).stackTab = s.stackTab := rfl
@[simp] theorem State.modLaunch_mem (s : State) (n : Nat) (f : Launch → Launch) : (s.modLaunch n f).mem = s.mem := rfl
@[simp] theorem State.modLaunch_poison (s : State) (n : Nat) (f : Launch → Launch) : (s.modLaunch n f).poison = s.poison := rfl
@[simp] theorem State.modLaunch_nearBad (s : State) (n : Nat) (f : Launch → Launch) : (s.modLaunch n f).nearBad = s.nearBad := rfl
@[simp] theorem State.modLaunch_net (s : State) (n : Nat) (f : Launch → Launch) : (s.modLaunch n f).net = s.net := rfl
@[simp] theorem State.modLaunch_fabricOut (s : State) (n : Nat) (f : Launch → Launch) : (s.modLaunch n f).fabricOut = s.fabricOut := rfl
@[simp] theorem State.modLaunch_agenda (s : State) (n : Nat) (f : Launch → Launch) : (s.modLaunch n f).agenda = s.agenda := rfl
@[simp] theorem State.modLaunch_timers (s : State) (n : Nat) (f : Launch → Launch) : (s.modLaunch n f).timers = s.timers := rfl
@[simp] theorem State.modLaunch_turn (s : State) (n : Nat) (f : Launch → Launch) : (s.modLaunch n f).turn = s.turn := rfl
@[simp] theorem State.modLaunch_coreNext (s : State) (n : Nat) (f : Launch → Launch) : (s.modLaunch n f).coreNext = s.coreNext := rfl
@[simp] theorem State.modLaunch_eventsLeft (s : State) (n : Nat) (f : Launch → Launch) : (s.modLaunch n f).eventsLeft = s.eventsLeft := rfl
@[simp] theorem State.modLaunch_stored (s : State) (n : Nat) (f : Launch → Launch) : (s.modLaunch n f).stored = s.stored := rfl
@[simp] theorem State.modLaunch_weak (s : State) (n : Nat) (f : Launch → Launch) : (s.modLaunch n f).weak = s.weak := rfl
@[simp] theorem State.modLaunch_nearWeak (s : State) (n : Nat) (f : Launch → Launch) : (s.modLaunch n f).nearWeak = s.nearWeak := rfl
@[simp] theorem State.modLaunch_ktick (s : State) (n : Nat) (f : Launch → Launch) : (s.modLaunch n f).ktick = s.ktick := rfl
@[simp] theorem State.modLaunch_tickRem (s : State) (n : Nat) (f : Launch → Launch) : (s.modLaunch n f).tickRem = s.tickRem := rfl
@[simp] theorem State.modLaunch_srcSeq (s : State) (n : Nat) (f : Launch → Launch) : (s.modLaunch n f).srcSeq = s.srcSeq := rfl
@[simp] theorem State.modLaunch_draws (s : State) (n : Nat) (f : Launch → Launch) : (s.modLaunch n f).draws = s.draws := rfl

/-! ### `setVf` writes `hub` only -/

@[simp] theorem State.setVf_cur (s : State) (n : Nat) (x : Vf) : (s.setVf n x).cur = s.cur := rfl
@[simp] theorem State.setVf_slots (s : State) (n : Nat) (x : Vf) : (s.setVf n x).slots = s.slots := rfl
@[simp] theorem State.setVf_cores (s : State) (n : Nat) (x : Vf) : (s.setVf n x).cores = s.cores := rfl
@[simp] theorem State.setVf_clusters (s : State) (n : Nat) (x : Vf) : (s.setVf n x).clusters = s.clusters := rfl
@[simp] theorem State.setVf_stackTab (s : State) (n : Nat) (x : Vf) : (s.setVf n x).stackTab = s.stackTab := rfl
@[simp] theorem State.setVf_mem (s : State) (n : Nat) (x : Vf) : (s.setVf n x).mem = s.mem := rfl
@[simp] theorem State.setVf_poison (s : State) (n : Nat) (x : Vf) : (s.setVf n x).poison = s.poison := rfl
@[simp] theorem State.setVf_nearBad (s : State) (n : Nat) (x : Vf) : (s.setVf n x).nearBad = s.nearBad := rfl
@[simp] theorem State.setVf_net (s : State) (n : Nat) (x : Vf) : (s.setVf n x).net = s.net := rfl
@[simp] theorem State.setVf_fabricOut (s : State) (n : Nat) (x : Vf) : (s.setVf n x).fabricOut = s.fabricOut := rfl
@[simp] theorem State.setVf_agenda (s : State) (n : Nat) (x : Vf) : (s.setVf n x).agenda = s.agenda := rfl
@[simp] theorem State.setVf_timers (s : State) (n : Nat) (x : Vf) : (s.setVf n x).timers = s.timers := rfl
@[simp] theorem State.setVf_turn (s : State) (n : Nat) (x : Vf) : (s.setVf n x).turn = s.turn := rfl
@[simp] theorem State.setVf_coreNext (s : State) (n : Nat) (x : Vf) : (s.setVf n x).coreNext = s.coreNext := rfl
@[simp] theorem State.setVf_eventsLeft (s : State) (n : Nat) (x : Vf) : (s.setVf n x).eventsLeft = s.eventsLeft := rfl
@[simp] theorem State.setVf_stored (s : State) (n : Nat) (x : Vf) : (s.setVf n x).stored = s.stored := rfl
@[simp] theorem State.setVf_weak (s : State) (n : Nat) (x : Vf) : (s.setVf n x).weak = s.weak := rfl
@[simp] theorem State.setVf_nearWeak (s : State) (n : Nat) (x : Vf) : (s.setVf n x).nearWeak = s.nearWeak := rfl
@[simp] theorem State.setVf_ktick (s : State) (n : Nat) (x : Vf) : (s.setVf n x).ktick = s.ktick := rfl
@[simp] theorem State.setVf_tickRem (s : State) (n : Nat) (x : Vf) : (s.setVf n x).tickRem = s.tickRem := rfl
@[simp] theorem State.setVf_srcSeq (s : State) (n : Nat) (x : Vf) : (s.setVf n x).srcSeq = s.srcSeq := rfl
@[simp] theorem State.setVf_draws (s : State) (n : Nat) (x : Vf) : (s.setVf n x).draws = s.draws := rfl

/-! ### `modVf` writes `hub` only -/

@[simp] theorem State.modVf_cur (s : State) (n : Nat) (f : Vf → Vf) : (s.modVf n f).cur = s.cur := rfl
@[simp] theorem State.modVf_slots (s : State) (n : Nat) (f : Vf → Vf) : (s.modVf n f).slots = s.slots := rfl
@[simp] theorem State.modVf_cores (s : State) (n : Nat) (f : Vf → Vf) : (s.modVf n f).cores = s.cores := rfl
@[simp] theorem State.modVf_clusters (s : State) (n : Nat) (f : Vf → Vf) : (s.modVf n f).clusters = s.clusters := rfl
@[simp] theorem State.modVf_stackTab (s : State) (n : Nat) (f : Vf → Vf) : (s.modVf n f).stackTab = s.stackTab := rfl
@[simp] theorem State.modVf_mem (s : State) (n : Nat) (f : Vf → Vf) : (s.modVf n f).mem = s.mem := rfl
@[simp] theorem State.modVf_poison (s : State) (n : Nat) (f : Vf → Vf) : (s.modVf n f).poison = s.poison := rfl
@[simp] theorem State.modVf_nearBad (s : State) (n : Nat) (f : Vf → Vf) : (s.modVf n f).nearBad = s.nearBad := rfl
@[simp] theorem State.modVf_net (s : State) (n : Nat) (f : Vf → Vf) : (s.modVf n f).net = s.net := rfl
@[simp] theorem State.modVf_fabricOut (s : State) (n : Nat) (f : Vf → Vf) : (s.modVf n f).fabricOut = s.fabricOut := rfl
@[simp] theorem State.modVf_agenda (s : State) (n : Nat) (f : Vf → Vf) : (s.modVf n f).agenda = s.agenda := rfl
@[simp] theorem State.modVf_timers (s : State) (n : Nat) (f : Vf → Vf) : (s.modVf n f).timers = s.timers := rfl
@[simp] theorem State.modVf_turn (s : State) (n : Nat) (f : Vf → Vf) : (s.modVf n f).turn = s.turn := rfl
@[simp] theorem State.modVf_coreNext (s : State) (n : Nat) (f : Vf → Vf) : (s.modVf n f).coreNext = s.coreNext := rfl
@[simp] theorem State.modVf_eventsLeft (s : State) (n : Nat) (f : Vf → Vf) : (s.modVf n f).eventsLeft = s.eventsLeft := rfl
@[simp] theorem State.modVf_stored (s : State) (n : Nat) (f : Vf → Vf) : (s.modVf n f).stored = s.stored := rfl
@[simp] theorem State.modVf_weak (s : State) (n : Nat) (f : Vf → Vf) : (s.modVf n f).weak = s.weak := rfl
@[simp] theorem State.modVf_nearWeak (s : State) (n : Nat) (f : Vf → Vf) : (s.modVf n f).nearWeak = s.nearWeak := rfl
@[simp] theorem State.modVf_ktick (s : State) (n : Nat) (f : Vf → Vf) : (s.modVf n f).ktick = s.ktick := rfl
@[simp] theorem State.modVf_tickRem (s : State) (n : Nat) (f : Vf → Vf) : (s.modVf n f).tickRem = s.tickRem := rfl
@[simp] theorem State.modVf_srcSeq (s : State) (n : Nat) (f : Vf → Vf) : (s.modVf n f).srcSeq = s.srcSeq := rfl
@[simp] theorem State.modVf_draws (s : State) (n : Nat) (f : Vf → Vf) : (s.modVf n f).draws = s.draws := rfl

/-! ### `post` writes `agenda` only -/

@[simp] theorem State.post_cur (s : State) (e : Instr) : (s.post e).cur = s.cur := rfl
@[simp] theorem State.post_slots (s : State) (e : Instr) : (s.post e).slots = s.slots := rfl
@[simp] theorem State.post_cores (s : State) (e : Instr) : (s.post e).cores = s.cores := rfl
@[simp] theorem State.post_clusters (s : State) (e : Instr) : (s.post e).clusters = s.clusters := rfl
@[simp] theorem State.post_stackTab (s : State) (e : Instr) : (s.post e).stackTab = s.stackTab := rfl
@[simp] theorem State.post_hub (s : State) (e : Instr) : (s.post e).hub = s.hub := rfl
@[simp] theorem State.post_mem (s : State) (e : Instr) : (s.post e).mem = s.mem := rfl
@[simp] theorem State.post_poison (s : State) (e : Instr) : (s.post e).poison = s.poison := rfl
@[simp] theorem State.post_nearBad (s : State) (e : Instr) : (s.post e).nearBad = s.nearBad := rfl
@[simp] theorem State.post_net (s : State) (e : Instr) : (s.post e).net = s.net := rfl
@[simp] theorem State.post_fabricOut (s : State) (e : Instr) : (s.post e).fabricOut = s.fabricOut := rfl
@[simp] theorem State.post_timers (s : State) (e : Instr) : (s.post e).timers = s.timers := rfl
@[simp] theorem State.post_turn (s : State) (e : Instr) : (s.post e).turn = s.turn := rfl
@[simp] theorem State.post_coreNext (s : State) (e : Instr) : (s.post e).coreNext = s.coreNext := rfl
@[simp] theorem State.post_eventsLeft (s : State) (e : Instr) : (s.post e).eventsLeft = s.eventsLeft := rfl
@[simp] theorem State.post_stored (s : State) (e : Instr) : (s.post e).stored = s.stored := rfl
@[simp] theorem State.post_weak (s : State) (e : Instr) : (s.post e).weak = s.weak := rfl
@[simp] theorem State.post_nearWeak (s : State) (e : Instr) : (s.post e).nearWeak = s.nearWeak := rfl
@[simp] theorem State.post_ktick (s : State) (e : Instr) : (s.post e).ktick = s.ktick := rfl
@[simp] theorem State.post_tickRem (s : State) (e : Instr) : (s.post e).tickRem = s.tickRem := rfl
@[simp] theorem State.post_srcSeq (s : State) (e : Instr) : (s.post e).srcSeq = s.srcSeq := rfl
@[simp] theorem State.post_draws (s : State) (e : Instr) : (s.post e).draws = s.draws := rfl

/-! ### `storeBytes` writes `mem` and `stored` only -/

@[simp] theorem State.storeBytes_cur (s : State) (a : Nat) (bs : List Byte) : (s.storeBytes a bs).cur = s.cur := rfl
@[simp] theorem State.storeBytes_slots (s : State) (a : Nat) (bs : List Byte) : (s.storeBytes a bs).slots = s.slots := rfl
@[simp] theorem State.storeBytes_cores (s : State) (a : Nat) (bs : List Byte) : (s.storeBytes a bs).cores = s.cores := rfl
@[simp] theorem State.storeBytes_clusters (s : State) (a : Nat) (bs : List Byte) : (s.storeBytes a bs).clusters = s.clusters := rfl
@[simp] theorem State.storeBytes_stackTab (s : State) (a : Nat) (bs : List Byte) : (s.storeBytes a bs).stackTab = s.stackTab := rfl
@[simp] theorem State.storeBytes_hub (s : State) (a : Nat) (bs : List Byte) : (s.storeBytes a bs).hub = s.hub := rfl
@[simp] theorem State.storeBytes_poison (s : State) (a : Nat) (bs : List Byte) : (s.storeBytes a bs).poison = s.poison := rfl
@[simp] theorem State.storeBytes_nearBad (s : State) (a : Nat) (bs : List Byte) : (s.storeBytes a bs).nearBad = s.nearBad := rfl
@[simp] theorem State.storeBytes_net (s : State) (a : Nat) (bs : List Byte) : (s.storeBytes a bs).net = s.net := rfl
@[simp] theorem State.storeBytes_fabricOut (s : State) (a : Nat) (bs : List Byte) : (s.storeBytes a bs).fabricOut = s.fabricOut := rfl
@[simp] theorem State.storeBytes_agenda (s : State) (a : Nat) (bs : List Byte) : (s.storeBytes a bs).agenda = s.agenda := rfl
@[simp] theorem State.storeBytes_timers (s : State) (a : Nat) (bs : List Byte) : (s.storeBytes a bs).timers = s.timers := rfl
@[simp] theorem State.storeBytes_turn (s : State) (a : Nat) (bs : List Byte) : (s.storeBytes a bs).turn = s.turn := rfl
@[simp] theorem State.storeBytes_coreNext (s : State) (a : Nat) (bs : List Byte) : (s.storeBytes a bs).coreNext = s.coreNext := rfl
@[simp] theorem State.storeBytes_eventsLeft (s : State) (a : Nat) (bs : List Byte) : (s.storeBytes a bs).eventsLeft = s.eventsLeft := rfl
@[simp] theorem State.storeBytes_weak (s : State) (a : Nat) (bs : List Byte) : (s.storeBytes a bs).weak = s.weak := rfl
@[simp] theorem State.storeBytes_nearWeak (s : State) (a : Nat) (bs : List Byte) : (s.storeBytes a bs).nearWeak = s.nearWeak := rfl
@[simp] theorem State.storeBytes_ktick (s : State) (a : Nat) (bs : List Byte) : (s.storeBytes a bs).ktick = s.ktick := rfl
@[simp] theorem State.storeBytes_tickRem (s : State) (a : Nat) (bs : List Byte) : (s.storeBytes a bs).tickRem = s.tickRem := rfl
@[simp] theorem State.storeBytes_srcSeq (s : State) (a : Nat) (bs : List Byte) : (s.storeBytes a bs).srcSeq = s.srcSeq := rfl
@[simp] theorem State.storeBytes_draws (s : State) (a : Nat) (bs : List Byte) : (s.storeBytes a bs).draws = s.draws := rfl

/-! ### What the units read -/

@[simp] theorem State.slot_setSlot (s : State) (k : Nat) (v : Slot) : (s.setSlot k v).slot k = v := Tab.get_set_same _ _ _ _
theorem State.slot_setSlot_other (s : State) (k j : Nat) (v : Slot) (h : j ≠ k) : (s.setSlot k v).slot j = s.slot j :=
  Tab.get_set_other _ _ _ _ _ h
@[simp] theorem State.slot_modSlot (s : State) (k : Nat) (f : Slot → Slot) : (s.modSlot k f).slot k = f (s.slot k) := State.slot_setSlot ..
theorem State.slot_modSlot_other (s : State) (k j : Nat) (f : Slot → Slot) (h : j ≠ k) : (s.modSlot k f).slot j = s.slot j :=
  State.slot_setSlot_other _ _ _ _ h
@[simp] theorem State.sl_modCur (s : State) (f : Slot → Slot) : (s.modCur f).sl = f s.sl := State.slot_modSlot ..
theorem State.slot_modCur_other (s : State) (j : Nat) (f : Slot → Slot) (h : j ≠ s.cur) : (s.modCur f).slot j = s.slot j :=
  State.slot_modSlot_other _ _ _ _ h
@[simp] theorem State.core_setCore (s : State) (k : Nat) (v : Core) : (s.setCore k v).core k = v := Tab.get_set_same _ _ _ _
theorem State.core_setCore_other (s : State) (k j : Nat) (v : Core) (h : j ≠ k) : (s.setCore k v).core j = s.core j :=
  Tab.get_set_other _ _ _ _ _ h
@[simp] theorem State.core_modCore (s : State) (k : Nat) (f : Core → Core) : (s.modCore k f).core k = f (s.core k) := State.core_setCore ..
theorem State.core_modCore_other (s : State) (k j : Nat) (f : Core → Core) (h : j ≠ k) : (s.modCore k f).core j = s.core j :=
  State.core_setCore_other _ _ _ _ h
@[simp] theorem State.ctx_modCtx (s : State) (k c : Nat) (f : Ctx → Ctx) : (s.modCtx k c f).ctx k c = f (s.ctx k c) := by
  simp [State.modCtx, State.setCtx, State.ctx, Tab.get_set_same]
theorem State.ctx_modCtx_other (s : State) (k c j d : Nat) (f : Ctx → Ctx) (h : j ≠ k ∨ d ≠ c) : (s.modCtx k c f).ctx j d = s.ctx j d := by
  by_cases hj : j = k
  · subst hj
    simp only [State.modCtx, State.setCtx, State.ctx, State.core_modCore]
    exact Tab.get_set_other _ _ _ _ _ (by omega)
  · simp only [State.modCtx, State.setCtx, State.ctx, State.core_modCore_other _ _ _ _ hj]
@[simp] theorem State.cluster_setCluster (s : State) (k : Nat) (v : Cluster) : (s.setCluster k v).cluster k = v := Tab.get_set_same _ _ _ _
theorem State.cluster_setCluster_other (s : State) (k j : Nat) (v : Cluster) (h : j ≠ k) : (s.setCluster k v).cluster j = s.cluster j :=
  Tab.get_set_other _ _ _ _ _ h
@[simp] theorem State.cluster_modCluster (s : State) (k : Nat) (f : Cluster → Cluster) :
    (s.modCluster k f).cluster k = f (s.cluster k) := State.cluster_setCluster ..
theorem State.cluster_modCluster_other (s : State) (k j : Nat) (f : Cluster → Cluster) (h : j ≠ k) :
    (s.modCluster k f).cluster j = s.cluster j := State.cluster_setCluster_other _ _ _ _ h
@[simp] theorem State.debug_modDebug (s : State) (k : Nat) (f : Debug → Debug) : (s.modDebug k f).debug k = f (s.debug k) := by
  simp [State.modDebug, State.debug]
theorem State.debug_modDebug_other (s : State) (k j : Nat) (f : Debug → Debug) (h : j ≠ k) : (s.modDebug k f).debug j = s.debug j := by
  simp [State.modDebug, State.debug, State.cluster_modCluster_other _ _ _ _ h]
@[simp] theorem State.stack_setStack (s : State) (k : Nat) (v : Stack) : (s.setStack k v).stack k = v := Tab.get_set_same _ _ _ _
theorem State.stack_setStack_other (s : State) (k j : Nat) (v : Stack) (h : j ≠ k) : (s.setStack k v).stack j = s.stack j :=
  Tab.get_set_other _ _ _ _ _ h
@[simp] theorem State.stack_modStack (s : State) (k : Nat) (f : Stack → Stack) : (s.modStack k f).stack k = f (s.stack k) :=
  State.stack_setStack ..
theorem State.stack_modStack_other (s : State) (k j : Nat) (f : Stack → Stack) (h : j ≠ k) : (s.modStack k f).stack j = s.stack j :=
  State.stack_setStack_other _ _ _ _ h
@[simp] theorem State.hub_modHub (s : State) (f : Hub → Hub) : (s.modHub f).hub = f s.hub := rfl
@[simp] theorem State.launch_setLaunch (s : State) (n : Nat) (l : Launch) : (s.setLaunch n l).launch n = l := Tab.get_set_same _ _ _ _
@[simp] theorem State.launch_modLaunch (s : State) (n : Nat) (f : Launch → Launch) : (s.modLaunch n f).launch n = f (s.launch n) :=
  State.launch_setLaunch ..
theorem State.launch_modLaunch_other (s : State) (n j : Nat) (f : Launch → Launch) (h : j ≠ n) :
    (s.modLaunch n f).launch j = s.launch j := Tab.get_set_other _ _ _ _ _ h
@[simp] theorem State.vf_setVf (s : State) (n : Nat) (x : Vf) : (s.setVf n x).vf n = x := Tab.get_set_same _ _ _ _
@[simp] theorem State.vf_modVf (s : State) (n : Nat) (f : Vf → Vf) : (s.modVf n f).vf n = f (s.vf n) := State.vf_setVf ..
theorem State.vf_modVf_other (s : State) (n j : Nat) (f : Vf → Vf) (h : j ≠ n) : (s.modVf n f).vf j = s.vf j :=
  Tab.get_set_other _ _ _ _ _ h
@[simp] theorem State.post_agenda (s : State) (e : Instr) : (s.post e).agenda = s.agenda ++ [e] := rfl
@[simp] theorem State.storeBytes_mem (s : State) (a : Nat) (bs : List Byte) : (s.storeBytes a bs).mem = memWriteBytes s.mem a bs := rfl

/-! ### What the other units read -/

@[simp] theorem State.slot_setCore (s : State) (k : Nat) (v : Core) (j : Nat) : (s.setCore k v).slot j = s.slot j := rfl
@[simp] theorem State.slot_modCore (s : State) (k : Nat) (f : Core → Core) (j : Nat) : (s.modCore k f).slot j = s.slot j := rfl
@[simp] theorem State.slot_setCtx (s : State) (k c : Nat) (v : Ctx) (j : Nat) : (s.setCtx k c v).slot j = s.slot j := rfl
@[simp] theorem State.slot_modCtx (s : State) (k c : Nat) (f : Ctx → Ctx) (j : Nat) : (s.modCtx k c f).slot j = s.slot j := rfl
@[simp] theorem State.slot_setCluster (s : State) (k : Nat) (v : Cluster) (j : Nat) : (s.setCluster k v).slot j = s.slot j := rfl
@[simp] theorem State.slot_modCluster (s : State) (k : Nat) (f : Cluster → Cluster) (j : Nat) : (s.modCluster k f).slot j = s.slot j := rfl
@[simp] theorem State.slot_modDebug (s : State) (k : Nat) (f : Debug → Debug) (j : Nat) : (s.modDebug k f).slot j = s.slot j := rfl
@[simp] theorem State.slot_setStack (s : State) (k : Nat) (v : Stack) (j : Nat) : (s.setStack k v).slot j = s.slot j := rfl
@[simp] theorem State.slot_modStack (s : State) (k : Nat) (f : Stack → Stack) (j : Nat) : (s.modStack k f).slot j = s.slot j := rfl
@[simp] theorem State.slot_modHub (s : State) (f : Hub → Hub) (j : Nat) : (s.modHub f).slot j = s.slot j := rfl
@[simp] theorem State.slot_setLaunch (s : State) (n : Nat) (l : Launch) (j : Nat) : (s.setLaunch n l).slot j = s.slot j := rfl
@[simp] theorem State.slot_modLaunch (s : State) (n : Nat) (f : Launch → Launch) (j : Nat) : (s.modLaunch n f).slot j = s.slot j := rfl
@[simp] theorem State.slot_setVf (s : State) (n : Nat) (x : Vf) (j : Nat) : (s.setVf n x).slot j = s.slot j := rfl
@[simp] theorem State.slot_modVf (s : State) (n : Nat) (f : Vf → Vf) (j : Nat) : (s.modVf n f).slot j = s.slot j := rfl
@[simp] theorem State.slot_post (s : State) (e : Instr) (j : Nat) : (s.post e).slot j = s.slot j := rfl
@[simp] theorem State.slot_storeBytes (s : State) (a : Nat) (bs : List Byte) (j : Nat) : (s.storeBytes a bs).slot j = s.slot j := rfl
@[simp] theorem State.sl_setCore (s : State) (k : Nat) (v : Core) : (s.setCore k v).sl = s.sl := rfl
@[simp] theorem State.sl_modCore (s : State) (k : Nat) (f : Core → Core) : (s.modCore k f).sl = s.sl := rfl
@[simp] theorem State.sl_setCtx (s : State) (k c : Nat) (v : Ctx) : (s.setCtx k c v).sl = s.sl := rfl
@[simp] theorem State.sl_modCtx (s : State) (k c : Nat) (f : Ctx → Ctx) : (s.modCtx k c f).sl = s.sl := rfl
@[simp] theorem State.sl_setCluster (s : State) (k : Nat) (v : Cluster) : (s.setCluster k v).sl = s.sl := rfl
@[simp] theorem State.sl_modCluster (s : State) (k : Nat) (f : Cluster → Cluster) : (s.modCluster k f).sl = s.sl := rfl
@[simp] theorem State.sl_modDebug (s : State) (k : Nat) (f : Debug → Debug) : (s.modDebug k f).sl = s.sl := rfl
@[simp] theorem State.sl_setStack (s : State) (k : Nat) (v : Stack) : (s.setStack k v).sl = s.sl := rfl
@[simp] theorem State.sl_modStack (s : State) (k : Nat) (f : Stack → Stack) : (s.modStack k f).sl = s.sl := rfl
@[simp] theorem State.sl_modHub (s : State) (f : Hub → Hub) : (s.modHub f).sl = s.sl := rfl
@[simp] theorem State.sl_setLaunch (s : State) (n : Nat) (l : Launch) : (s.setLaunch n l).sl = s.sl := rfl
@[simp] theorem State.sl_modLaunch (s : State) (n : Nat) (f : Launch → Launch) : (s.modLaunch n f).sl = s.sl := rfl
@[simp] theorem State.sl_setVf (s : State) (n : Nat) (x : Vf) : (s.setVf n x).sl = s.sl := rfl
@[simp] theorem State.sl_modVf (s : State) (n : Nat) (f : Vf → Vf) : (s.modVf n f).sl = s.sl := rfl
@[simp] theorem State.sl_post (s : State) (e : Instr) : (s.post e).sl = s.sl := rfl
@[simp] theorem State.sl_storeBytes (s : State) (a : Nat) (bs : List Byte) : (s.storeBytes a bs).sl = s.sl := rfl
@[simp] theorem State.core_setSlot (s : State) (k : Nat) (v : Slot) (j : Nat) : (s.setSlot k v).core j = s.core j := rfl
@[simp] theorem State.core_modSlot (s : State) (k : Nat) (f : Slot → Slot) (j : Nat) : (s.modSlot k f).core j = s.core j := rfl
@[simp] theorem State.core_modCur (s : State) (f : Slot → Slot) (j : Nat) : (s.modCur f).core j = s.core j := rfl
@[simp] theorem State.core_setCluster (s : State) (k : Nat) (v : Cluster) (j : Nat) : (s.setCluster k v).core j = s.core j := rfl
@[simp] theorem State.core_modCluster (s : State) (k : Nat) (f : Cluster → Cluster) (j : Nat) : (s.modCluster k f).core j = s.core j := rfl
@[simp] theorem State.core_modDebug (s : State) (k : Nat) (f : Debug → Debug) (j : Nat) : (s.modDebug k f).core j = s.core j := rfl
@[simp] theorem State.core_setStack (s : State) (k : Nat) (v : Stack) (j : Nat) : (s.setStack k v).core j = s.core j := rfl
@[simp] theorem State.core_modStack (s : State) (k : Nat) (f : Stack → Stack) (j : Nat) : (s.modStack k f).core j = s.core j := rfl
@[simp] theorem State.core_modHub (s : State) (f : Hub → Hub) (j : Nat) : (s.modHub f).core j = s.core j := rfl
@[simp] theorem State.core_setLaunch (s : State) (n : Nat) (l : Launch) (j : Nat) : (s.setLaunch n l).core j = s.core j := rfl
@[simp] theorem State.core_modLaunch (s : State) (n : Nat) (f : Launch → Launch) (j : Nat) : (s.modLaunch n f).core j = s.core j := rfl
@[simp] theorem State.core_setVf (s : State) (n : Nat) (x : Vf) (j : Nat) : (s.setVf n x).core j = s.core j := rfl
@[simp] theorem State.core_modVf (s : State) (n : Nat) (f : Vf → Vf) (j : Nat) : (s.modVf n f).core j = s.core j := rfl
@[simp] theorem State.core_post (s : State) (e : Instr) (j : Nat) : (s.post e).core j = s.core j := rfl
@[simp] theorem State.core_storeBytes (s : State) (a : Nat) (bs : List Byte) (j : Nat) : (s.storeBytes a bs).core j = s.core j := rfl
@[simp] theorem State.ctx_setSlot (s : State) (k : Nat) (v : Slot) (i j : Nat) : (s.setSlot k v).ctx i j = s.ctx i j := rfl
@[simp] theorem State.ctx_modSlot (s : State) (k : Nat) (f : Slot → Slot) (i j : Nat) : (s.modSlot k f).ctx i j = s.ctx i j := rfl
@[simp] theorem State.ctx_modCur (s : State) (f : Slot → Slot) (i j : Nat) : (s.modCur f).ctx i j = s.ctx i j := rfl
@[simp] theorem State.ctx_setCluster (s : State) (k : Nat) (v : Cluster) (i j : Nat) : (s.setCluster k v).ctx i j = s.ctx i j := rfl
@[simp] theorem State.ctx_modCluster (s : State) (k : Nat) (f : Cluster → Cluster) (i j : Nat) : (s.modCluster k f).ctx i j = s.ctx i j := rfl
@[simp] theorem State.ctx_modDebug (s : State) (k : Nat) (f : Debug → Debug) (i j : Nat) : (s.modDebug k f).ctx i j = s.ctx i j := rfl
@[simp] theorem State.ctx_setStack (s : State) (k : Nat) (v : Stack) (i j : Nat) : (s.setStack k v).ctx i j = s.ctx i j := rfl
@[simp] theorem State.ctx_modStack (s : State) (k : Nat) (f : Stack → Stack) (i j : Nat) : (s.modStack k f).ctx i j = s.ctx i j := rfl
@[simp] theorem State.ctx_modHub (s : State) (f : Hub → Hub) (i j : Nat) : (s.modHub f).ctx i j = s.ctx i j := rfl
@[simp] theorem State.ctx_setLaunch (s : State) (n : Nat) (l : Launch) (i j : Nat) : (s.setLaunch n l).ctx i j = s.ctx i j := rfl
@[simp] theorem State.ctx_modLaunch (s : State) (n : Nat) (f : Launch → Launch) (i j : Nat) : (s.modLaunch n f).ctx i j = s.ctx i j := rfl
@[simp] theorem State.ctx_setVf (s : State) (n : Nat) (x : Vf) (i j : Nat) : (s.setVf n x).ctx i j = s.ctx i j := rfl
@[simp] theorem State.ctx_modVf (s : State) (n : Nat) (f : Vf → Vf) (i j : Nat) : (s.modVf n f).ctx i j = s.ctx i j := rfl
@[simp] theorem State.ctx_post (s : State) (e : Instr) (i j : Nat) : (s.post e).ctx i j = s.ctx i j := rfl
@[simp] theorem State.ctx_storeBytes (s : State) (a : Nat) (bs : List Byte) (i j : Nat) : (s.storeBytes a bs).ctx i j = s.ctx i j := rfl
@[simp] theorem State.cluster_setSlot (s : State) (k : Nat) (v : Slot) (j : Nat) : (s.setSlot k v).cluster j = s.cluster j := rfl
@[simp] theorem State.cluster_modSlot (s : State) (k : Nat) (f : Slot → Slot) (j : Nat) : (s.modSlot k f).cluster j = s.cluster j := rfl
@[simp] theorem State.cluster_modCur (s : State) (f : Slot → Slot) (j : Nat) : (s.modCur f).cluster j = s.cluster j := rfl
@[simp] theorem State.cluster_setCore (s : State) (k : Nat) (v : Core) (j : Nat) : (s.setCore k v).cluster j = s.cluster j := rfl
@[simp] theorem State.cluster_modCore (s : State) (k : Nat) (f : Core → Core) (j : Nat) : (s.modCore k f).cluster j = s.cluster j := rfl
@[simp] theorem State.cluster_setCtx (s : State) (k c : Nat) (v : Ctx) (j : Nat) : (s.setCtx k c v).cluster j = s.cluster j := rfl
@[simp] theorem State.cluster_modCtx (s : State) (k c : Nat) (f : Ctx → Ctx) (j : Nat) : (s.modCtx k c f).cluster j = s.cluster j := rfl
@[simp] theorem State.cluster_setStack (s : State) (k : Nat) (v : Stack) (j : Nat) : (s.setStack k v).cluster j = s.cluster j := rfl
@[simp] theorem State.cluster_modStack (s : State) (k : Nat) (f : Stack → Stack) (j : Nat) : (s.modStack k f).cluster j = s.cluster j := rfl
@[simp] theorem State.cluster_modHub (s : State) (f : Hub → Hub) (j : Nat) : (s.modHub f).cluster j = s.cluster j := rfl
@[simp] theorem State.cluster_setLaunch (s : State) (n : Nat) (l : Launch) (j : Nat) : (s.setLaunch n l).cluster j = s.cluster j := rfl
@[simp] theorem State.cluster_modLaunch (s : State) (n : Nat) (f : Launch → Launch) (j : Nat) : (s.modLaunch n f).cluster j = s.cluster j := rfl
@[simp] theorem State.cluster_setVf (s : State) (n : Nat) (x : Vf) (j : Nat) : (s.setVf n x).cluster j = s.cluster j := rfl
@[simp] theorem State.cluster_modVf (s : State) (n : Nat) (f : Vf → Vf) (j : Nat) : (s.modVf n f).cluster j = s.cluster j := rfl
@[simp] theorem State.cluster_post (s : State) (e : Instr) (j : Nat) : (s.post e).cluster j = s.cluster j := rfl
@[simp] theorem State.cluster_storeBytes (s : State) (a : Nat) (bs : List Byte) (j : Nat) : (s.storeBytes a bs).cluster j = s.cluster j := rfl
@[simp] theorem State.debug_setSlot (s : State) (k : Nat) (v : Slot) (j : Nat) : (s.setSlot k v).debug j = s.debug j := rfl
@[simp] theorem State.debug_modSlot (s : State) (k : Nat) (f : Slot → Slot) (j : Nat) : (s.modSlot k f).debug j = s.debug j := rfl
@[simp] theorem State.debug_modCur (s : State) (f : Slot → Slot) (j : Nat) : (s.modCur f).debug j = s.debug j := rfl
@[simp] theorem State.debug_setCore (s : State) (k : Nat) (v : Core) (j : Nat) : (s.setCore k v).debug j = s.debug j := rfl
@[simp] theorem State.debug_modCore (s : State) (k : Nat) (f : Core → Core) (j : Nat) : (s.modCore k f).debug j = s.debug j := rfl
@[simp] theorem State.debug_setCtx (s : State) (k c : Nat) (v : Ctx) (j : Nat) : (s.setCtx k c v).debug j = s.debug j := rfl
@[simp] theorem State.debug_modCtx (s : State) (k c : Nat) (f : Ctx → Ctx) (j : Nat) : (s.modCtx k c f).debug j = s.debug j := rfl
@[simp] theorem State.debug_setStack (s : State) (k : Nat) (v : Stack) (j : Nat) : (s.setStack k v).debug j = s.debug j := rfl
@[simp] theorem State.debug_modStack (s : State) (k : Nat) (f : Stack → Stack) (j : Nat) : (s.modStack k f).debug j = s.debug j := rfl
@[simp] theorem State.debug_modHub (s : State) (f : Hub → Hub) (j : Nat) : (s.modHub f).debug j = s.debug j := rfl
@[simp] theorem State.debug_setLaunch (s : State) (n : Nat) (l : Launch) (j : Nat) : (s.setLaunch n l).debug j = s.debug j := rfl
@[simp] theorem State.debug_modLaunch (s : State) (n : Nat) (f : Launch → Launch) (j : Nat) : (s.modLaunch n f).debug j = s.debug j := rfl
@[simp] theorem State.debug_setVf (s : State) (n : Nat) (x : Vf) (j : Nat) : (s.setVf n x).debug j = s.debug j := rfl
@[simp] theorem State.debug_modVf (s : State) (n : Nat) (f : Vf → Vf) (j : Nat) : (s.modVf n f).debug j = s.debug j := rfl
@[simp] theorem State.debug_post (s : State) (e : Instr) (j : Nat) : (s.post e).debug j = s.debug j := rfl
@[simp] theorem State.debug_storeBytes (s : State) (a : Nat) (bs : List Byte) (j : Nat) : (s.storeBytes a bs).debug j = s.debug j := rfl
@[simp] theorem State.stack_setSlot (s : State) (k : Nat) (v : Slot) (j : Nat) : (s.setSlot k v).stack j = s.stack j := rfl
@[simp] theorem State.stack_modSlot (s : State) (k : Nat) (f : Slot → Slot) (j : Nat) : (s.modSlot k f).stack j = s.stack j := rfl
@[simp] theorem State.stack_modCur (s : State) (f : Slot → Slot) (j : Nat) : (s.modCur f).stack j = s.stack j := rfl
@[simp] theorem State.stack_setCore (s : State) (k : Nat) (v : Core) (j : Nat) : (s.setCore k v).stack j = s.stack j := rfl
@[simp] theorem State.stack_modCore (s : State) (k : Nat) (f : Core → Core) (j : Nat) : (s.modCore k f).stack j = s.stack j := rfl
@[simp] theorem State.stack_setCtx (s : State) (k c : Nat) (v : Ctx) (j : Nat) : (s.setCtx k c v).stack j = s.stack j := rfl
@[simp] theorem State.stack_modCtx (s : State) (k c : Nat) (f : Ctx → Ctx) (j : Nat) : (s.modCtx k c f).stack j = s.stack j := rfl
@[simp] theorem State.stack_setCluster (s : State) (k : Nat) (v : Cluster) (j : Nat) : (s.setCluster k v).stack j = s.stack j := rfl
@[simp] theorem State.stack_modCluster (s : State) (k : Nat) (f : Cluster → Cluster) (j : Nat) : (s.modCluster k f).stack j = s.stack j := rfl
@[simp] theorem State.stack_modDebug (s : State) (k : Nat) (f : Debug → Debug) (j : Nat) : (s.modDebug k f).stack j = s.stack j := rfl
@[simp] theorem State.stack_modHub (s : State) (f : Hub → Hub) (j : Nat) : (s.modHub f).stack j = s.stack j := rfl
@[simp] theorem State.stack_setLaunch (s : State) (n : Nat) (l : Launch) (j : Nat) : (s.setLaunch n l).stack j = s.stack j := rfl
@[simp] theorem State.stack_modLaunch (s : State) (n : Nat) (f : Launch → Launch) (j : Nat) : (s.modLaunch n f).stack j = s.stack j := rfl
@[simp] theorem State.stack_setVf (s : State) (n : Nat) (x : Vf) (j : Nat) : (s.setVf n x).stack j = s.stack j := rfl
@[simp] theorem State.stack_modVf (s : State) (n : Nat) (f : Vf → Vf) (j : Nat) : (s.modVf n f).stack j = s.stack j := rfl
@[simp] theorem State.stack_post (s : State) (e : Instr) (j : Nat) : (s.post e).stack j = s.stack j := rfl
@[simp] theorem State.stack_storeBytes (s : State) (a : Nat) (bs : List Byte) (j : Nat) : (s.storeBytes a bs).stack j = s.stack j := rfl
@[simp] theorem State.launch_setSlot (s : State) (k : Nat) (v : Slot) (j : Nat) : (s.setSlot k v).launch j = s.launch j := rfl
@[simp] theorem State.launch_modSlot (s : State) (k : Nat) (f : Slot → Slot) (j : Nat) : (s.modSlot k f).launch j = s.launch j := rfl
@[simp] theorem State.launch_modCur (s : State) (f : Slot → Slot) (j : Nat) : (s.modCur f).launch j = s.launch j := rfl
@[simp] theorem State.launch_setCore (s : State) (k : Nat) (v : Core) (j : Nat) : (s.setCore k v).launch j = s.launch j := rfl
@[simp] theorem State.launch_modCore (s : State) (k : Nat) (f : Core → Core) (j : Nat) : (s.modCore k f).launch j = s.launch j := rfl
@[simp] theorem State.launch_setCtx (s : State) (k c : Nat) (v : Ctx) (j : Nat) : (s.setCtx k c v).launch j = s.launch j := rfl
@[simp] theorem State.launch_modCtx (s : State) (k c : Nat) (f : Ctx → Ctx) (j : Nat) : (s.modCtx k c f).launch j = s.launch j := rfl
@[simp] theorem State.launch_setCluster (s : State) (k : Nat) (v : Cluster) (j : Nat) : (s.setCluster k v).launch j = s.launch j := rfl
@[simp] theorem State.launch_modCluster (s : State) (k : Nat) (f : Cluster → Cluster) (j : Nat) : (s.modCluster k f).launch j = s.launch j := rfl
@[simp] theorem State.launch_modDebug (s : State) (k : Nat) (f : Debug → Debug) (j : Nat) : (s.modDebug k f).launch j = s.launch j := rfl
@[simp] theorem State.launch_setStack (s : State) (k : Nat) (v : Stack) (j : Nat) : (s.setStack k v).launch j = s.launch j := rfl
@[simp] theorem State.launch_modStack (s : State) (k : Nat) (f : Stack → Stack) (j : Nat) : (s.modStack k f).launch j = s.launch j := rfl
@[simp] theorem State.launch_post (s : State) (e : Instr) (j : Nat) : (s.post e).launch j = s.launch j := rfl
@[simp] theorem State.launch_storeBytes (s : State) (a : Nat) (bs : List Byte) (j : Nat) : (s.storeBytes a bs).launch j = s.launch j := rfl
@[simp] theorem State.vf_setSlot (s : State) (k : Nat) (v : Slot) (j : Nat) : (s.setSlot k v).vf j = s.vf j := rfl
@[simp] theorem State.vf_modSlot (s : State) (k : Nat) (f : Slot → Slot) (j : Nat) : (s.modSlot k f).vf j = s.vf j := rfl
@[simp] theorem State.vf_modCur (s : State) (f : Slot → Slot) (j : Nat) : (s.modCur f).vf j = s.vf j := rfl
@[simp] theorem State.vf_setCore (s : State) (k : Nat) (v : Core) (j : Nat) : (s.setCore k v).vf j = s.vf j := rfl
@[simp] theorem State.vf_modCore (s : State) (k : Nat) (f : Core → Core) (j : Nat) : (s.modCore k f).vf j = s.vf j := rfl
@[simp] theorem State.vf_setCtx (s : State) (k c : Nat) (v : Ctx) (j : Nat) : (s.setCtx k c v).vf j = s.vf j := rfl
@[simp] theorem State.vf_modCtx (s : State) (k c : Nat) (f : Ctx → Ctx) (j : Nat) : (s.modCtx k c f).vf j = s.vf j := rfl
@[simp] theorem State.vf_setCluster (s : State) (k : Nat) (v : Cluster) (j : Nat) : (s.setCluster k v).vf j = s.vf j := rfl
@[simp] theorem State.vf_modCluster (s : State) (k : Nat) (f : Cluster → Cluster) (j : Nat) : (s.modCluster k f).vf j = s.vf j := rfl
@[simp] theorem State.vf_modDebug (s : State) (k : Nat) (f : Debug → Debug) (j : Nat) : (s.modDebug k f).vf j = s.vf j := rfl
@[simp] theorem State.vf_setStack (s : State) (k : Nat) (v : Stack) (j : Nat) : (s.setStack k v).vf j = s.vf j := rfl
@[simp] theorem State.vf_modStack (s : State) (k : Nat) (f : Stack → Stack) (j : Nat) : (s.modStack k f).vf j = s.vf j := rfl
@[simp] theorem State.vf_post (s : State) (e : Instr) (j : Nat) : (s.post e).vf j = s.vf j := rfl
@[simp] theorem State.vf_storeBytes (s : State) (a : Nat) (bs : List Byte) (j : Nat) : (s.storeBytes a bs).vf j = s.vf j := rfl

end Sys2Proof.Machine
end

