-- ==== Sys2Proof/Laws/Registers.lean ====
section
/-!
SUPPORT. What the operations over the registers of a slot write, what they leave unchanged, and what registers read after them
(04_encoding.md R65, R66, 05_scalar.md R82, R87).
-/
namespace Sys2Proof.Machine

/-! ### `setX` -/

@[simp] theorem Slot.setX_v (sl : Slot) (r : Nat) (w : Word) : (sl.setX r w).v = sl.v := by unfold Slot.setX; split <;> rfl
@[simp] theorem Slot.setX_vm (sl : Slot) (r : Nat) (w : Word) : (sl.setX r w).vm = sl.vm := by unfold Slot.setX; split <;> rfl
@[simp] theorem Slot.setX_q (sl : Slot) (r : Nat) (w : Word) : (sl.setX r w).q = sl.q := by unfold Slot.setX; split <;> rfl
@[simp] theorem Slot.setX_kstat (sl : Slot) (r : Nat) (w : Word) : (sl.setX r w).kstat = sl.kstat := by unfold Slot.setX; split <;> rfl
@[simp] theorem Slot.setX_kprog (sl : Slot) (r : Nat) (w : Word) : (sl.setX r w).kprog = sl.kprog := by unfold Slot.setX; split <;> rfl
@[simp] theorem Slot.setX_kloop0 (sl : Slot) (r : Nat) (w : Word) : (sl.setX r w).kloop0 = sl.kloop0 := by unfold Slot.setX; split <;> rfl
@[simp] theorem Slot.setX_kls0 (sl : Slot) (r : Nat) (w : Word) : (sl.setX r w).kls0 = sl.kls0 := by unfold Slot.setX; split <;> rfl
@[simp] theorem Slot.setX_kle0 (sl : Slot) (r : Nat) (w : Word) : (sl.setX r w).kle0 = sl.kle0 := by unfold Slot.setX; split <;> rfl
@[simp] theorem Slot.setX_kloop1 (sl : Slot) (r : Nat) (w : Word) : (sl.setX r w).kloop1 = sl.kloop1 := by unfold Slot.setX; split <;> rfl
@[simp] theorem Slot.setX_kls1 (sl : Slot) (r : Nat) (w : Word) : (sl.setX r w).kls1 = sl.kls1 := by unfold Slot.setX; split <;> rfl
@[simp] theorem Slot.setX_kle1 (sl : Slot) (r : Nat) (w : Word) : (sl.setX r w).kle1 = sl.kle1 := by unfold Slot.setX; split <;> rfl
@[simp] theorem Slot.setX_kpfx (sl : Slot) (r : Nat) (w : Word) : (sl.setX r w).kpfx = sl.kpfx := by unfold Slot.setX; split <;> rfl
@[simp] theorem Slot.setX_kcause (sl : Slot) (r : Nat) (w : Word) : (sl.setX r w).kcause = sl.kcause := by unfold Slot.setX; split <;> rfl
@[simp] theorem Slot.setX_kaddr (sl : Slot) (r : Nat) (w : Word) : (sl.setX r w).kaddr = sl.kaddr := by unfold Slot.setX; split <;> rfl
@[simp] theorem Slot.setX_kepc (sl : Slot) (r : Nat) (w : Word) : (sl.setX r w).kepc = sl.kepc := by unfold Slot.setX; split <;> rfl
@[simp] theorem Slot.setX_kwdog (sl : Slot) (r : Nat) (w : Word) : (sl.setX r w).kwdog = sl.kwdog := by unfold Slot.setX; split <;> rfl
@[simp] theorem Slot.setX_kpath (sl : Slot) (r : Nat) (w : Word) : (sl.setX r w).kpath = sl.kpath := by unfold Slot.setX; split <;> rfl
@[simp] theorem Slot.setX_kseq (sl : Slot) (r : Nat) (w : Word) : (sl.setX r w).kseq = sl.kseq := by unfold Slot.setX; split <;> rfl
@[simp] theorem Slot.setX_pc (sl : Slot) (r : Nat) (w : Word) : (sl.setX r w).pc = sl.pc := by unfold Slot.setX; split <;> rfl
@[simp] theorem Slot.setX_cycles (sl : Slot) (r : Nat) (w : Word) : (sl.setX r w).cycles = sl.cycles := by unfold Slot.setX; split <;> rfl
@[simp] theorem Slot.setX_phase (sl : Slot) (r : Nat) (w : Word) : (sl.setX r w).phase = sl.phase := by unfold Slot.setX; split <;> rfl
@[simp] theorem Slot.setX_wait (sl : Slot) (r : Nat) (w : Word) : (sl.setX r w).wait = sl.wait := by unfold Slot.setX; split <;> rfl
@[simp] theorem Slot.setX_clause (sl : Slot) (r : Nat) (w : Word) : (sl.setX r w).clause = sl.clause := by unfold Slot.setX; split <;> rfl
@[simp] theorem Slot.setX_gen (sl : Slot) (r : Nat) (w : Word) : (sl.setX r w).gen = sl.gen := by unfold Slot.setX; split <;> rfl
@[simp] theorem Slot.setX_owed (sl : Slot) (r : Nat) (w : Word) : (sl.setX r w).owed = sl.owed := by unfold Slot.setX; split <;> rfl
@[simp] theorem Slot.setX_trapNo (sl : Slot) (r : Nat) (w : Word) : (sl.setX r w).trapNo = sl.trapNo := by unfold Slot.setX; split <;> rfl
@[simp] theorem Slot.setX_line (sl : Slot) (r : Nat) (w : Word) : (sl.setX r w).line = sl.line := by unfold Slot.setX; split <;> rfl
@[simp] theorem Slot.setX_fetching (sl : Slot) (r : Nat) (w : Word) : (sl.setX r w).fetching = sl.fetching := by unfold Slot.setX; split <;> rfl
@[simp] theorem Slot.setX_fetchFar (sl : Slot) (r : Nat) (w : Word) : (sl.setX r w).fetchFar = sl.fetchFar := by unfold Slot.setX; split <;> rfl
@[simp] theorem Slot.setX_fwd (sl : Slot) (r : Nat) (w : Word) : (sl.setX r w).fwd = sl.fwd := by unfold Slot.setX; split <;> rfl
@[simp] theorem Slot.setX_far (sl : Slot) (r : Nat) (w : Word) : (sl.setX r w).far = sl.far := by unfold Slot.setX; split <;> rfl
@[simp] theorem Slot.setX_asks (sl : Slot) (r : Nat) (w : Word) : (sl.setX r w).asks = sl.asks := by unfold Slot.setX; split <;> rfl
@[simp] theorem Slot.setX_fence (sl : Slot) (r : Nat) (w : Word) : (sl.setX r w).fence = sl.fence := by unfold Slot.setX; split <;> rfl
@[simp] theorem Slot.setX_ringReport (sl : Slot) (r : Nat) (w : Word) : (sl.setX r w).ringReport = sl.ringReport := by unfold Slot.setX; split <;> rfl
@[simp] theorem Slot.setX_nearFills (sl : Slot) (r : Nat) (w : Word) : (sl.setX r w).nearFills = sl.nearFills := by unfold Slot.setX; split <;> rfl
@[simp] theorem Slot.setX_heldTiles (sl : Slot) (r : Nat) (w : Word) : (sl.setX r w).heldTiles = sl.heldTiles := by unfold Slot.setX; split <;> rfl
@[simp] theorem Slot.setX_fetchDropped (sl : Slot) (r : Nat) (w : Word) : (sl.setX r w).fetchDropped = sl.fetchDropped := by unfold Slot.setX; split <;> rfl
@[simp] theorem Slot.setX_resolved (sl : Slot) (r : Nat) (w : Word) : (sl.setX r w).resolved = sl.resolved := by unfold Slot.setX; split <;> rfl
@[simp] theorem Slot.setX_fetched (sl : Slot) (r : Nat) (w : Word) : (sl.setX r w).fetched = sl.fetched := by unfold Slot.setX; split <;> rfl
@[simp] theorem Slot.setX_skipBreak (sl : Slot) (r : Nat) (w : Word) : (sl.setX r w).skipBreak = sl.skipBreak := by unfold Slot.setX; split <;> rfl

/-! ### `setV` -/

@[simp] theorem Slot.setV_x (sl : Slot) (r : Nat) (w : VWord) : (sl.setV r w).x = sl.x := rfl
@[simp] theorem Slot.setV_xm (sl : Slot) (r : Nat) (w : VWord) : (sl.setV r w).xm = sl.xm := rfl
@[simp] theorem Slot.setV_q (sl : Slot) (r : Nat) (w : VWord) : (sl.setV r w).q = sl.q := rfl
@[simp] theorem Slot.setV_kstat (sl : Slot) (r : Nat) (w : VWord) : (sl.setV r w).kstat = sl.kstat := rfl
@[simp] theorem Slot.setV_kprog (sl : Slot) (r : Nat) (w : VWord) : (sl.setV r w).kprog = sl.kprog := rfl
@[simp] theorem Slot.setV_kloop0 (sl : Slot) (r : Nat) (w : VWord) : (sl.setV r w).kloop0 = sl.kloop0 := rfl
@[simp] theorem Slot.setV_kls0 (sl : Slot) (r : Nat) (w : VWord) : (sl.setV r w).kls0 = sl.kls0 := rfl
@[simp] theorem Slot.setV_kle0 (sl : Slot) (r : Nat) (w : VWord) : (sl.setV r w).kle0 = sl.kle0 := rfl
@[simp] theorem Slot.setV_kloop1 (sl : Slot) (r : Nat) (w : VWord) : (sl.setV r w).kloop1 = sl.kloop1 := rfl
@[simp] theorem Slot.setV_kls1 (sl : Slot) (r : Nat) (w : VWord) : (sl.setV r w).kls1 = sl.kls1 := rfl
@[simp] theorem Slot.setV_kle1 (sl : Slot) (r : Nat) (w : VWord) : (sl.setV r w).kle1 = sl.kle1 := rfl
@[simp] theorem Slot.setV_kpfx (sl : Slot) (r : Nat) (w : VWord) : (sl.setV r w).kpfx = sl.kpfx := rfl
@[simp] theorem Slot.setV_kcause (sl : Slot) (r : Nat) (w : VWord) : (sl.setV r w).kcause = sl.kcause := rfl
@[simp] theorem Slot.setV_kaddr (sl : Slot) (r : Nat) (w : VWord) : (sl.setV r w).kaddr = sl.kaddr := rfl
@[simp] theorem Slot.setV_kepc (sl : Slot) (r : Nat) (w : VWord) : (sl.setV r w).kepc = sl.kepc := rfl
@[simp] theorem Slot.setV_kwdog (sl : Slot) (r : Nat) (w : VWord) : (sl.setV r w).kwdog = sl.kwdog := rfl
@[simp] theorem Slot.setV_kpath (sl : Slot) (r : Nat) (w : VWord) : (sl.setV r w).kpath = sl.kpath := rfl
@[simp] theorem Slot.setV_kseq (sl : Slot) (r : Nat) (w : VWord) : (sl.setV r w).kseq = sl.kseq := rfl
@[simp] theorem Slot.setV_pc (sl : Slot) (r : Nat) (w : VWord) : (sl.setV r w).pc = sl.pc := rfl
@[simp] theorem Slot.setV_cycles (sl : Slot) (r : Nat) (w : VWord) : (sl.setV r w).cycles = sl.cycles := rfl
@[simp] theorem Slot.setV_phase (sl : Slot) (r : Nat) (w : VWord) : (sl.setV r w).phase = sl.phase := rfl
@[simp] theorem Slot.setV_wait (sl : Slot) (r : Nat) (w : VWord) : (sl.setV r w).wait = sl.wait := rfl
@[simp] theorem Slot.setV_clause (sl : Slot) (r : Nat) (w : VWord) : (sl.setV r w).clause = sl.clause := rfl
@[simp] theorem Slot.setV_gen (sl : Slot) (r : Nat) (w : VWord) : (sl.setV r w).gen = sl.gen := rfl
@[simp] theorem Slot.setV_owed (sl : Slot) (r : Nat) (w : VWord) : (sl.setV r w).owed = sl.owed := rfl
@[simp] theorem Slot.setV_trapNo (sl : Slot) (r : Nat) (w : VWord) : (sl.setV r w).trapNo = sl.trapNo := rfl
@[simp] theorem Slot.setV_line (sl : Slot) (r : Nat) (w : VWord) : (sl.setV r w).line = sl.line := rfl
@[simp] theorem Slot.setV_fetching (sl : Slot) (r : Nat) (w : VWord) : (sl.setV r w).fetching = sl.fetching := rfl
@[simp] theorem Slot.setV_fetchFar (sl : Slot) (r : Nat) (w : VWord) : (sl.setV r w).fetchFar = sl.fetchFar := rfl
@[simp] theorem Slot.setV_fwd (sl : Slot) (r : Nat) (w : VWord) : (sl.setV r w).fwd = sl.fwd := rfl
@[simp] theorem Slot.setV_far (sl : Slot) (r : Nat) (w : VWord) : (sl.setV r w).far = sl.far := rfl
@[simp] theorem Slot.setV_asks (sl : Slot) (r : Nat) (w : VWord) : (sl.setV r w).asks = sl.asks := rfl
@[simp] theorem Slot.setV_fence (sl : Slot) (r : Nat) (w : VWord) : (sl.setV r w).fence = sl.fence := rfl
@[simp] theorem Slot.setV_ringReport (sl : Slot) (r : Nat) (w : VWord) : (sl.setV r w).ringReport = sl.ringReport := rfl
@[simp] theorem Slot.setV_nearFills (sl : Slot) (r : Nat) (w : VWord) : (sl.setV r w).nearFills = sl.nearFills := rfl
@[simp] theorem Slot.setV_heldTiles (sl : Slot) (r : Nat) (w : VWord) : (sl.setV r w).heldTiles = sl.heldTiles := rfl
@[simp] theorem Slot.setV_fetchDropped (sl : Slot) (r : Nat) (w : VWord) : (sl.setV r w).fetchDropped = sl.fetchDropped := rfl
@[simp] theorem Slot.setV_resolved (sl : Slot) (r : Nat) (w : VWord) : (sl.setV r w).resolved = sl.resolved := rfl
@[simp] theorem Slot.setV_fetched (sl : Slot) (r : Nat) (w : VWord) : (sl.setV r w).fetched = sl.fetched := rfl
@[simp] theorem Slot.setV_skipBreak (sl : Slot) (r : Nat) (w : VWord) : (sl.setV r w).skipBreak = sl.skipBreak := rfl

/-! ### `raise` -/

@[simp] theorem Slot.raise_x (sl : Slot) (f : BitVec 5) : (sl.raise f).x = sl.x := rfl
@[simp] theorem Slot.raise_v (sl : Slot) (f : BitVec 5) : (sl.raise f).v = sl.v := rfl
@[simp] theorem Slot.raise_xm (sl : Slot) (f : BitVec 5) : (sl.raise f).xm = sl.xm := rfl
@[simp] theorem Slot.raise_vm (sl : Slot) (f : BitVec 5) : (sl.raise f).vm = sl.vm := rfl
@[simp] theorem Slot.raise_q (sl : Slot) (f : BitVec 5) : (sl.raise f).q = sl.q := rfl
@[simp] theorem Slot.raise_kprog (sl : Slot) (f : BitVec 5) : (sl.raise f).kprog = sl.kprog := rfl
@[simp] theorem Slot.raise_kloop0 (sl : Slot) (f : BitVec 5) : (sl.raise f).kloop0 = sl.kloop0 := rfl
@[simp] theorem Slot.raise_kls0 (sl : Slot) (f : BitVec 5) : (sl.raise f).kls0 = sl.kls0 := rfl
@[simp] theorem Slot.raise_kle0 (sl : Slot) (f : BitVec 5) : (sl.raise f).kle0 = sl.kle0 := rfl
@[simp] theorem Slot.raise_kloop1 (sl : Slot) (f : BitVec 5) : (sl.raise f).kloop1 = sl.kloop1 := rfl
@[simp] theorem Slot.raise_kls1 (sl : Slot) (f : BitVec 5) : (sl.raise f).kls1 = sl.kls1 := rfl
@[simp] theorem Slot.raise_kle1 (sl : Slot) (f : BitVec 5) : (sl.raise f).kle1 = sl.kle1 := rfl
@[simp] theorem Slot.raise_kpfx (sl : Slot) (f : BitVec 5) : (sl.raise f).kpfx = sl.kpfx := rfl
@[simp] theorem Slot.raise_kcause (sl : Slot) (f : BitVec 5) : (sl.raise f).kcause = sl.kcause := rfl
@[simp] theorem Slot.raise_kaddr (sl : Slot) (f : BitVec 5) : (sl.raise f).kaddr = sl.kaddr := rfl
@[simp] theorem Slot.raise_kepc (sl : Slot) (f : BitVec 5) : (sl.raise f).kepc = sl.kepc := rfl
@[simp] theorem Slot.raise_kwdog (sl : Slot) (f : BitVec 5) : (sl.raise f).kwdog = sl.kwdog := rfl
@[simp] theorem Slot.raise_kpath (sl : Slot) (f : BitVec 5) : (sl.raise f).kpath = sl.kpath := rfl
@[simp] theorem Slot.raise_kseq (sl : Slot) (f : BitVec 5) : (sl.raise f).kseq = sl.kseq := rfl
@[simp] theorem Slot.raise_pc (sl : Slot) (f : BitVec 5) : (sl.raise f).pc = sl.pc := rfl
@[simp] theorem Slot.raise_cycles (sl : Slot) (f : BitVec 5) : (sl.raise f).cycles = sl.cycles := rfl
@[simp] theorem Slot.raise_phase (sl : Slot) (f : BitVec 5) : (sl.raise f).phase = sl.phase := rfl
@[simp] theorem Slot.raise_wait (sl : Slot) (f : BitVec 5) : (sl.raise f).wait = sl.wait := rfl
@[simp] theorem Slot.raise_clause (sl : Slot) (f : BitVec 5) : (sl.raise f).clause = sl.clause := rfl
@[simp] theorem Slot.raise_gen (sl : Slot) (f : BitVec 5) : (sl.raise f).gen = sl.gen := rfl
@[simp] theorem Slot.raise_owed (sl : Slot) (f : BitVec 5) : (sl.raise f).owed = sl.owed := rfl
@[simp] theorem Slot.raise_trapNo (sl : Slot) (f : BitVec 5) : (sl.raise f).trapNo = sl.trapNo := rfl
@[simp] theorem Slot.raise_line (sl : Slot) (f : BitVec 5) : (sl.raise f).line = sl.line := rfl
@[simp] theorem Slot.raise_fetching (sl : Slot) (f : BitVec 5) : (sl.raise f).fetching = sl.fetching := rfl
@[simp] theorem Slot.raise_fetchFar (sl : Slot) (f : BitVec 5) : (sl.raise f).fetchFar = sl.fetchFar := rfl
@[simp] theorem Slot.raise_fwd (sl : Slot) (f : BitVec 5) : (sl.raise f).fwd = sl.fwd := rfl
@[simp] theorem Slot.raise_far (sl : Slot) (f : BitVec 5) : (sl.raise f).far = sl.far := rfl
@[simp] theorem Slot.raise_asks (sl : Slot) (f : BitVec 5) : (sl.raise f).asks = sl.asks := rfl
@[simp] theorem Slot.raise_fence (sl : Slot) (f : BitVec 5) : (sl.raise f).fence = sl.fence := rfl
@[simp] theorem Slot.raise_ringReport (sl : Slot) (f : BitVec 5) : (sl.raise f).ringReport = sl.ringReport := rfl
@[simp] theorem Slot.raise_nearFills (sl : Slot) (f : BitVec 5) : (sl.raise f).nearFills = sl.nearFills := rfl
@[simp] theorem Slot.raise_heldTiles (sl : Slot) (f : BitVec 5) : (sl.raise f).heldTiles = sl.heldTiles := rfl
@[simp] theorem Slot.raise_fetchDropped (sl : Slot) (f : BitVec 5) : (sl.raise f).fetchDropped = sl.fetchDropped := rfl
@[simp] theorem Slot.raise_resolved (sl : Slot) (f : BitVec 5) : (sl.raise f).resolved = sl.resolved := rfl
@[simp] theorem Slot.raise_fetched (sl : Slot) (f : BitVec 5) : (sl.raise f).fetched = sl.fetched := rfl
@[simp] theorem Slot.raise_skipBreak (sl : Slot) (f : BitVec 5) : (sl.raise f).skipBreak = sl.skipBreak := rfl

/-! ### `setPP` -/

@[simp] theorem Slot.setPP_x (sl : Slot) (b : Bool) : (sl.setPP b).x = sl.x := rfl
@[simp] theorem Slot.setPP_v (sl : Slot) (b : Bool) : (sl.setPP b).v = sl.v := rfl
@[simp] theorem Slot.setPP_xm (sl : Slot) (b : Bool) : (sl.setPP b).xm = sl.xm := rfl
@[simp] theorem Slot.setPP_vm (sl : Slot) (b : Bool) : (sl.setPP b).vm = sl.vm := rfl
@[simp] theorem Slot.setPP_q (sl : Slot) (b : Bool) : (sl.setPP b).q = sl.q := rfl
@[simp] theorem Slot.setPP_kprog (sl : Slot) (b : Bool) : (sl.setPP b).kprog = sl.kprog := rfl
@[simp] theorem Slot.setPP_kloop0 (sl : Slot) (b : Bool) : (sl.setPP b).kloop0 = sl.kloop0 := rfl
@[simp] theorem Slot.setPP_kls0 (sl : Slot) (b : Bool) : (sl.setPP b).kls0 = sl.kls0 := rfl
@[simp] theorem Slot.setPP_kle0 (sl : Slot) (b : Bool) : (sl.setPP b).kle0 = sl.kle0 := rfl
@[simp] theorem Slot.setPP_kloop1 (sl : Slot) (b : Bool) : (sl.setPP b).kloop1 = sl.kloop1 := rfl
@[simp] theorem Slot.setPP_kls1 (sl : Slot) (b : Bool) : (sl.setPP b).kls1 = sl.kls1 := rfl
@[simp] theorem Slot.setPP_kle1 (sl : Slot) (b : Bool) : (sl.setPP b).kle1 = sl.kle1 := rfl
@[simp] theorem Slot.setPP_kpfx (sl : Slot) (b : Bool) : (sl.setPP b).kpfx = sl.kpfx := rfl
@[simp] theorem Slot.setPP_kcause (sl : Slot) (b : Bool) : (sl.setPP b).kcause = sl.kcause := rfl
@[simp] theorem Slot.setPP_kaddr (sl : Slot) (b : Bool) : (sl.setPP b).kaddr = sl.kaddr := rfl
@[simp] theorem Slot.setPP_kepc (sl : Slot) (b : Bool) : (sl.setPP b).kepc = sl.kepc := rfl
@[simp] theorem Slot.setPP_kwdog (sl : Slot) (b : Bool) : (sl.setPP b).kwdog = sl.kwdog := rfl
@[simp] theorem Slot.setPP_kpath (sl : Slot) (b : Bool) : (sl.setPP b).kpath = sl.kpath := rfl
@[simp] theorem Slot.setPP_kseq (sl : Slot) (b : Bool) : (sl.setPP b).kseq = sl.kseq := rfl
@[simp] theorem Slot.setPP_pc (sl : Slot) (b : Bool) : (sl.setPP b).pc = sl.pc := rfl
@[simp] theorem Slot.setPP_cycles (sl : Slot) (b : Bool) : (sl.setPP b).cycles = sl.cycles := rfl
@[simp] theorem Slot.setPP_phase (sl : Slot) (b : Bool) : (sl.setPP b).phase = sl.phase := rfl
@[simp] theorem Slot.setPP_wait (sl : Slot) (b : Bool) : (sl.setPP b).wait = sl.wait := rfl
@[simp] theorem Slot.setPP_clause (sl : Slot) (b : Bool) : (sl.setPP b).clause = sl.clause := rfl
@[simp] theorem Slot.setPP_gen (sl : Slot) (b : Bool) : (sl.setPP b).gen = sl.gen := rfl
@[simp] theorem Slot.setPP_owed (sl : Slot) (b : Bool) : (sl.setPP b).owed = sl.owed := rfl
@[simp] theorem Slot.setPP_trapNo (sl : Slot) (b : Bool) : (sl.setPP b).trapNo = sl.trapNo := rfl
@[simp] theorem Slot.setPP_line (sl : Slot) (b : Bool) : (sl.setPP b).line = sl.line := rfl
@[simp] theorem Slot.setPP_fetching (sl : Slot) (b : Bool) : (sl.setPP b).fetching = sl.fetching := rfl
@[simp] theorem Slot.setPP_fetchFar (sl : Slot) (b : Bool) : (sl.setPP b).fetchFar = sl.fetchFar := rfl
@[simp] theorem Slot.setPP_fwd (sl : Slot) (b : Bool) : (sl.setPP b).fwd = sl.fwd := rfl
@[simp] theorem Slot.setPP_far (sl : Slot) (b : Bool) : (sl.setPP b).far = sl.far := rfl
@[simp] theorem Slot.setPP_asks (sl : Slot) (b : Bool) : (sl.setPP b).asks = sl.asks := rfl
@[simp] theorem Slot.setPP_fence (sl : Slot) (b : Bool) : (sl.setPP b).fence = sl.fence := rfl
@[simp] theorem Slot.setPP_ringReport (sl : Slot) (b : Bool) : (sl.setPP b).ringReport = sl.ringReport := rfl
@[simp] theorem Slot.setPP_nearFills (sl : Slot) (b : Bool) : (sl.setPP b).nearFills = sl.nearFills := rfl
@[simp] theorem Slot.setPP_heldTiles (sl : Slot) (b : Bool) : (sl.setPP b).heldTiles = sl.heldTiles := rfl
@[simp] theorem Slot.setPP_fetchDropped (sl : Slot) (b : Bool) : (sl.setPP b).fetchDropped = sl.fetchDropped := rfl
@[simp] theorem Slot.setPP_resolved (sl : Slot) (b : Bool) : (sl.setPP b).resolved = sl.resolved := rfl
@[simp] theorem Slot.setPP_fetched (sl : Slot) (b : Bool) : (sl.setPP b).fetched = sl.fetched := rfl
@[simp] theorem Slot.setPP_skipBreak (sl : Slot) (b : Bool) : (sl.setPP b).skipBreak = sl.skipBreak := rfl

/-! ### `setAP` -/

@[simp] theorem Slot.setAP_x (sl : Slot) (b : Bool) : (sl.setAP b).x = sl.x := rfl
@[simp] theorem Slot.setAP_v (sl : Slot) (b : Bool) : (sl.setAP b).v = sl.v := rfl
@[simp] theorem Slot.setAP_xm (sl : Slot) (b : Bool) : (sl.setAP b).xm = sl.xm := rfl
@[simp] theorem Slot.setAP_vm (sl : Slot) (b : Bool) : (sl.setAP b).vm = sl.vm := rfl
@[simp] theorem Slot.setAP_q (sl : Slot) (b : Bool) : (sl.setAP b).q = sl.q := rfl
@[simp] theorem Slot.setAP_kprog (sl : Slot) (b : Bool) : (sl.setAP b).kprog = sl.kprog := rfl
@[simp] theorem Slot.setAP_kloop0 (sl : Slot) (b : Bool) : (sl.setAP b).kloop0 = sl.kloop0 := rfl
@[simp] theorem Slot.setAP_kls0 (sl : Slot) (b : Bool) : (sl.setAP b).kls0 = sl.kls0 := rfl
@[simp] theorem Slot.setAP_kle0 (sl : Slot) (b : Bool) : (sl.setAP b).kle0 = sl.kle0 := rfl
@[simp] theorem Slot.setAP_kloop1 (sl : Slot) (b : Bool) : (sl.setAP b).kloop1 = sl.kloop1 := rfl
@[simp] theorem Slot.setAP_kls1 (sl : Slot) (b : Bool) : (sl.setAP b).kls1 = sl.kls1 := rfl
@[simp] theorem Slot.setAP_kle1 (sl : Slot) (b : Bool) : (sl.setAP b).kle1 = sl.kle1 := rfl
@[simp] theorem Slot.setAP_kpfx (sl : Slot) (b : Bool) : (sl.setAP b).kpfx = sl.kpfx := rfl
@[simp] theorem Slot.setAP_kcause (sl : Slot) (b : Bool) : (sl.setAP b).kcause = sl.kcause := rfl
@[simp] theorem Slot.setAP_kaddr (sl : Slot) (b : Bool) : (sl.setAP b).kaddr = sl.kaddr := rfl
@[simp] theorem Slot.setAP_kepc (sl : Slot) (b : Bool) : (sl.setAP b).kepc = sl.kepc := rfl
@[simp] theorem Slot.setAP_kwdog (sl : Slot) (b : Bool) : (sl.setAP b).kwdog = sl.kwdog := rfl
@[simp] theorem Slot.setAP_kpath (sl : Slot) (b : Bool) : (sl.setAP b).kpath = sl.kpath := rfl
@[simp] theorem Slot.setAP_kseq (sl : Slot) (b : Bool) : (sl.setAP b).kseq = sl.kseq := rfl
@[simp] theorem Slot.setAP_pc (sl : Slot) (b : Bool) : (sl.setAP b).pc = sl.pc := rfl
@[simp] theorem Slot.setAP_cycles (sl : Slot) (b : Bool) : (sl.setAP b).cycles = sl.cycles := rfl
@[simp] theorem Slot.setAP_phase (sl : Slot) (b : Bool) : (sl.setAP b).phase = sl.phase := rfl
@[simp] theorem Slot.setAP_wait (sl : Slot) (b : Bool) : (sl.setAP b).wait = sl.wait := rfl
@[simp] theorem Slot.setAP_clause (sl : Slot) (b : Bool) : (sl.setAP b).clause = sl.clause := rfl
@[simp] theorem Slot.setAP_gen (sl : Slot) (b : Bool) : (sl.setAP b).gen = sl.gen := rfl
@[simp] theorem Slot.setAP_owed (sl : Slot) (b : Bool) : (sl.setAP b).owed = sl.owed := rfl
@[simp] theorem Slot.setAP_trapNo (sl : Slot) (b : Bool) : (sl.setAP b).trapNo = sl.trapNo := rfl
@[simp] theorem Slot.setAP_line (sl : Slot) (b : Bool) : (sl.setAP b).line = sl.line := rfl
@[simp] theorem Slot.setAP_fetching (sl : Slot) (b : Bool) : (sl.setAP b).fetching = sl.fetching := rfl
@[simp] theorem Slot.setAP_fetchFar (sl : Slot) (b : Bool) : (sl.setAP b).fetchFar = sl.fetchFar := rfl
@[simp] theorem Slot.setAP_fwd (sl : Slot) (b : Bool) : (sl.setAP b).fwd = sl.fwd := rfl
@[simp] theorem Slot.setAP_far (sl : Slot) (b : Bool) : (sl.setAP b).far = sl.far := rfl
@[simp] theorem Slot.setAP_asks (sl : Slot) (b : Bool) : (sl.setAP b).asks = sl.asks := rfl
@[simp] theorem Slot.setAP_fence (sl : Slot) (b : Bool) : (sl.setAP b).fence = sl.fence := rfl
@[simp] theorem Slot.setAP_ringReport (sl : Slot) (b : Bool) : (sl.setAP b).ringReport = sl.ringReport := rfl
@[simp] theorem Slot.setAP_nearFills (sl : Slot) (b : Bool) : (sl.setAP b).nearFills = sl.nearFills := rfl
@[simp] theorem Slot.setAP_heldTiles (sl : Slot) (b : Bool) : (sl.setAP b).heldTiles = sl.heldTiles := rfl
@[simp] theorem Slot.setAP_fetchDropped (sl : Slot) (b : Bool) : (sl.setAP b).fetchDropped = sl.fetchDropped := rfl
@[simp] theorem Slot.setAP_resolved (sl : Slot) (b : Bool) : (sl.setAP b).resolved = sl.resolved := rfl
@[simp] theorem Slot.setAP_fetched (sl : Slot) (b : Bool) : (sl.setAP b).fetched = sl.fetched := rfl
@[simp] theorem Slot.setAP_skipBreak (sl : Slot) (b : Bool) : (sl.setAP b).skipBreak = sl.skipBreak := rfl

/-- The loop-end test writes the loop counts and the program counter only. -/
theorem Slot.loopEnd_frame (sl : Slot) :
    sl.loopEnd = { sl with kloop0 := sl.loopEnd.kloop0, kloop1 := sl.loopEnd.kloop1, pc := sl.loopEnd.pc } := by
  unfold Slot.loopEnd; dsimp only; split <;> (first | rfl | (split <;> rfl))

/-! ### `loopEnd` -/

@[simp] theorem Slot.loopEnd_x (sl : Slot) : (sl.loopEnd).x = sl.x := by rw [Slot.loopEnd_frame]
@[simp] theorem Slot.loopEnd_v (sl : Slot) : (sl.loopEnd).v = sl.v := by rw [Slot.loopEnd_frame]
@[simp] theorem Slot.loopEnd_xm (sl : Slot) : (sl.loopEnd).xm = sl.xm := by rw [Slot.loopEnd_frame]
@[simp] theorem Slot.loopEnd_vm (sl : Slot) : (sl.loopEnd).vm = sl.vm := by rw [Slot.loopEnd_frame]
@[simp] theorem Slot.loopEnd_q (sl : Slot) : (sl.loopEnd).q = sl.q := by rw [Slot.loopEnd_frame]
@[simp] theorem Slot.loopEnd_kstat (sl : Slot) : (sl.loopEnd).kstat = sl.kstat := by rw [Slot.loopEnd_frame]
@[simp] theorem Slot.loopEnd_kprog (sl : Slot) : (sl.loopEnd).kprog = sl.kprog := by rw [Slot.loopEnd_frame]
@[simp] theorem Slot.loopEnd_kls0 (sl : Slot) : (sl.loopEnd).kls0 = sl.kls0 := by rw [Slot.loopEnd_frame]
@[simp] theorem Slot.loopEnd_kle0 (sl : Slot) : (sl.loopEnd).kle0 = sl.kle0 := by rw [Slot.loopEnd_frame]
@[simp] theorem Slot.loopEnd_kls1 (sl : Slot) : (sl.loopEnd).kls1 = sl.kls1 := by rw [Slot.loopEnd_frame]
@[simp] theorem Slot.loopEnd_kle1 (sl : Slot) : (sl.loopEnd).kle1 = sl.kle1 := by rw [Slot.loopEnd_frame]
@[simp] theorem Slot.loopEnd_kpfx (sl : Slot) : (sl.loopEnd).kpfx = sl.kpfx := by rw [Slot.loopEnd_frame]
@[simp] theorem Slot.loopEnd_kcause (sl : Slot) : (sl.loopEnd).kcause = sl.kcause := by rw [Slot.loopEnd_frame]
@[simp] theorem Slot.loopEnd_kaddr (sl : Slot) : (sl.loopEnd).kaddr = sl.kaddr := by rw [Slot.loopEnd_frame]
@[simp] theorem Slot.loopEnd_kepc (sl : Slot) : (sl.loopEnd).kepc = sl.kepc := by rw [Slot.loopEnd_frame]
@[simp] theorem Slot.loopEnd_kwdog (sl : Slot) : (sl.loopEnd).kwdog = sl.kwdog := by rw [Slot.loopEnd_frame]
@[simp] theorem Slot.loopEnd_kpath (sl : Slot) : (sl.loopEnd).kpath = sl.kpath := by rw [Slot.loopEnd_frame]
@[simp] theorem Slot.loopEnd_kseq (sl : Slot) : (sl.loopEnd).kseq = sl.kseq := by rw [Slot.loopEnd_frame]
@[simp] theorem Slot.loopEnd_cycles (sl : Slot) : (sl.loopEnd).cycles = sl.cycles := by rw [Slot.loopEnd_frame]
@[simp] theorem Slot.loopEnd_phase (sl : Slot) : (sl.loopEnd).phase = sl.phase := by rw [Slot.loopEnd_frame]
@[simp] theorem Slot.loopEnd_wait (sl : Slot) : (sl.loopEnd).wait = sl.wait := by rw [Slot.loopEnd_frame]
@[simp] theorem Slot.loopEnd_clause (sl : Slot) : (sl.loopEnd).clause = sl.clause := by rw [Slot.loopEnd_frame]
@[simp] theorem Slot.loopEnd_gen (sl : Slot) : (sl.loopEnd).gen = sl.gen := by rw [Slot.loopEnd_frame]
@[simp] theorem Slot.loopEnd_owed (sl : Slot) : (sl.loopEnd).owed = sl.owed := by rw [Slot.loopEnd_frame]
@[simp] theorem Slot.loopEnd_trapNo (sl : Slot) : (sl.loopEnd).trapNo = sl.trapNo := by rw [Slot.loopEnd_frame]
@[simp] theorem Slot.loopEnd_line (sl : Slot) : (sl.loopEnd).line = sl.line := by rw [Slot.loopEnd_frame]
@[simp] theorem Slot.loopEnd_fetching (sl : Slot) : (sl.loopEnd).fetching = sl.fetching := by rw [Slot.loopEnd_frame]
@[simp] theorem Slot.loopEnd_fetchFar (sl : Slot) : (sl.loopEnd).fetchFar = sl.fetchFar := by rw [Slot.loopEnd_frame]
@[simp] theorem Slot.loopEnd_fwd (sl : Slot) : (sl.loopEnd).fwd = sl.fwd := by rw [Slot.loopEnd_frame]
@[simp] theorem Slot.loopEnd_far (sl : Slot) : (sl.loopEnd).far = sl.far := by rw [Slot.loopEnd_frame]
@[simp] theorem Slot.loopEnd_asks (sl : Slot) : (sl.loopEnd).asks = sl.asks := by rw [Slot.loopEnd_frame]
@[simp] theorem Slot.loopEnd_fence (sl : Slot) : (sl.loopEnd).fence = sl.fence := by rw [Slot.loopEnd_frame]
@[simp] theorem Slot.loopEnd_ringReport (sl : Slot) : (sl.loopEnd).ringReport = sl.ringReport := by rw [Slot.loopEnd_frame]
@[simp] theorem Slot.loopEnd_nearFills (sl : Slot) : (sl.loopEnd).nearFills = sl.nearFills := by rw [Slot.loopEnd_frame]
@[simp] theorem Slot.loopEnd_heldTiles (sl : Slot) : (sl.loopEnd).heldTiles = sl.heldTiles := by rw [Slot.loopEnd_frame]
@[simp] theorem Slot.loopEnd_fetchDropped (sl : Slot) : (sl.loopEnd).fetchDropped = sl.fetchDropped := by rw [Slot.loopEnd_frame]
@[simp] theorem Slot.loopEnd_resolved (sl : Slot) : (sl.loopEnd).resolved = sl.resolved := by rw [Slot.loopEnd_frame]
@[simp] theorem Slot.loopEnd_fetched (sl : Slot) : (sl.loopEnd).fetched = sl.fetched := by rw [Slot.loopEnd_frame]
@[simp] theorem Slot.loopEnd_skipBreak (sl : Slot) : (sl.loopEnd).skipBreak = sl.skipBreak := by rw [Slot.loopEnd_frame]

/-! ### `complete` -/

@[simp] theorem Slot.complete_x (sl : Slot) : (sl.complete).x = sl.x := by simp [Slot.complete]
@[simp] theorem Slot.complete_v (sl : Slot) : (sl.complete).v = sl.v := by simp [Slot.complete]
@[simp] theorem Slot.complete_xm (sl : Slot) : (sl.complete).xm = sl.xm := by simp [Slot.complete]
@[simp] theorem Slot.complete_vm (sl : Slot) : (sl.complete).vm = sl.vm := by simp [Slot.complete]
@[simp] theorem Slot.complete_q (sl : Slot) : (sl.complete).q = sl.q := by simp [Slot.complete]
@[simp] theorem Slot.complete_kprog (sl : Slot) : (sl.complete).kprog = sl.kprog := by simp [Slot.complete]
@[simp] theorem Slot.complete_kls0 (sl : Slot) : (sl.complete).kls0 = sl.kls0 := by simp [Slot.complete]
@[simp] theorem Slot.complete_kle0 (sl : Slot) : (sl.complete).kle0 = sl.kle0 := by simp [Slot.complete]
@[simp] theorem Slot.complete_kls1 (sl : Slot) : (sl.complete).kls1 = sl.kls1 := by simp [Slot.complete]
@[simp] theorem Slot.complete_kle1 (sl : Slot) : (sl.complete).kle1 = sl.kle1 := by simp [Slot.complete]
@[simp] theorem Slot.complete_kpfx (sl : Slot) : (sl.complete).kpfx = sl.kpfx := by simp [Slot.complete]
@[simp] theorem Slot.complete_kcause (sl : Slot) : (sl.complete).kcause = sl.kcause := by simp [Slot.complete]
@[simp] theorem Slot.complete_kaddr (sl : Slot) : (sl.complete).kaddr = sl.kaddr := by simp [Slot.complete]
@[simp] theorem Slot.complete_kepc (sl : Slot) : (sl.complete).kepc = sl.kepc := by simp [Slot.complete]
@[simp] theorem Slot.complete_kwdog (sl : Slot) : (sl.complete).kwdog = sl.kwdog := by simp [Slot.complete]
@[simp] theorem Slot.complete_kpath (sl : Slot) : (sl.complete).kpath = sl.kpath := by simp [Slot.complete]
@[simp] theorem Slot.complete_kseq (sl : Slot) : (sl.complete).kseq = sl.kseq := by simp [Slot.complete]
@[simp] theorem Slot.complete_cycles (sl : Slot) : (sl.complete).cycles = sl.cycles := by simp [Slot.complete]
@[simp] theorem Slot.complete_phase (sl : Slot) : (sl.complete).phase = sl.phase := by simp [Slot.complete]
@[simp] theorem Slot.complete_clause (sl : Slot) : (sl.complete).clause = sl.clause := by simp [Slot.complete]
@[simp] theorem Slot.complete_gen (sl : Slot) : (sl.complete).gen = sl.gen := by simp [Slot.complete]
@[simp] theorem Slot.complete_owed (sl : Slot) : (sl.complete).owed = sl.owed := by simp [Slot.complete]
@[simp] theorem Slot.complete_trapNo (sl : Slot) : (sl.complete).trapNo = sl.trapNo := by simp [Slot.complete]
@[simp] theorem Slot.complete_line (sl : Slot) : (sl.complete).line = sl.line := by simp [Slot.complete]
@[simp] theorem Slot.complete_fetching (sl : Slot) : (sl.complete).fetching = sl.fetching := by simp [Slot.complete]
@[simp] theorem Slot.complete_fetchFar (sl : Slot) : (sl.complete).fetchFar = sl.fetchFar := by simp [Slot.complete]
@[simp] theorem Slot.complete_fwd (sl : Slot) : (sl.complete).fwd = sl.fwd := by simp [Slot.complete]
@[simp] theorem Slot.complete_far (sl : Slot) : (sl.complete).far = sl.far := by simp [Slot.complete]
@[simp] theorem Slot.complete_asks (sl : Slot) : (sl.complete).asks = sl.asks := by simp [Slot.complete]
@[simp] theorem Slot.complete_fence (sl : Slot) : (sl.complete).fence = sl.fence := by simp [Slot.complete]
@[simp] theorem Slot.complete_ringReport (sl : Slot) : (sl.complete).ringReport = sl.ringReport := by simp [Slot.complete]
@[simp] theorem Slot.complete_nearFills (sl : Slot) : (sl.complete).nearFills = sl.nearFills := by simp [Slot.complete]
@[simp] theorem Slot.complete_heldTiles (sl : Slot) : (sl.complete).heldTiles = [] := by simp [Slot.complete]
@[simp] theorem Slot.complete_fetchDropped (sl : Slot) : (sl.complete).fetchDropped = sl.fetchDropped := by simp [Slot.complete]

/-! ### `jump` -/

@[simp] theorem Slot.jump_x (sl : Slot) (p : Word) : (sl.jump p).x = sl.x := rfl
@[simp] theorem Slot.jump_v (sl : Slot) (p : Word) : (sl.jump p).v = sl.v := rfl
@[simp] theorem Slot.jump_xm (sl : Slot) (p : Word) : (sl.jump p).xm = sl.xm := rfl
@[simp] theorem Slot.jump_vm (sl : Slot) (p : Word) : (sl.jump p).vm = sl.vm := rfl
@[simp] theorem Slot.jump_q (sl : Slot) (p : Word) : (sl.jump p).q = sl.q := rfl
@[simp] theorem Slot.jump_kprog (sl : Slot) (p : Word) : (sl.jump p).kprog = sl.kprog := rfl
@[simp] theorem Slot.jump_kloop0 (sl : Slot) (p : Word) : (sl.jump p).kloop0 = sl.kloop0 := rfl
@[simp] theorem Slot.jump_kls0 (sl : Slot) (p : Word) : (sl.jump p).kls0 = sl.kls0 := rfl
@[simp] theorem Slot.jump_kle0 (sl : Slot) (p : Word) : (sl.jump p).kle0 = sl.kle0 := rfl
@[simp] theorem Slot.jump_kloop1 (sl : Slot) (p : Word) : (sl.jump p).kloop1 = sl.kloop1 := rfl
@[simp] theorem Slot.jump_kls1 (sl : Slot) (p : Word) : (sl.jump p).kls1 = sl.kls1 := rfl
@[simp] theorem Slot.jump_kle1 (sl : Slot) (p : Word) : (sl.jump p).kle1 = sl.kle1 := rfl
@[simp] theorem Slot.jump_kpfx (sl : Slot) (p : Word) : (sl.jump p).kpfx = sl.kpfx := rfl
@[simp] theorem Slot.jump_kcause (sl : Slot) (p : Word) : (sl.jump p).kcause = sl.kcause := rfl
@[simp] theorem Slot.jump_kaddr (sl : Slot) (p : Word) : (sl.jump p).kaddr = sl.kaddr := rfl
@[simp] theorem Slot.jump_kepc (sl : Slot) (p : Word) : (sl.jump p).kepc = sl.kepc := rfl
@[simp] theorem Slot.jump_kwdog (sl : Slot) (p : Word) : (sl.jump p).kwdog = sl.kwdog := rfl
@[simp] theorem Slot.jump_kpath (sl : Slot) (p : Word) : (sl.jump p).kpath = sl.kpath := rfl
@[simp] theorem Slot.jump_kseq (sl : Slot) (p : Word) : (sl.jump p).kseq = sl.kseq := rfl
@[simp] theorem Slot.jump_cycles (sl : Slot) (p : Word) : (sl.jump p).cycles = sl.cycles := rfl
@[simp] theorem Slot.jump_phase (sl : Slot) (p : Word) : (sl.jump p).phase = sl.phase := rfl
@[simp] theorem Slot.jump_clause (sl : Slot) (p : Word) : (sl.jump p).clause = sl.clause := rfl
@[simp] theorem Slot.jump_gen (sl : Slot) (p : Word) : (sl.jump p).gen = sl.gen := rfl
@[simp] theorem Slot.jump_owed (sl : Slot) (p : Word) : (sl.jump p).owed = sl.owed := rfl
@[simp] theorem Slot.jump_trapNo (sl : Slot) (p : Word) : (sl.jump p).trapNo = sl.trapNo := rfl
@[simp] theorem Slot.jump_line (sl : Slot) (p : Word) : (sl.jump p).line = sl.line := rfl
@[simp] theorem Slot.jump_fetching (sl : Slot) (p : Word) : (sl.jump p).fetching = sl.fetching := rfl
@[simp] theorem Slot.jump_fetchFar (sl : Slot) (p : Word) : (sl.jump p).fetchFar = sl.fetchFar := rfl
@[simp] theorem Slot.jump_fwd (sl : Slot) (p : Word) : (sl.jump p).fwd = sl.fwd := rfl
@[simp] theorem Slot.jump_far (sl : Slot) (p : Word) : (sl.jump p).far = sl.far := rfl
@[simp] theorem Slot.jump_asks (sl : Slot) (p : Word) : (sl.jump p).asks = sl.asks := rfl
@[simp] theorem Slot.jump_fence (sl : Slot) (p : Word) : (sl.jump p).fence = sl.fence := rfl
@[simp] theorem Slot.jump_ringReport (sl : Slot) (p : Word) : (sl.jump p).ringReport = sl.ringReport := rfl
@[simp] theorem Slot.jump_nearFills (sl : Slot) (p : Word) : (sl.jump p).nearFills = sl.nearFills := rfl
@[simp] theorem Slot.jump_heldTiles (sl : Slot) (p : Word) : (sl.jump p).heldTiles = sl.heldTiles := rfl
@[simp] theorem Slot.jump_fetchDropped (sl : Slot) (p : Word) : (sl.jump p).fetchDropped = sl.fetchDropped := rfl

/-! ### Registers read what was written -/

@[simp] theorem Slot.xr_zero (sl : Slot) : sl.xr 0 = 0 := rfl
@[simp] theorem Slot.xmark_zero (sl : Slot) : sl.xmark 0 = .full := rfl
@[simp] theorem Slot.setX_zero (sl : Slot) (w : Word) : sl.setX 0 w = sl := rfl

theorem Slot.xr_setX (sl : Slot) (r j : Nat) (w : Word) : (sl.setX r w).xr j = if j = r ∧ r ≠ 0 then w else sl.xr j := by
  by_cases hr : r = 0
  · simp [hr]
  · by_cases hj : j = r
    · subst hj; simp [Slot.xr, Slot.setX, hr, Tab.get_set_same]
    · simp [Slot.xr, Slot.setX, hr, hj, Tab.get_set_other]

theorem Slot.xmark_setX (sl : Slot) (r j : Nat) (w : Word) : (sl.setX r w).xmark j = if j = r then .full else sl.xmark j := by
  by_cases hr : r = 0
  · subst hr; by_cases hj : j = 0 <;> simp [hj]
  · by_cases hj : j = r
    · subst hj; simp [Slot.xmark, Slot.setX, hr, Tab.get_set_same]
    · simp [Slot.xmark, Slot.setX, hr, hj, Tab.get_set_other]

@[simp] theorem Slot.xr_setX_same (sl : Slot) (r : Nat) (w : Word) (h : r ≠ 0) : (sl.setX r w).xr r = w := by simp [Slot.xr_setX, h]
theorem Slot.xr_setX_other (sl : Slot) (r j : Nat) (w : Word) (h : j ≠ r) : (sl.setX r w).xr j = sl.xr j := by simp [Slot.xr_setX, h]
@[simp] theorem Slot.vr_setX (sl : Slot) (r j : Nat) (w : Word) : (sl.setX r w).vr j = sl.vr j := by simp [Slot.vr]
@[simp] theorem Slot.vmark_setX (sl : Slot) (r j : Nat) (w : Word) : (sl.setX r w).vmark j = sl.vmark j := by simp [Slot.vmark]

theorem Slot.vr_setV (sl : Slot) (r j : Nat) (w : VWord) : (sl.setV r w).vr j = if j = r then w else sl.vr j := by
  by_cases hj : j = r
  · subst hj; simp [Slot.vr, Slot.setV, Tab.get_set_same]
  · simp [Slot.vr, Slot.setV, hj, Tab.get_set_other]

theorem Slot.vmark_setV (sl : Slot) (r j : Nat) (w : VWord) : (sl.setV r w).vmark j = if j = r then .full else sl.vmark j := by
  by_cases hj : j = r
  · subst hj; simp [Slot.vmark, Slot.setV, Tab.get_set_same]
  · simp [Slot.vmark, Slot.setV, hj, Tab.get_set_other]

@[simp] theorem Slot.xr_setV (sl : Slot) (r j : Nat) (w : VWord) : (sl.setV r w).xr j = sl.xr j := rfl
@[simp] theorem Slot.xmark_setV (sl : Slot) (r j : Nat) (w : VWord) : (sl.setV r w).xmark j = sl.xmark j := rfl

/-! ### Registers across the other operations -/

@[simp] theorem Slot.xr_raise (sl : Slot) (j : Nat) (f : BitVec 5) : (sl.raise f).xr j = sl.xr j := by simp [Slot.xr]
@[simp] theorem Slot.xmark_raise (sl : Slot) (j : Nat) (f : BitVec 5) : (sl.raise f).xmark j = sl.xmark j := by simp [Slot.xmark]
@[simp] theorem Slot.vr_raise (sl : Slot) (j : Nat) (f : BitVec 5) : (sl.raise f).vr j = sl.vr j := by simp [Slot.vr]
@[simp] theorem Slot.vmark_raise (sl : Slot) (j : Nat) (f : BitVec 5) : (sl.raise f).vmark j = sl.vmark j := by simp [Slot.vmark]
@[simp] theorem Slot.xr_setPP (sl : Slot) (j : Nat) (b : Bool) : (sl.setPP b).xr j = sl.xr j := by simp [Slot.xr]
@[simp] theorem Slot.xmark_setPP (sl : Slot) (j : Nat) (b : Bool) : (sl.setPP b).xmark j = sl.xmark j := by simp [Slot.xmark]
@[simp] theorem Slot.vr_setPP (sl : Slot) (j : Nat) (b : Bool) : (sl.setPP b).vr j = sl.vr j := by simp [Slot.vr]
@[simp] theorem Slot.vmark_setPP (sl : Slot) (j : Nat) (b : Bool) : (sl.setPP b).vmark j = sl.vmark j := by simp [Slot.vmark]
@[simp] theorem Slot.xr_setAP (sl : Slot) (j : Nat) (b : Bool) : (sl.setAP b).xr j = sl.xr j := by simp [Slot.xr]
@[simp] theorem Slot.xmark_setAP (sl : Slot) (j : Nat) (b : Bool) : (sl.setAP b).xmark j = sl.xmark j := by simp [Slot.xmark]
@[simp] theorem Slot.vr_setAP (sl : Slot) (j : Nat) (b : Bool) : (sl.setAP b).vr j = sl.vr j := by simp [Slot.vr]
@[simp] theorem Slot.vmark_setAP (sl : Slot) (j : Nat) (b : Bool) : (sl.setAP b).vmark j = sl.vmark j := by simp [Slot.vmark]
@[simp] theorem Slot.xr_loopEnd (sl : Slot) (j : Nat) : (sl.loopEnd).xr j = sl.xr j := by simp [Slot.xr]
@[simp] theorem Slot.xmark_loopEnd (sl : Slot) (j : Nat) : (sl.loopEnd).xmark j = sl.xmark j := by simp [Slot.xmark]
@[simp] theorem Slot.vr_loopEnd (sl : Slot) (j : Nat) : (sl.loopEnd).vr j = sl.vr j := by simp [Slot.vr]
@[simp] theorem Slot.vmark_loopEnd (sl : Slot) (j : Nat) : (sl.loopEnd).vmark j = sl.vmark j := by simp [Slot.vmark]
@[simp] theorem Slot.xr_complete (sl : Slot) (j : Nat) : (sl.complete).xr j = sl.xr j := by simp [Slot.xr]
@[simp] theorem Slot.xmark_complete (sl : Slot) (j : Nat) : (sl.complete).xmark j = sl.xmark j := by simp [Slot.xmark]
@[simp] theorem Slot.vr_complete (sl : Slot) (j : Nat) : (sl.complete).vr j = sl.vr j := by simp [Slot.vr]
@[simp] theorem Slot.vmark_complete (sl : Slot) (j : Nat) : (sl.complete).vmark j = sl.vmark j := by simp [Slot.vmark]
@[simp] theorem Slot.xr_jump (sl : Slot) (j : Nat) (p : Word) : (sl.jump p).xr j = sl.xr j := by simp [Slot.xr]
@[simp] theorem Slot.xmark_jump (sl : Slot) (j : Nat) (p : Word) : (sl.jump p).xmark j = sl.xmark j := by simp [Slot.xmark]
@[simp] theorem Slot.vr_jump (sl : Slot) (j : Nat) (p : Word) : (sl.jump p).vr j = sl.vr j := by simp [Slot.vr]
@[simp] theorem Slot.vmark_jump (sl : Slot) (j : Nat) (p : Word) : (sl.jump p).vmark j = sl.vmark j := by simp [Slot.vmark]

/-! ### Groups -/

theorem Slot.vr_setVs (vs : List VWord) : ∀ (sl : Slot) (r j : Nat),
    (sl.setVs r vs).vr j = if r ≤ j ∧ j < r + vs.length then vs.getD (j - r) 0 else sl.vr j := by
  induction vs with
  | nil => intro sl r j; simp only [Slot.setVs, List.length_nil]; rw [if_neg (by omega)]
  | cons w t ih =>
    intro sl r j
    simp only [Slot.setVs, ih, Slot.vr_setV, List.length_cons]
    by_cases hj : j = r
    · subst hj; rw [if_neg (by omega), if_pos (by omega)]; simp
    · by_cases h : r + 1 ≤ j ∧ j < r + 1 + t.length
      · rw [if_pos h, if_pos (by omega)]
        obtain ⟨k, hk⟩ : ∃ k, j - r = k + 1 := ⟨j - r - 1, by omega⟩
        rw [hk, show j - (r + 1) = k by omega]; simp
      · rw [if_neg h, if_neg hj, if_neg (by omega)]

theorem Slot.vmark_setVs (vs : List VWord) : ∀ (sl : Slot) (r j : Nat),
    (sl.setVs r vs).vmark j = if r ≤ j ∧ j < r + vs.length then .full else sl.vmark j := by
  induction vs with
  | nil => intro sl r j; simp only [Slot.setVs, List.length_nil]; rw [if_neg (by omega)]
  | cons w t ih =>
    intro sl r j
    simp only [Slot.setVs, ih, Slot.vmark_setV, List.length_cons]
    by_cases hj : j = r
    · subst hj; rw [if_neg (by omega), if_pos (by omega)]; simp
    · by_cases h : r + 1 ≤ j ∧ j < r + 1 + t.length
      · rw [if_pos h, if_pos (by omega)]
      · rw [if_neg h, if_neg hj, if_neg (by omega)]

/-- A group of v registers written changes nothing else of the slot. -/
theorem Slot.setVs_frame (vs : List VWord) : ∀ (sl : Slot) (r : Nat),
    sl.setVs r vs = { sl with v := (sl.setVs r vs).v, vm := (sl.setVs r vs).vm } := by
  induction vs with
  | nil => intro sl r; rfl
  | cons w t ih => intro sl r; simp only [Slot.setVs]; rw [ih]; rfl

/-- A group of x registers written changes nothing else of the slot. -/
theorem Slot.setXs_frame (ws : List Word) : ∀ (sl : Slot) (r : Nat),
    sl.setXs r ws = { sl with x := (sl.setXs r ws).x, xm := (sl.setXs r ws).xm } := by
  induction ws with
  | nil => intro sl r; rfl
  | cons w t ih =>
    intro sl r; simp only [Slot.setXs]; rw [ih]; unfold Slot.setX; split <;> rfl

theorem Slot.xr_setXs (ws : List Word) : ∀ (sl : Slot) (r j : Nat),
    (sl.setXs r ws).xr j = if r ≤ j ∧ j < r + ws.length ∧ j ≠ 0 then ws.getD (j - r) 0 else sl.xr j := by
  induction ws with
  | nil => intro sl r j; simp only [Slot.setXs, List.length_nil]; rw [if_neg (by omega)]
  | cons w t ih =>
    intro sl r j
    simp only [Slot.setXs, ih, Slot.xr_setX, List.length_cons]
    by_cases h0 : j = 0
    · subst h0; rw [if_neg (by omega), if_neg (by omega), if_neg (by omega)]
    · by_cases hj : j = r
      · subst hj; rw [if_neg (by omega), if_pos ⟨rfl, h0⟩, if_pos (by omega)]; simp
      · by_cases h : r + 1 ≤ j ∧ j < r + 1 + t.length
        · rw [if_pos (by omega), if_pos (by omega)]
          obtain ⟨k, hk⟩ : ∃ k, j - r = k + 1 := ⟨j - r - 1, by omega⟩
          rw [hk, show j - (r + 1) = k by omega]; simp
        · rw [if_neg (by omega), if_neg (by omega), if_neg (by omega)]

/-! ### The prefix and the flags -/

theorem Slot.flags_raise (sl : Slot) (f : BitVec 5) : (sl.raise f).flags = sl.flags ||| f.toNat := by
  simp only [Slot.flags, Slot.raise]
  exact fld_or_shift _ _ _ (by omega)

@[simp] theorem Slot.flags_setPP (sl : Slot) (b : Bool) : (sl.setPP b).flags = sl.flags := by
  simp only [Slot.flags, Slot.setPP]
  exact fld_withFld_of_disjoint _ _ _ _ _ _ (by omega) (by omega)

@[simp] theorem Slot.flags_complete (sl : Slot) : sl.complete.flags = sl.flags := by
  have : sl.complete.kstat = (sl.setPP false).kstat := by simp [Slot.complete]
  rw [Slot.flags, this]; exact Slot.flags_setPP sl false

@[simp] theorem Slot.pp_complete (sl : Slot) : sl.complete.pp = false := by
  have : sl.complete.kstat = (sl.setPP false).kstat := by simp [Slot.complete]
  rw [Slot.pp, this]; simp only [Slot.setPP]
  exact bit_withFld_zero _ _ (by omega)

end Sys2Proof.Machine
end

