-- ==== Sys2Proof/Laws/Checks.lean ====
section
/-!
SUPPORT. The common checks of an instruction (04_encoding.md R73): what a run comes to, once for every meaning.
-/
namespace Sys2Proof.Machine

/-! ### Results -/

@[simp] theorem Res.bind_ok {α β : Type} (a : α) (f : α → Res β) : (Res.ok a).bind f = f a := rfl
@[simp] theorem Res.bind_trap {α β : Type} (c : Nat) (a : Word) (f : α → Res β) : (Res.trap c a).bind f = .trap c a := rfl
@[simp] theorem Res.bind_stall {α β : Type} (f : α → Res β) : (Res.stall).bind f = .stall := rfl
@[simp] theorem require_true (c : Nat) (a : Word) : require true c a = .ok () := rfl
@[simp] theorem require_false (c : Nat) (a : Word) : require false c a = .trap c a := rfl
@[simp] theorem stallUnless_true : stallUnless true = .ok () := rfl
@[simp] theorem stallUnless_false : stallUnless false = .stall := rfl
@[simp] theorem State.settle_ok (s t : State) : s.settle (.ok t) = t := rfl
@[simp] theorem State.settle_trap (s : State) (c : Nat) (a : Word) : s.settle (.trap c a) = s.raise c a := rfl
@[simp] theorem State.settle_stall (s : State) : s.settle .stall = s := rfl

/-- A trap that is not of translation is taken with nothing recorded beside. -/
@[simp] theorem State.raise_of_ne (s : State) {c : Nat} (a : Word) (h : c ≠ 0x50) : s.raise c a = s.trap c a := by rw [State.raise, if_neg h]

theorem require_pos {p : Bool} (h : p = true) (c : Nat) (a : Word) : require p c a = .ok () := by subst h; rfl
theorem require_neg {p : Bool} (h : p = false) (c : Nat) (a : Word) : require p c a = .trap c a := by subst h; rfl
theorem stallUnless_pos {p : Bool} (h : p = true) : stallUnless p = .ok () := by subst h; rfl
theorem stallUnless_neg {p : Bool} (h : p = false) : stallUnless p = .stall := by subst h; rfl

/-- A result that goes on came from one that goes on. -/
theorem Res.bind_eq_ok {α β : Type} {r : Res α} {f : α → Res β} {b : β} (h : r.bind f = .ok b) : ∃ a, r = .ok a ∧ f a = .ok b := by
  cases r with
  | ok a => exact ⟨a, rfl, h⟩
  | trap c a => exact nomatch h
  | stall => exact nomatch h

/-- What a settled result can be. -/
theorem State.settle_cases (s : State) (r : Res State) :
    (∃ t, r = .ok t ∧ s.settle r = t) ∨ (∃ c a, r = .trap c a ∧ s.settle r = s.raise c a) ∨ (r = .stall ∧ s.settle r = s) := by
  cases r with
  | ok t => exact .inl ⟨t, rfl, rfl⟩
  | trap c a => exact .inr (.inl ⟨c, a, rfl, rfl⟩)
  | stall => exact .inr (.inr ⟨rfl, rfl⟩)

/-! ### Groups of registers -/

/-- No register of a group is empty, or one is and it is the first. -/
theorem Slot.firstEmpty_eq_none (sl : Slot) (vec : Bool) : ∀ (n r : Nat), (∀ i < n, sl.mark vec (r + i) ≠ .empty) → sl.firstEmpty vec r n = none := by
  intro n; induction n with
  | zero => intros; rfl
  | succ n ih =>
    intro r h
    rw [Slot.firstEmpty, if_neg (by simpa using h 0 (by omega))]
    exact ih _ fun i hi => by simpa [Nat.add_assoc, Nat.add_comm 1] using h (i + 1) (by omega)

theorem Slot.firstEmpty_eq_some (sl : Slot) (vec : Bool) : ∀ (n r i : Nat), i < n → sl.mark vec (r + i) = .empty →
    (∀ j < i, sl.mark vec (r + j) ≠ .empty) → sl.firstEmpty vec r n = some (r + i) := by
  intro n; induction n with
  | zero => intro r i hi; omega
  | succ n ih =>
    intro r i hi h hb
    cases i with
    | zero => rw [Slot.firstEmpty, if_pos (by simpa using h)]; rfl
    | succ i =>
      rw [Slot.firstEmpty, if_neg (by simpa using hb 0 (by omega)), ih (r + 1) i (by omega)]
      · simp [Nat.add_assoc, Nat.add_comm 1]
      · simpa [Nat.add_assoc, Nat.add_comm 1] using h
      · intro j hj; simpa [Nat.add_assoc, Nat.add_comm 1] using hb (j + 1) (by omega)

theorem Slot.firstMarked_eq_none (sl : Slot) (vec : Bool) : ∀ (n r : Nat), (∀ i < n, sl.mark vec (r + i) = .full) → sl.firstMarked vec r n = none := by
  intro n; induction n with
  | zero => intros; rfl
  | succ n ih =>
    intro r h
    have h0 : sl.mark vec r = .full := by simpa using h 0 (by omega)
    rw [Slot.firstMarked, h0]
    exact ih _ fun i hi => by simpa [Nat.add_assoc, Nat.add_comm 1] using h (i + 1) (by omega)

theorem Slot.firstFaulty_eq_none (sl : Slot) (vec : Bool) : ∀ (n r : Nat), (∀ i < n, sl.mark vec (r + i) = .full) → sl.firstFaulty vec r n = none := by
  intro n; induction n with
  | zero => intros; rfl
  | succ n ih =>
    intro r h
    have h0 : sl.mark vec r = .full := by simpa using h 0 (by omega)
    rw [Slot.firstFaulty, h0, if_neg (by simp)]
    exact ih _ fun i hi => by simpa [Nat.add_assoc, Nat.add_comm 1] using h (i + 1) (by omega)

theorem Slot.firstMarked_eq_some (sl : Slot) (vec : Bool) (c : Nat) (a : Word) : ∀ (n r i : Nat), i < n → sl.mark vec (r + i) = .marked c a →
    (∀ j < i, sl.mark vec (r + j) = .full) → sl.firstMarked vec r n = some (c, a) := by
  intro n; induction n with
  | zero => intro r i hi; omega
  | succ n ih =>
    intro r i hi h hb
    cases i with
    | zero => have h0 : sl.mark vec r = .marked c a := by simpa using h
              rw [Slot.firstMarked, h0]
    | succ i =>
      have h0 : sl.mark vec r = .full := by simpa using hb 0 (by omega)
      rw [Slot.firstMarked, h0]
      refine ih (r + 1) i (by omega) ?_ ?_
      · simpa [Nat.add_assoc, Nat.add_comm 1] using h
      · intro j hj; simpa [Nat.add_assoc, Nat.add_comm 1] using hb (j + 1) (by omega)

/-- A source whose registers are all full passes. -/
theorem Slot.checkSrc_full (sl : Slot) (x : Src) (h : ∀ i < x.count, sl.mark x.vec (x.reg + i) = .full) : sl.checkSrc x = .ok () := by
  rw [Slot.checkSrc, Slot.firstEmpty_eq_none _ _ _ _ (fun i hi => by rw [h i hi]; simp), Slot.firstMarked_eq_none _ _ _ _ h,
    Slot.firstFaulty_eq_none _ _ _ _ h]

/-- Sources that are all full pass, and what follows them is looked at. -/
theorem Slot.checkSrcs_append (sl : Slot) (l r : List Src) (h : ∀ x ∈ l, ∀ i < x.count, sl.mark x.vec (x.reg + i) = .full) :
    sl.checkSrcs (l ++ r) = sl.checkSrcs r := by
  induction l with
  | nil => rfl
  | cons x t ih =>
    rw [List.cons_append, Slot.checkSrcs, Slot.checkSrc_full _ _ (h x (by simp)), Res.bind_ok]
    exact ih fun y hy => h y (by simp [hy])

theorem Slot.checkSrcs_full (sl : Slot) (l : List Src) (h : ∀ x ∈ l, ∀ i < x.count, sl.mark x.vec (x.reg + i) = .full) :
    sl.checkSrcs l = .ok () := by
  have := sl.checkSrcs_append l [] h
  rwa [List.append_nil] at this

/-- Destinations with no empty member pass, and what follows them is looked at. -/
theorem Slot.checkDsts_append (sl : Slot) (l r : List Dst) (h : ∀ d ∈ l, ∀ i < d.count, sl.mark d.vec (d.reg + i) ≠ .empty) :
    sl.checkDsts (l ++ r) = sl.checkDsts r := by
  induction l with
  | nil => rfl
  | cons x t ih =>
    rw [List.cons_append, Slot.checkDsts, Slot.firstEmpty_eq_none _ _ _ _ (h x (by simp))]
    exact ih fun y hy => h y (by simp [hy])

theorem Slot.checkDsts_ok (sl : Slot) (l : List Dst) (h : ∀ d ∈ l, ∀ i < d.count, sl.mark d.vec (d.reg + i) ≠ .empty) : sl.checkDsts l = .ok () := by
  have := sl.checkDsts_append l [] h
  rwa [List.append_nil] at this

theorem groupsAligned_iff (l : List (Nat × Nat)) : groupsAligned l = true ↔ ∀ g ∈ l, g.1 % g.2 = 0 := by
  induction l with
  | nil => simp [groupsAligned]
  | cons g t ih => obtain ⟨r, n⟩ := g; simp [groupsAligned, ih]

/-! ### Running an instruction -/

/-- A state that is ready passes the checks. -/
theorem Slot.check_of_ready (s : State) (n : Need) (h : Ready s n.srcs n.dsts n.groups n.format n.priv) : s.sl.check n = .ok () := by
  obtain ⟨-, hg, hf, hp, hs, hd⟩ := h
  rw [Slot.check, require_pos ((groupsAligned_iff _).2 hg), require_pos (by rcases hf with h | h <;> simp [h]), require_pos (by simpa using hp),
    Slot.checkSrcs_full _ _ hs]
  exact Slot.checkDsts_ok _ _ hd

/-- A slot that is ready runs its instruction's own checks and effect. -/
theorem State.run_of_ready (s : State) (n : Need) (body : Res State) (h : Ready s n.srcs n.dsts n.groups n.format n.priv) :
    s.run n body = s.settle body := by
  rw [State.run, h.1, Slot.check_of_ready s n h]; rfl

/-- An instruction whose requests are out stays as it is. -/
theorem State.run_of_blocked (s : State) (n : Need) (body : Res State) (h : s.sl.blocked = true) : s.run n body = s := by
  rw [State.run, if_pos h]

/-- What running an instruction can come to: its effect, a trap, or the state as it was. -/
theorem State.run_cases (s : State) (n : Need) (body : Res State) :
    (∃ t, body = .ok t ∧ s.run n body = t) ∨ (∃ c a, s.run n body = s.raise c a) ∨ s.run n body = s := by
  rw [State.run]
  by_cases hb : s.sl.blocked = true
  · rw [if_pos hb]; exact .inr (.inr rfl)
  · rw [if_neg hb]
    cases s.sl.check n with
    | ok u =>
      rcases s.settle_cases body with ⟨t, h1, h2⟩ | ⟨c, a, -, h2⟩ | ⟨-, h2⟩
      · exact .inl ⟨t, h1, h2⟩
      · exact .inr (.inl ⟨c, a, h2⟩)
      · exact .inr (.inr h2)
    | trap c a => exact .inr (.inl ⟨c, a, rfl⟩)
    | stall => exact .inr (.inr rfl)

/-! ### Fences (14_ordering.md R250) -/

/-- With no fence pending an access goes on at once. -/
theorem State.ordered_unfenced (s : State) (write : Bool) (f : State → Res State) (h : Unfenced s) : s.ordered write f = f s := by
  unfold Unfenced at h
  simp [State.ordered, State.fenceReady, State.passFence, h]

/-- An access that has to wait stalls; one that need not has passed the fences. -/
theorem State.ordered_cases (s : State) (write : Bool) (f : State → Res State) :
    (s.fenceReady write = true ∧ s.ordered write f = f (s.passFence write)) ∨ (s.fenceReady write = false ∧ s.ordered write f = .stall) := by
  unfold State.ordered
  cases h : s.fenceReady write
  · exact .inr ⟨rfl, rfl⟩
  · exact .inl ⟨rfl, rfl⟩

end Sys2Proof.Machine
end

