-- ==== Sys2Proof/Laws/Frames.lean ====
section
/-!
SUPPORT. What each shared operation over the units of the package may change: one equation for each, which says that all other parts of
the state are as before.
-/
namespace Sys2Proof.Machine

/-! ### Writes of the device -/

/-- The poison that a write covers whole is all that is cleared. -/
theorem State.clearUnits_frame (w : Nat) : ∀ (n : Nat) (s : State) (a : Nat), s.clearUnits a w n = { s with poison := (s.clearUnits a w n).poison } := by
  intro n; induction n with
  | zero => intros; rfl
  | succ n ih => intro s a; rw [State.clearUnits, ih]; cases s.media a <;> rfl

theorem State.clearWhole_frame (s : State) (a n : Nat) : s.clearWhole a n = { s with poison := (s.clearWhole a n).poison } := by
  unfold State.clearWhole
  dsimp only
  split
  · rfl
  · exact State.clearUnits_frame _ _ _ _

/-- Bytes put at a device address change memory, and the count of stores of their granules. -/
theorem State.devPut_frame (bs : List Byte) : ∀ (s : State) (a : Nat),
    s.devPut a bs = { s with mem := (s.devPut a bs).mem, stored := (s.devPut a bs).stored } := by
  induction bs with
  | nil => intro s a; rfl
  | cons b t ih =>
    intro s a
    rw [State.devPut, ih]
    cases s.media a with
    | none => rfl
    | some m => dsimp only; split <;> rfl

/-- A unit's write to a device address changes memory with its side-band bits only. -/
theorem State.devWrite_frame (bs : List Byte) (s : State) (a : Nat) :
    s.devWrite a bs = { s with mem := (s.devWrite a bs).mem, poison := (s.devWrite a bs).poison, stored := (s.devWrite a bs).stored } := by
  rw [State.devWrite, State.devPut_frame, State.clearWhole_frame]

@[simp] theorem State.devWrite_hub (s : State) (a : Nat) (bs : List Byte) : (s.devWrite a bs).hub = s.hub := by rw [State.devWrite_frame]
@[simp] theorem State.devWrite_slots (s : State) (a : Nat) (bs : List Byte) : (s.devWrite a bs).slots = s.slots := by rw [State.devWrite_frame]
@[simp] theorem State.devWrite_cores (s : State) (a : Nat) (bs : List Byte) : (s.devWrite a bs).cores = s.cores := by rw [State.devWrite_frame]
@[simp] theorem State.devWrite_net (s : State) (a : Nat) (bs : List Byte) : (s.devWrite a bs).net = s.net := by rw [State.devWrite_frame]
@[simp] theorem State.devWrite_cur (s : State) (a : Nat) (bs : List Byte) : (s.devWrite a bs).cur = s.cur := by rw [State.devWrite_frame]

/-! ### Rings and records -/

/-- An entry of a ring changes memory with its side-band bits, or leaves for the chip that its ring lies on. -/
theorem State.ringWrite_frame (s : State) (ga : Word) (ws : List Word) :
    s.ringWrite ga ws = { s with mem := (s.ringWrite ga ws).mem, poison := (s.ringWrite ga ws).poison, stored := (s.ringWrite ga ws).stored, fabricOut := (s.ringWrite ga ws).fabricOut } := by
  unfold State.ringWrite
  dsimp only
  split
  · rw [State.devWrite_frame]
  · split <;> rfl

@[simp] theorem State.ringWrite_hub (s : State) (ga : Word) (ws : List Word) : (s.ringWrite ga ws).hub = s.hub := by rw [State.ringWrite_frame]
@[simp] theorem State.ringWrite_slots (s : State) (ga : Word) (ws : List Word) : (s.ringWrite ga ws).slots = s.slots := by rw [State.ringWrite_frame]
@[simp] theorem State.ringWrite_cores (s : State) (ga : Word) (ws : List Word) : (s.ringWrite ga ws).cores = s.cores := by rw [State.ringWrite_frame]

/-- A ring that lies on this chip is written in memory at once. -/
theorem State.ringWrite_own (s : State) (ga : Word) (ws : List Word) (h : chipOf ga = s.hub.chipId) :
    s.ringWrite ga ws = s.devWrite (devOf ga) (bytesOfWords ws) := if_pos h

/-- A record put into a ring changes memory with its side-band bits, or leaves for another chip. -/
theorem State.ringPut_frame {s t : State} {reg : Word} {head tail size n : Nat} {ws : List Word}
    (h : s.ringPut reg head tail size ws = some (t, n)) : t = { s with mem := t.mem, poison := t.poison, stored := t.stored, fabricOut := t.fabricOut } := by
  unfold State.ringPut at h
  split at h
  · exact nomatch h
  · split at h
    · exact nomatch h
    · injection h with h; injection h with h _; rw [← h]; exact State.ringWrite_frame _ _ _

/-- A record for a function's error ring changes memory, and of the hub that function only. -/
theorem State.errorRecord_frame (s : State) (v : Nat) (ws : List Word) :
    s.errorRecord v ws = { s with mem := (s.errorRecord v ws).mem, poison := (s.errorRecord v ws).poison, stored := (s.errorRecord v ws).stored, fabricOut := (s.errorRecord v ws).fabricOut, hub := { s.hub with vfs := (s.errorRecord v ws).hub.vfs } } := by
  unfold State.errorRecord
  dsimp only
  split
  · rename_i h; rw [State.ringPut_frame h]; rfl
  · rfl

/-- A record for a function's completion ring changes memory, and of the hub that function only. -/
theorem State.completionRecord_frame (s : State) (v : Nat) (ws : List Word) :
    s.completionRecord v ws = { s with mem := (s.completionRecord v ws).mem, poison := (s.completionRecord v ws).poison, stored := (s.completionRecord v ws).stored, fabricOut := (s.completionRecord v ws).fabricOut, hub := { s.hub with vfs := (s.completionRecord v ws).hub.vfs } } := by
  unfold State.completionRecord
  dsimp only
  split
  · rename_i h; rw [State.ringPut_frame h]; rfl
  · rfl

/-- A record for the kernel's error ring changes memory and the ring's tail only. -/
theorem State.kernelRecord_frame (s : State) (ws : List Word) :
    s.kernelRecord ws = { s with mem := (s.kernelRecord ws).mem, poison := (s.kernelRecord ws).poison, stored := (s.kernelRecord ws).stored, fabricOut := (s.kernelRecord ws).fabricOut, hub := { s.hub with keqTail := (s.kernelRecord ws).hub.keqTail } } := by
  unfold State.kernelRecord
  split
  · rename_i h; rw [State.ringPut_frame h]; rfl
  · rfl

/-- A machine-check record changes memory, the ring's tail and the count of lost records only. -/
theorem State.machineCheck_frame (s : State) (r : McRecord) :
    s.machineCheck r = { s with
      mem := (s.machineCheck r).mem, poison := (s.machineCheck r).poison, stored := (s.machineCheck r).stored, fabricOut := (s.machineCheck r).fabricOut,
      hub := { s.hub with kmcTail := (s.machineCheck r).hub.kmcTail, kmcLost := (s.machineCheck r).hub.kmcLost } } := by
  unfold State.machineCheck
  dsimp only
  split
  · rename_i h; rw [State.ringPut_frame h]; rfl
  · rfl

theorem State.recordLost_frame (s : State) (m : Msg) (ga : Word) (r : Bool) :
    s.recordLost m ga r = { s with
      mem := (s.recordLost m ga r).mem, poison := (s.recordLost m ga r).poison, stored := (s.recordLost m ga r).stored, fabricOut := (s.recordLost m ga r).fabricOut,
      hub := { s.hub with kmcTail := (s.recordLost m ga r).hub.kmcTail, kmcLost := (s.recordLost m ga r).hub.kmcLost } } := by
  unfold State.recordLost
  split
  · exact State.machineCheck_frame _ _
  · rfl

theorem State.recordPoison_frame (s : State) (m : Msg) (k : Nat) (ga : Word) :
    s.recordPoison m k ga = { s with
      mem := (s.recordPoison m k ga).mem, poison := (s.recordPoison m k ga).poison, stored := (s.recordPoison m k ga).stored, fabricOut := (s.recordPoison m k ga).fabricOut,
      hub := { s.hub with keqTail := (s.recordPoison m k ga).hub.keqTail, vfs := (s.recordPoison m k ga).hub.vfs } } := by
  unfold State.recordPoison
  split
  · rfl
  · split
    · rw [State.kernelRecord_frame]
    · rw [State.errorRecord_frame]

/-! ### Debug and trace -/

/-- A trace record changes the cluster's buffer only. -/
theorem State.traceRecord_frame (s : State) (cl kind core slot tag : Nat) (data : List Word) :
    s.traceRecord cl kind core slot tag data = { s with clusters := (s.traceRecord cl kind core slot tag data).clusters } := by
  unfold State.traceRecord
  dsimp only
  split
  · rfl
  · split <;> rfl

/-- Lines that pulse are events to come. -/
theorem State.pulse_frame (mask : Nat) : ∀ (n i : Nat) (s : State), s.pulse mask i n = { s with agenda := (s.pulse mask i n).agenda } := by
  intro n; induction n with
  | zero => intro i s; rfl
  | succ n ih => intro i s; rw [State.pulse, ih]; split <;> rfl

/-- A halt changes the cluster's debug module, and pulses lines. -/
theorem State.haltCluster_frame (s : State) (cl cause core slot : Nat) :
    s.haltCluster cl cause core slot =
      { s with clusters := (s.haltCluster cl cause core slot).clusters, agenda := (s.haltCluster cl cause core slot).agenda } := by
  unfold State.haltCluster
  dsimp only
  split
  · rfl
  · rw [State.pulse_frame, State.traceRecord_frame]; rfl

/-- Records for a segment change the trace hardware, and set its seal's time or bring it about. -/
theorem State.toSegment_frame (s : State) (rs : List (List Word)) :
    s.toSegment rs = { s with
      hub := { s.hub with trace := (s.toSegment rs).hub.trace }, timers := (s.toSegment rs).timers, agenda := (s.toSegment rs).agenda } := by
  unfold State.toSegment
  dsimp only
  split
  · rfl
  · split <;> split <;> rfl

/-- A captured input changes the trace hardware, and sets a seal's time or brings it about. -/
theorem State.captureInput_frame : ∀ (n : Nat) (s : State) (cl core slot tag : Nat) (ws : List Word),
    s.captureInput cl core slot tag ws n = { s with
      hub := { s.hub with trace := (s.captureInput cl core slot tag ws n).hub.trace },
      timers := (s.captureInput cl core slot tag ws n).timers, agenda := (s.captureInput cl core slot tag ws n).agenda } := by
  intro n; induction n with
  | zero => intros; rfl
  | succ n ih =>
    intro s cl core slot tag ws
    rw [State.captureInput]
    dsimp only
    split
    · rfl
    · rw [ih, State.toSegment_frame]

/-- A boundary of a clause changes its slot's account and its cluster's loss table only. -/
theorem State.boundary_frame (s : State) (k : Nat) :
    s.boundary k = { s with slots := (s.boundary k).slots, clusters := (s.boundary k).clusters } := by
  unfold State.boundary
  dsimp only
  split
  · rfl
  · split <;> rfl

/-- A boundary leaves the slot as it was, its account apart. -/
theorem State.boundary_slot (s : State) (k j : Nat) :
    (s.boundary k).slot j = if j = k then { s.slot k with clause := { (s.slot k).clause with account := none } } else s.slot j := by
  unfold State.boundary
  dsimp only
  split
  · rename_i h
    split
    · rename_i hj; subst hj; rw [← h]
    · rfl
  · by_cases hj : j = k
    · subst hj; split <;> simp
    · rw [if_neg hj]; split <;> simp [State.slot_modSlot_other _ _ _ _ hj]

/-! ### Messages -/

/-- A device's message changes the count of its source and the network only. -/
theorem State.sendDevice_frame (s : State) (m : Msg) :
    s.sendDevice m = { s with net := (s.sendDevice m).net, srcSeq := (s.sendDevice m).srcSeq } := rfl

theorem State.coreNotice_frame (s : State) (core c launch code cause status : Nat) (w1 w2 w3 : Word) :
    s.coreNotice core c launch code cause status w1 w2 w3 = { s with
      net := (s.coreNotice core c launch code cause status w1 w2 w3).net,
      srcSeq := (s.coreNotice core c launch code cause status w1 w2 w3).srcSeq } := rfl

/-- A message that leaves by the fabric port changes the networks, and of the hub the port and the windows. -/
theorem State.portSend_frame (s : State) (m : Msg) :
    s.portSend m = { s with
      net := (s.portSend m).net, fabricOut := (s.portSend m).fabricOut,
      hub := { s.hub with
        windows := (s.portSend m).hub.windows, portOpen := (s.portSend m).hub.portOpen, portHeld := (s.portSend m).hub.portHeld } } := by
  unfold State.portSend
  split
  · rfl
  · dsimp only
    split
    · rfl
    · split
      · rfl
      · split <;> rfl

/-- A message on its way changes the networks, the fabric port, and the count of a source that sends a notice. -/
theorem State.route_frame (s : State) (m : Msg) :
    s.route m = { s with
      net := (s.route m).net, fabricOut := (s.route m).fabricOut, srcSeq := (s.route m).srcSeq,
      hub := { s.hub with
        windows := (s.route m).hub.windows, portOpen := (s.route m).hub.portOpen, portHeld := (s.route m).hub.portHeld } } := by
  unfold State.route
  split
  · rfl
  · split
    · split
      · rfl
      · split
        · split
          · rfl
          · dsimp only; split <;> rfl
        · rfl
    · rw [State.portSend_frame s m]

/-- A message for this chip joins its network. -/
theorem State.route_local (s : State) (m : Msg) (h : m.dstChip = s.hub.chipId) : s.route m = { s with net := s.net ++ [m] } := by
  rw [State.route, if_pos h]

theorem State.sendReply_local (s : State) (m : Msg) (kind : Nat) (p : List Word) (h : m.srcChip = s.hub.chipId) :
    s.sendReply m kind p = { s with net := s.net ++ [{ replyTo m kind p with stamp := s.stamp }] } :=
  State.route_local s _ h

theorem State.homeResumes_local (s : State) (m : Msg) (w : Nat) (st : BitVec 4) (a b : Word) (h : m.srcChip = s.hub.chipId) :
    s.homeResumes m w st a b = { s with net := s.net ++ [{ replyTo m 0x02 [a, b] with
      stamp := s.stamp, unit := homeResume, rstat := st, srcChip := s.hub.chipId, window := w }] } :=
  State.route_local s _ h

/-! ### Homes -/

/-- A request that no move holds is performed. -/
theorem State.atHome_of_free (s : State) (m : Msg) (f : State → State) (h : s.holder m = none) : s.atHome m f = f s := by
  rw [State.atHome, h]

/-- A performed request changes its home's heat, and may set the time of its write-back. -/
theorem State.heated_frame (s : State) (u a : Nat) :
    s.heated u a = { s with stackTab := (s.heated u a).stackTab, timers := (s.heated u a).timers, agenda := (s.heated u a).agenda } := by
  unfold State.heated
  dsimp only
  split
  · rfl
  · split <;> rfl

/-- Watches that fire send messages only. -/
theorem State.fireAll_frame (ws : List Msg) : ∀ s : State,
    s.fireAll ws = { s with
      net := (s.fireAll ws).net, fabricOut := (s.fireAll ws).fabricOut, srcSeq := (s.fireAll ws).srcSeq,
      hub := { s.hub with
        windows := (s.fireAll ws).hub.windows, portOpen := (s.fireAll ws).hub.portOpen, portHeld := (s.fireAll ws).hub.portHeld } } := by
  unfold State.fireAll
  induction ws with
  | nil => intro s; rfl
  | cons m t ih =>
    intro s
    rw [List.foldl_cons, ih, State.homeResumes, State.route_frame]

/-- A comparison of watches changes the home's watches, and sends messages. -/
theorem State.checkWatches_frame (s : State) (u line : Nat) :
    s.checkWatches u line = { s with
      stackTab := (s.checkWatches u line).stackTab, net := (s.checkWatches u line).net,
      fabricOut := (s.checkWatches u line).fabricOut, srcSeq := (s.checkWatches u line).srcSeq,
      hub := { s.hub with
        windows := (s.checkWatches u line).hub.windows, portOpen := (s.checkWatches u line).hub.portOpen, portHeld := (s.checkWatches u line).hub.portHeld } } := by
  unfold State.checkWatches
  dsimp only
  rw [State.fireAll_frame]
  rfl

/-- The translation cache of a core is all that a translation changes. -/
theorem State.fillTlb_frame (s : State) (core asid va : Nat) : s.fillTlb core asid va = { s with cores := (s.fillTlb core asid va).cores } := by
  unfold State.fillTlb
  dsimp only
  split <;> rfl

theorem State.touched_frame (s : State) (va : Word) : s.touched va = { s with cores := (s.touched va).cores } := State.fillTlb_frame ..

/-! ### Far requests -/

/-- A far request changes the requests of its slot, a count of its core, and the networks. -/
theorem State.sendFar_frame (s : State) (k kind unit : Nat) (chip : BitVec 20) (va ga : Word) (use : FarUse) (units : Nat)
    (p : List Word) (name : Option (BitVec 128)) :
    s.sendFar k kind unit chip va ga use units p name = { s with
      slots := (s.sendFar k kind unit chip va ga use units p name).slots,
      cores := (s.sendFar k kind unit chip va ga use units p name).cores,
      net := (s.sendFar k kind unit chip va ga use units p name).net,
      fabricOut := (s.sendFar k kind unit chip va ga use units p name).fabricOut,
      srcSeq := (s.sendFar k kind unit chip va ga use units p name).srcSeq,
      hub := { s.hub with
        windows := (s.sendFar k kind unit chip va ga use units p name).hub.windows,
        portOpen := (s.sendFar k kind unit chip va ga use units p name).hub.portOpen,
        portHeld := (s.sendFar k kind unit chip va ga use units p name).hub.portHeld } } := by
  unfold State.sendFar State.countReq
  dsimp only
  rw [State.route_frame]
  split <;> rfl

/-- The slots that a far request leaves: its own with the request among those out, every other as it was. -/
theorem State.sendFar_slots (s : State) (k kind unit : Nat) (chip : BitVec 20) (va ga : Word) (use : FarUse) (units : Nat)
    (p : List Word) (name : Option (BitVec 128)) :
    (s.sendFar k kind unit chip va ga use units p name).slots = s.slots.set k { s.slot k with
      far := (s.slot k).far ++ [⟨(s.slot k).gen, (s.slot k).kseq.setWidth 32, kind, va, ga, unit, chip, use, name, (s.slot k).clause.ctx,
        (s.clauseMsg k).launch, (s.clauseMsg k).window⟩],
      kseq := (s.slot k).kseq + 1, owed := (s.slot k).owed.set (s.slot k).gen ((s.slot k).owed.get (s.slot k).gen 0 + 1) } := by
  unfold State.sendFar State.countReq
  dsimp only
  rw [State.route_frame]
  split <;> rfl

/-! ### Traps -/

/-- A report changes memory or the network, and where the trap ring is full its slot. -/
theorem State.reportToRing_slot (s : State) (k j : Nat) (p : List Word) :
    (s.reportToRing k p).slot j = if j = k ∧ ringFull s.hub.ktrapHead s.hub.ktrapTail 4096 = true then
      { s.slot k with ringReport := some (p.take 7 ++ [word ((s.slot k).clause.ctx + (s.ctx (coreOf k) (s.slot k).clause.ctx).vf * 2 ^ 8)]) }
      else s.slot j := by
  unfold State.reportToRing
  dsimp only
  by_cases hr : ringFull s.hub.ktrapHead s.hub.ktrapTail 4096 = true
  · rw [if_pos hr]
    by_cases hj : j = k
    · subst hj; simp [hr]
    · simp [hj, State.slot_modSlot_other _ _ _ _ hj]
  · rw [if_neg hr, if_neg (fun h => hr h.2)]
    simp [State.trapRingWrite, State.slot]

end Sys2Proof.Machine
end

