-- ==== Sys2Proof/Laws/Lanes.lean ====
section
/-!
SUPPORT. Lanes: what a register or a group made from a row of lanes reads, lane by lane (07_vector.md R135, 08_numbers.md R162).
-/
namespace Sys2Proof.Machine

/-! ### Rows -/

@[simp] theorem lanesFrom_length (e v : Nat) : ∀ n i, (lanesFrom e v i n).length = n := by
  intro n; induction n with
  | zero => intro i; rfl
  | succ n ih => intro i; simp [lanesFrom, ih]

theorem lanesFrom_getD (e v : Nat) : ∀ n i j, j < n → (lanesFrom e v i n).getD j 0 = bitsOf v (e * (i + j)) e := by
  intro n; induction n with
  | zero => intro i j h; omega
  | succ n ih =>
    intro i j h
    cases j with
    | zero => simp [lanesFrom]
    | succ j => simpa [lanesFrom, show i + (j + 1) = i + 1 + j by omega] using ih (i + 1) j (by omega)

/-- A row of lanes is the lanes of each number below its length. -/
theorem lanesFrom_eq_map (e v : Nat) : ∀ n i, lanesFrom e v i n = (List.range n).map fun j => bitsOf v (e * (i + j)) e := by
  intro n; induction n with
  | zero => intro i; rfl
  | succ n ih =>
    intro i
    rw [lanesFrom, ih, List.range_succ_eq_map, List.map_cons, List.map_map]
    simp only [Nat.add_zero, List.cons.injEq, true_and]
    apply List.map_congr_left; intro j _; simp [Nat.add_assoc, Nat.add_comm 1]

/-- The lanes of a register, as its claims name them. -/
theorem lanes_eq_map (e : Nat) (v : VWord) : lanes e v = (List.range (512 / e)).map fun j => lane e v j := by
  rw [lanes, lanesFrom_eq_map]; simp [lane]

@[simp] theorem lanes_length (e : Nat) (v : VWord) : (lanes e v).length = 512 / e := lanesFrom_length ..

theorem zipLanes_map {α : Type} (f : Nat → Nat → α) (n : Nat) (a b : Nat → Nat) :
    zipLanes f ((List.range n).map a) ((List.range n).map b) = (List.range n).map fun j => f (a j) (b j) := by
  suffices h : ∀ l : List Nat, zipLanes f (l.map a) (l.map b) = l.map fun j => f (a j) (b j) from h _
  intro l; induction l with
  | nil => rfl
  | cons x t ih => simp [zipLanes, ih]

theorem zipLanes3_map {α : Type} (f : Nat → Nat → Nat → α) (n : Nat) (a b c : Nat → Nat) :
    zipLanes3 f ((List.range n).map a) ((List.range n).map b) ((List.range n).map c) = (List.range n).map fun j => f (a j) (b j) (c j) := by
  suffices h : ∀ l : List Nat, zipLanes3 f (l.map a) (l.map b) (l.map c) = l.map fun j => f (a j) (b j) (c j) from h _
  intro l; induction l with
  | nil => rfl
  | cons x t ih => simp [zipLanes3, ih]

/-! ### Numbers from rows -/

theorem packLanes_lt (e : Nat) : ∀ l : List Nat, packLanes e l < 2 ^ (e * l.length) := by
  intro l; induction l with
  | nil => simp [packLanes]
  | cons a t ih =>
    have h := Nat.mod_lt a (Nat.two_pow_pos e)
    rw [packLanes, List.length_cons, Nat.mul_add, Nat.mul_one, Nat.pow_add, Nat.mul_comm (2 ^ (e * t.length))]
    have : 2 ^ e * packLanes e t + 2 ^ e ≤ 2 ^ e * 2 ^ (e * t.length) := by
      rw [← Nat.mul_succ]; exact Nat.mul_le_mul_left _ ih
    omega

/-- A lane of a packed row. -/
theorem bitsOf_packLanes (e : Nat) : ∀ (l : List Nat) (j : Nat), bitsOf (packLanes e l) (e * j) e = l.getD j 0 % 2 ^ e := by
  intro l; induction l with
  | nil => intro j; simp [packLanes, bitsOf]
  | cons a t ih =>
    intro j
    have h := Nat.mod_lt a (Nat.two_pow_pos e)
    cases j with
    | zero => simp [packLanes, bitsOf, Nat.add_mul_mod_self_left]
    | succ j =>
      have : packLanes e (a :: t) / 2 ^ e = packLanes e t := by
        rw [packLanes, Nat.add_mul_div_left _ _ (Nat.two_pow_pos e), Nat.div_eq_of_lt h, Nat.zero_add]
      rw [bitsOf, show e * (j + 1) = e + e * j by rw [Nat.mul_add, Nat.mul_one, Nat.add_comm], Nat.pow_add, ← Nat.div_div_eq_div_mul, this]
      simpa [bitsOf] using ih j

/-- Bits below 512 of a number are bits of its register. -/
theorem bitsOf_ofNat (v lo n m : Nat) (h : lo + n ≤ m) : bitsOf (BitVec.ofNat m v).toNat lo n = bitsOf v lo n := by
  apply Nat.eq_of_testBit_eq; intro i
  rw [testBit_bitsOf, testBit_bitsOf, BitVec.toNat_ofNat, Nat.testBit_mod_two_pow]
  by_cases hi : i < n
  · simp [hi, show lo + i < m by omega]
  · simp [hi]

/-- A lane of a register that a row makes. -/
theorem lane_ofLanes (e : Nat) (l : List Nat) (j : Nat) (h : e * (j + 1) ≤ 512) : lane e (ofLanes e l) j = l.getD j 0 % 2 ^ e := by
  rw [lane, ofLanes, bitsOf_ofNat _ _ _ _ (by rwa [Nat.mul_add, Nat.mul_one] at h), bitsOf_packLanes]

/-- A lane that the register has fits in it. -/
theorem lane_fits (e j : Nat) (h : j < 512 / e) : e * (j + 1) ≤ 512 := by
  calc e * (j + 1) ≤ e * (512 / e) := Nat.mul_le_mul_left _ h
    _ ≤ 512 := Nat.mul_div_le _ _

theorem lane_ofLanes_map (e n : Nat) (f : Nat → Nat) (j : Nat) (h : e * (j + 1) ≤ 512) (hn : j < n) :
    lane e (ofLanes e ((List.range n).map f)) j = f j % 2 ^ e := by
  rw [lane_ofLanes _ _ _ h]; simp [List.getD_eq_getElem?_getD, hn]

theorem lane_lt (e : Nat) (v : VWord) (j : Nat) : lane e v j < 2 ^ e := bitsOf_lt _ _ _

/-! ### Groups -/

@[simp] theorem groupOf_length : ∀ n v, (groupOf n v).length = n := by
  intro n; induction n with
  | zero => intro v; rfl
  | succ n ih => intro v; simp [groupOf, ih]

theorem groupNum_groupOf : ∀ n v, groupNum (groupOf n v) = v % 2 ^ (512 * n) := by
  intro n; induction n with
  | zero => intro v; simp [groupOf, groupNum, Nat.mod_one]
  | succ n ih =>
    intro v
    rw [groupOf, groupNum, ih, BitVec.toNat_ofNat, Nat.mul_succ, Nat.pow_add, Nat.mul_comm (2 ^ (512 * n)), Nat.mod_mul]

/-- A lane of a group that a row makes. -/
theorem bitsOf_group (n e : Nat) (l : List Nat) (j : Nat) (h : e * j + e ≤ 512 * n) :
    bitsOf (groupNum (groupOf n (packLanes e l))) (e * j) e = l.getD j 0 % 2 ^ e := by
  have := bitsOf_ofNat (packLanes e l) (e * j) e (512 * n) h
  rw [BitVec.toNat_ofNat] at this
  rw [groupNum_groupOf, this, bitsOf_packLanes]

@[simp] theorem Slot.vs_length (sl : Slot) : ∀ n r, (sl.vs r n).length = n := by
  intro n; induction n with
  | zero => intro r; rfl
  | succ n ih => intro r; simp [Slot.vs, ih]

/-- The registers of a group, by number. -/
theorem Slot.vs_eq_map (sl : Slot) : ∀ n r, sl.vs r n = (List.range n).map fun j => sl.vr (r + j) := by
  intro n; induction n with
  | zero => intro r; rfl
  | succ n ih =>
    intro r
    rw [Slot.vs, ih, List.range_succ_eq_map, List.map_cons, List.map_map]
    simp only [Nat.add_zero, List.cons.injEq, true_and]
    apply List.map_congr_left; intro j _; simp [Nat.add_assoc, Nat.add_comm 1]

/-! ### Flags -/

theorem joinFlags_append (l r : List (Nat × Flags)) : joinFlags (l ++ r) = joinFlags l ||| joinFlags r := by
  induction l with
  | nil => simp [joinFlags]
  | cons a t ih => simp [joinFlags, ih, BitVec.or_assoc]

/-- The flags of a row are those of its lanes. -/
theorem joinFlags_map (n : Nat) (f : Nat → Nat × Flags) : joinFlags ((List.range n).map f) = flagsUpTo (fun j => (f j).2) n := by
  induction n with
  | zero => rfl
  | succ n ih => simp [List.range_succ, joinFlags_append, ih, flagsUpTo, joinFlags]

end Sys2Proof.Machine
end

