-- ==== Sys2Proof/Laws/Memory.lean ====
section
/-!
SUPPORT. Memory: a write is read back, leaves every other byte alone and keeps the canonical form; numbers as bytes (00_scope.md R3).
-/
namespace Sys2Proof.Machine

/-! ### One byte -/

/-- A write leaves every other byte as it was. -/
theorem memRead_memWrite_other (m : List Host.Cell) (a b : Nat) (v : Byte) (h : b ≠ a) : memRead (memWrite m a v) b = memRead m b := by
  induction m with
  | nil => unfold memWrite; split <;> simp [memRead, h]
  | cons c t ih =>
    obtain ⟨c, w⟩ := c
    unfold memWrite
    split
    · rename_i hc; subst hc; split <;> simp [memRead, h]
    · split
      · split <;> simp [memRead, h]
      · simp only [memRead, ih]

theorem memRead_of_rising (m : List Host.Cell) : ∀ (lo a : Nat), memRising lo m = true → a < lo → memRead m a = 0 := by
  induction m with
  | nil => intros; rfl
  | cons c t ih =>
    intro lo a h ha
    simp only [memRising, Bool.and_eq_true, decide_eq_true_eq] at h
    obtain ⟨⟨h1, -⟩, h3⟩ := h
    rw [memRead, if_neg (by omega)]
    exact ih _ _ h3 (by omega)

/-- A write is read back. -/
theorem memRead_memWrite_same (m : List Host.Cell) : ∀ (lo a : Nat) (v : Byte), memRising lo m = true → memRead (memWrite m a v) a = v := by
  induction m with
  | nil => intro lo a v _; unfold memWrite; split <;> simp [memRead, *]
  | cons c t ih =>
    intro lo a v h
    obtain ⟨c, w⟩ := c
    simp only [memRising, Bool.and_eq_true, decide_eq_true_eq] at h
    obtain ⟨⟨h1, h2⟩, h3⟩ := h
    unfold memWrite
    split
    · rename_i hc
      split
      · rename_i hv; rw [hv]; exact memRead_of_rising t _ _ h3 (by omega)
      · simp [memRead]
    · rename_i hc
      split
      · split
        · rename_i hv; rw [hv, memRead, if_neg hc]; exact memRead_of_rising t _ _ h3 (by omega)
        · simp [memRead]
      · rw [memRead, if_neg hc]; exact ih _ _ _ h3

theorem memRising_mono (m : List Host.Cell) (lo hi : Nat) (h : memRising hi m = true) (hl : lo ≤ hi) : memRising lo m = true := by
  cases m with
  | nil => rfl
  | cons c t =>
    simp only [memRising, Bool.and_eq_true, decide_eq_true_eq] at h ⊢
    exact ⟨⟨by omega, h.1.2⟩, h.2⟩

theorem memRising_memWrite (m : List Host.Cell) : ∀ (lo a : Nat) (v : Byte),
    memRising lo m = true → lo ≤ a → memRising lo (memWrite m a v) = true := by
  induction m with
  | nil =>
    intro lo a v _ ha; unfold memWrite; split
    · rfl
    · rename_i hv; simpa [memRising, ha] using hv
  | cons c t ih =>
    intro lo a v h ha
    obtain ⟨c, w⟩ := c
    have h' := h
    simp only [memRising, Bool.and_eq_true, decide_eq_true_eq] at h
    obtain ⟨⟨h1, h2⟩, h3⟩ := h
    unfold memWrite
    split
    · rename_i hc; subst hc
      split
      · exact memRising_mono _ _ _ h3 (by omega)
      · rename_i hv; simpa [memRising, h1, h3] using hv
    · split
      · split
        · exact h'
        · rename_i hv
          simp only [memRising, Bool.and_eq_true, decide_eq_true_eq, bne_iff_ne, ne_eq, hv, not_false_eq_true, and_true]
          refine ⟨ha, ⟨by omega, ?_⟩, h3⟩
          simpa using h2
      · simp only [memRising, Bool.and_eq_true, decide_eq_true_eq]
        exact ⟨⟨h1, h2⟩, ih _ _ _ h3 (by omega)⟩

/-- A write keeps the canonical form. -/
theorem Memory.wf_memWrite (m : List Host.Cell) (a : Nat) (v : Byte) (h : Memory.wf m = true) : Memory.wf (memWrite m a v) = true :=
  memRising_memWrite m 0 a v h (by omega)

theorem Memory.read_write (m : List Host.Cell) (a : Nat) (v : Byte) (h : Memory.wf m = true) : memRead (memWrite m a v) a = v :=
  memRead_memWrite_same m 0 a v h

/-- The memory that reset leaves is in canonical form. -/
theorem Memory.wf_reset : Memory.wf State.reset.mem = true := rfl

theorem memRising_filter (m : List Host.Cell) (p : Host.Cell → Bool) : ∀ lo, memRising lo m = true → memRising lo (m.filter p) = true := by
  induction m with
  | nil => intros; rfl
  | cons c t ih =>
    intro lo h
    simp only [memRising, Bool.and_eq_true, decide_eq_true_eq] at h
    by_cases hp : p c = true
    · simp only [List.filter_cons, hp, if_true, memRising, Bool.and_eq_true, decide_eq_true_eq]
      exact ⟨h.1, ih _ h.2⟩
    · simp only [List.filter_cons, hp, Bool.false_eq_true, if_false]
      exact memRising_mono _ _ _ (ih _ h.2) (by omega)

/-- Dropping bytes keeps the canonical form: what package reset does with HBM (12_main_memory.md R232). -/
theorem Memory.wf_filter (m : List Host.Cell) (p : Host.Cell → Bool) (h : Memory.wf m = true) : Memory.wf (m.filter p) = true :=
  memRising_filter m p 0 h

/-! ### Bytes given by their address -/

theorem memRising_append (k : List Host.Cell) : ∀ (m : List Host.Cell) (lo mid : Nat), memRising lo m = true → (∀ c ∈ m, c.1 < mid) →
    lo ≤ mid → memRising mid k = true → memRising lo (m ++ k) = true := by
  intro m
  induction m with
  | nil => intro lo mid _ _ hl hk; exact memRising_mono _ _ _ hk hl
  | cons c t ih =>
    intro lo mid h hm hl hk
    simp only [memRising, Bool.and_eq_true, decide_eq_true_eq] at h
    have hc := hm c (List.mem_cons_self ..)
    simp only [List.cons_append, memRising, Bool.and_eq_true, decide_eq_true_eq]
    exact ⟨h.1, ih _ mid h.2 (fun d hd => hm d (List.mem_cons_of_mem _ hd)) (by omega) hk⟩

theorem cellsOf_lt (f : Nat → Byte) : ∀ (n a : Nat), ∀ c ∈ cellsOf f a n, c.1 < a + n := by
  intro n; induction n with
  | zero => intro a c h; cases h
  | succ n ih =>
    intro a c h
    unfold cellsOf at h
    split at h
    · have := ih _ _ h; omega
    · rcases List.mem_cons.mp h with rfl | h
      · simp
      · have := ih _ _ h; omega

theorem memRising_cellsOf (f : Nat → Byte) : ∀ (n a : Nat), memRising a (cellsOf f a n) = true := by
  intro n; induction n with
  | zero => intro a; rfl
  | succ n ih =>
    intro a
    unfold cellsOf
    split
    · exact memRising_mono _ _ _ (ih _) (by omega)
    · rename_i h; simpa [memRising, ih] using h

theorem memRising_drop (m : List Host.Cell) (hi : Nat) : ∀ lo, memRising lo m = true → memRising hi (m.filter fun c => decide (hi ≤ c.1)) = true := by
  induction m with
  | nil => intros; rfl
  | cons c t ih =>
    intro lo h
    simp only [memRising, Bool.and_eq_true, decide_eq_true_eq] at h
    by_cases hp : hi ≤ c.1
    · rw [List.filter_cons_of_pos (by simpa using hp)]
      simp only [memRising, Bool.and_eq_true, decide_eq_true_eq]
      exact ⟨⟨hp, h.1.2⟩, memRising_filter _ _ _ h.2⟩
    · rw [List.filter_cons_of_neg (by simpa using hp)]; exact ih _ h.2

/-- Replacing a range keeps the canonical form. -/
theorem Memory.wf_memReplace (m : List Host.Cell) (f : Nat → Byte) (a n : Nat) (h : Memory.wf m = true) :
    Memory.wf (memReplace m f a n) = true := by
  unfold Memory.wf memReplace
  rw [List.append_assoc]
  refine memRising_append _ _ 0 a (memRising_filter _ _ _ h) (fun c hc => by simpa using (List.mem_filter.mp hc).2) (by omega) ?_
  exact memRising_append _ _ a (a + n) (memRising_cellsOf _ _ _) (cellsOf_lt _ _ _) (by omega) (memRising_drop _ _ 0 h)

theorem memRead_append (m k : List Host.Cell) (b : Nat) : (∀ c ∈ m, c.1 ≠ b) → memRead (m ++ k) b = memRead k b := by
  induction m with
  | nil => intro _; rfl
  | cons c t ih =>
    intro h
    rw [List.cons_append, memRead, if_neg (fun e => h c (List.mem_cons_self ..) e.symm)]
    exact ih fun d hd => h d (List.mem_cons_of_mem _ hd)

theorem memRead_append_left (m k : List Host.Cell) (b : Nat) : (∀ c ∈ k, c.1 ≠ b) → memRead (m ++ k) b = memRead m b := by
  induction m with
  | nil =>
    intro h
    have := memRead_append k [] b h
    simpa [memRead] using this
  | cons c t ih => intro h; simp only [List.cons_append, memRead, ih h]

theorem memRead_filter (m : List Host.Cell) (p : Host.Cell → Bool) (b : Nat) (h : ∀ c ∈ m, c.1 = b → p c = true) :
    memRead (m.filter p) b = memRead m b := by
  induction m with
  | nil => rfl
  | cons c t ih =>
    have ih := ih fun d hd => h d (List.mem_cons_of_mem _ hd)
    by_cases hp : p c = true
    · rw [List.filter_cons_of_pos hp, memRead, memRead, ih]
    · rw [List.filter_cons_of_neg hp, memRead, if_neg (fun e => hp (h c (List.mem_cons_self ..) e.symm)), ih]

theorem cellsOf_ge (f : Nat → Byte) : ∀ (n a : Nat), ∀ c ∈ cellsOf f a n, a ≤ c.1 := by
  intro n; induction n with
  | zero => intro a c h; cases h
  | succ n ih =>
    intro a c h
    unfold cellsOf at h
    split at h
    · have := ih _ _ h; omega
    · rcases List.mem_cons.mp h with rfl | h
      · simp
      · have := ih _ _ h; omega

theorem memRead_cellsOf (f : Nat → Byte) : ∀ (n a b : Nat), a ≤ b → b < a + n → memRead (cellsOf f a n) b = f b := by
  intro n; induction n with
  | zero => intro a b h1 h2; omega
  | succ n ih =>
    intro a b h1 h2
    by_cases hb : b = a
    · subst hb
      unfold cellsOf
      split
      · rename_i h
        rw [h]
        exact memRead_of_rising _ _ _ (memRising_cellsOf f n (b + 1)) (by omega)
      · simp [memRead]
    · unfold cellsOf
      split
      · exact ih _ _ (by omega) (by omega)
      · rw [memRead, if_neg hb]; exact ih _ _ (by omega) (by omega)

/-- A byte outside a replaced range is as it was. -/
theorem memRead_memReplace_other (m : List Host.Cell) (f : Nat → Byte) (a n b : Nat) (h : b < a ∨ a + n ≤ b) :
    memRead (memReplace m f a n) b = memRead m b := by
  unfold memReplace
  rcases h with h | h
  · rw [List.append_assoc, memRead_append_left, memRead_filter]
    · intro c _ hc; simpa [hc] using h
    · intro c hc
      rcases List.mem_append.mp hc with hc | hc
      · have := cellsOf_ge _ _ _ _ hc; omega
      · have : a + n ≤ c.1 := by simpa using (List.mem_filter.mp hc).2
        omega
  · rw [memRead_append, memRead_filter]
    · intro c _ hc; simpa [hc] using h
    · intro c hc
      rcases List.mem_append.mp hc with hc | hc
      · have : c.1 < a := by simpa using (List.mem_filter.mp hc).2
        omega
      · have := cellsOf_lt _ _ _ _ hc; omega

/-- A byte of a replaced range is what the function gives. -/
theorem memRead_memReplace_same (m : List Host.Cell) (f : Nat → Byte) (a n b : Nat) (h1 : a ≤ b) (h2 : b < a + n) :
    memRead (memReplace m f a n) b = f b := by
  unfold memReplace
  rw [List.append_assoc, memRead_append, memRead_append_left, memRead_cellsOf _ _ _ _ h1 h2]
  · intro c hc
    have : a + n ≤ c.1 := by simpa using (List.mem_filter.mp hc).2
    omega
  · intro c hc
    have : c.1 < a := by simpa using (List.mem_filter.mp hc).2
    omega

/-! ### Many bytes -/

theorem Memory.wf_memWriteBytes (bs : List Byte) : ∀ (m : List Host.Cell) (a : Nat),
    Memory.wf m = true → Memory.wf (memWriteBytes m a bs) = true := by
  induction bs with
  | nil => intro m a h; exact h
  | cons b t ih => intro m a h; exact ih _ _ (Memory.wf_memWrite _ _ _ h)

theorem Memory.wf_memWriteMasked (bs : List Byte) : ∀ (m : List Host.Cell) (a mask : Nat),
    Memory.wf m = true → Memory.wf (memWriteMasked m a mask bs) = true := by
  induction bs with
  | nil => intro m a mask h; exact h
  | cons b t ih =>
    intro m a mask h
    refine ih _ _ _ ?_
    split
    · exact Memory.wf_memWrite _ _ _ h
    · exact h

/-- A write of many bytes leaves every other byte as it was. -/
theorem memRead_memWriteBytes_other (bs : List Byte) : ∀ (m : List Host.Cell) (a b : Nat), (b < a ∨ a + bs.length ≤ b) →
    memRead (memWriteBytes m a bs) b = memRead m b := by
  induction bs with
  | nil => intros; rfl
  | cons x t ih =>
    intro m a b h
    simp only [List.length_cons] at h
    rw [memWriteBytes, ih _ _ _ (by omega), memRead_memWrite_other _ _ _ _ (by omega)]

/-- A write of many bytes is read back. -/
theorem memRead_memWriteBytes_same (bs : List Byte) : ∀ (m : List Host.Cell) (a i : Nat), Memory.wf m = true → i < bs.length →
    memRead (memWriteBytes m a bs) (a + i) = bs.getD i 0 := by
  induction bs with
  | nil => intro m a i _ h; exact absurd h (by simp)
  | cons x t ih =>
    intro m a i hm h
    cases i with
    | zero => rw [memWriteBytes, memRead_memWriteBytes_other _ _ _ _ (by omega)]; exact Memory.read_write _ _ _ hm
    | succ i =>
      rw [memWriteBytes, show a + (i + 1) = a + 1 + i by omega, ih _ _ _ (Memory.wf_memWrite _ _ _ hm) (by simpa using h)]
      simp

/-- The bytes of a write whose mask bit is clear, and every byte outside it, are as they were. -/
theorem memRead_memWriteMasked_other (bs : List Byte) : ∀ (m : List Host.Cell) (a mask b : Nat),
    (b < a ∨ a + bs.length ≤ b ∨ bitOf mask (b - a) = false) → memRead (memWriteMasked m a mask bs) b = memRead m b := by
  induction bs with
  | nil => intros; rfl
  | cons x t ih =>
    intro m a mask b h
    simp only [List.length_cons] at h
    rw [memWriteMasked]
    by_cases hb : b = a
    · subst hb
      have h0 : mask % 2 = 0 := by
        rcases h with h | h | h
        · omega
        · omega
        · simpa [bitOf] using h
      rw [ih _ _ _ _ (Or.inl (by omega)), if_neg (by omega)]
    · have step : (b < a + 1 ∨ a + 1 + t.length ≤ b ∨ bitOf (mask / 2) (b - (a + 1)) = false) := by
        by_cases hlt : b < a
        · exact Or.inl (by omega)
        · rcases h with h | h | h
          · exact absurd h hlt
          · exact Or.inr (Or.inl (by omega))
          · refine Or.inr (Or.inr ?_)
            rw [← h, bitOf, bitOf, Nat.div_div_eq_div_mul, show 2 * 2 ^ (b - (a + 1)) = 2 ^ (b - a) by
              rw [← Nat.pow_succ', show (b - (a + 1)).succ = b - a by omega]]
      rw [ih _ _ _ _ step]
      split
      · exact memRead_memWrite_other _ _ _ _ hb
      · rfl

@[simp] theorem memBytes_length (m : List Host.Cell) : ∀ n a : Nat, (memBytes m a n).length = n := by
  intro n; induction n with
  | zero => intro a; rfl
  | succ n ih => intro a; simp [memBytes, ih]

theorem memBytes_getD (m : List Host.Cell) : ∀ n a i : Nat, i < n → (memBytes m a n).getD i 0 = memRead m (a + i) := by
  intro n; induction n with
  | zero => intro a i h; omega
  | succ n ih =>
    intro a i h
    cases i with
    | zero => simp [memBytes]
    | succ i => simpa [memBytes, show a + (i + 1) = a + 1 + i by omega] using ih (a + 1) i (by omega)

/-- A read of many bytes depends on those bytes only. -/
theorem memBytes_congr (m k : List Host.Cell) : ∀ n a : Nat, (∀ i < n, memRead m (a + i) = memRead k (a + i)) → memBytes m a n = memBytes k a n := by
  intro n; induction n with
  | zero => intros; rfl
  | succ n ih =>
    intro a h
    rw [memBytes, memBytes, ih (a + 1) (fun i hi => by simpa [Nat.add_assoc, Nat.add_comm 1] using h (i + 1) (by omega))]
    simpa using h 0 (by omega)

/-- What was written at an address is read there. -/
theorem memBytes_memWriteBytes (m : List Host.Cell) (a : Nat) (bs : List Byte) (h : Memory.wf m = true) :
    memBytes (memWriteBytes m a bs) a bs.length = bs := by
  apply List.ext_getElem
  · simp
  · intro i h1 h2
    have e := memBytes_getD (memWriteBytes m a bs) bs.length a i h2
    rw [memRead_memWriteBytes_same _ _ _ _ h h2] at e
    simpa [List.getD_eq_getElem?_getD, List.getElem?_eq_getElem h1, List.getElem?_eq_getElem h2] using e

/-- A write elsewhere does not change what is read. -/
theorem memBytes_memWriteBytes_other (m : List Host.Cell) (a b n : Nat) (bs : List Byte) (h : b + n ≤ a ∨ a + bs.length ≤ b) :
    memBytes (memWriteBytes m a bs) b n = memBytes m b n :=
  memBytes_congr _ _ _ _ fun i hi => memRead_memWriteBytes_other _ _ _ _ (by omega)

/-! ### Numbers as bytes -/

@[simp] theorem toBytes_length : ∀ n v : Nat, (toBytes n v).length = n := by
  intro n; induction n with
  | zero => intro v; rfl
  | succ n ih => intro v; simp [toBytes, ih]

/-- The number that n bytes of a number hold. -/
theorem ofBytes_toBytes : ∀ n v : Nat, ofBytes (toBytes n v) = v % 256 ^ n := by
  intro n; induction n with
  | zero => intro v; simp [toBytes, ofBytes, Nat.mod_one]
  | succ n ih =>
    intro v
    rw [toBytes, ofBytes, ih, BitVec.toNat_ofNat, Nat.pow_succ 256 n, Nat.mul_comm (256 ^ n) 256, Nat.mod_mul]

theorem ofBytes_lt (bs : List Byte) : ofBytes bs < 256 ^ bs.length := by
  induction bs with
  | nil => simp [ofBytes]
  | cons b t ih =>
    have hb := b.isLt
    rw [ofBytes, List.length_cons, Nat.pow_succ]
    omega

theorem toBytes_ofBytes (bs : List Byte) : toBytes bs.length (ofBytes bs) = bs := by
  induction bs with
  | nil => rfl
  | cons b t ih =>
    have hb := b.isLt
    rw [List.length_cons, toBytes, ofBytes]
    congr 1
    · apply BitVec.eq_of_toNat_eq; rw [BitVec.toNat_ofNat]; omega
    · rw [show (b.toNat + 256 * ofBytes t) / 256 = ofBytes t by omega]; exact ih

/-- A number that is stored is loaded. -/
theorem State.load_store (s : State) (a n v : Nat) (h : Memory.wf s.mem = true) : (s.store a n v).load a n = v % 256 ^ n := by
  have := memBytes_memWriteBytes s.mem a (toBytes n v) h
  rw [toBytes_length] at this
  rw [State.load, State.store, State.storeBytes_mem, this, ofBytes_toBytes]

/-- A store elsewhere does not change what is loaded. -/
theorem State.load_store_other (s : State) (a b n k v : Nat) (h : b + k ≤ a ∨ a + n ≤ b) : (s.store a n v).load b k = s.load b k := by
  rw [State.load, State.load, State.store, State.storeBytes_mem, memBytes_memWriteBytes_other]
  simpa using h

end Sys2Proof.Machine
end

