-- ==== Sys2Proof/Tests/Slice0.lean ====
section
/-!
SUPPORT. The model's own tests: a term that each well-formedness check refuses; words written out from the spec's encodings with the
instructions that they decode to; and for each statement of Certificates/Slice0/Obligations.lean concrete states and operands that meet its
hypotheses, with results of single steps that the spec's rules give. A test names the claims that its state is for.
-/
section
-- One theorem at a time: a thread for each would take more memory than the check allows.
set_option Elab.async false

open Sys2Proof Sys2Proof.Machine

/-- Terms with one field that its check refuses (R64, R66, R72), in the order of `Instr.wf`. -/
theorem test_wf_refuses_0 : (
    [.vabsF ⟨true, false, 0, 0, 0, 0⟩, .vabsF ⟨false, false, 0, 5, 0, 0⟩, .vrcp ⟨true, false, 0, 1, 0, 0⟩, .vrcp ⟨false, false, 0, 0, 0, 0⟩,
     .vrcp ⟨false, false, 3, 1, 0, 0⟩, .vrsq ⟨true, false, 0, 2, 0, 0⟩, .vrsq ⟨false, false, 0, 0, 0, 0⟩, .vrsq ⟨false, false, 3, 2, 0, 0⟩,
     .vexp2 ⟨true, false, 0, 3, 0, 0⟩, .vexp2 ⟨false, false, 0, 0, 0, 0⟩, .vexp2 ⟨false, false, 3, 3, 0, 0⟩,
     .vlog2 ⟨true, false, 0, 4, 0, 0⟩, .vlog2 ⟨false, false, 0, 0, 0, 0⟩, .vlog2 ⟨false, false, 3, 4, 0, 0⟩,
     .vabsI ⟨true, false, 0, 0, 0, 0⟩, .vabsI ⟨false, false, 0, 5, 0, 0⟩, .vredF ⟨true, false, 0, 0, 0, 0⟩,
     .vredF ⟨false, false, 0, 3, 0, 0⟩, .vredI ⟨true, false, 0, 0, 0, 0⟩, .vredI ⟨false, false, 0, 5, 0, 0⟩,
     .vsclCompute ⟨true, false, 0, 0, 0, 0⟩, .vsclCompute ⟨false, false, 0, 5, 0, 0⟩, .vsclApply ⟨false, false, 0, 0, 0, 0⟩,
     .vbcast ⟨true, false, 0, 0, 0, 0⟩, .vbcast ⟨false, false, 0, 5, 0, 0⟩, .viota ⟨true, false, 0, 0, 0, 0⟩,
     .viota ⟨false, false, 0, 5, 0, 0⟩, .vcvt ⟨true, false, 0, 0, 0, 0⟩, .vcvt ⟨false, false, 0, 24, 0, 0⟩,
     .mzero ⟨true, false, 0, 0, 0, 0⟩, .mzero ⟨false, true, 0, 0, 0, 0⟩, .mzero ⟨false, false, 3, 0, 0, 0⟩,
     .mzero ⟨false, false, 0, 5, 0, 0⟩, .mzero ⟨false, false, 0, 0, 5, 0⟩, .mzero ⟨false, false, 0, 0, 0, 16⟩,
     .mlb ⟨false, false, 3, 0, 0, 0⟩, .mlb ⟨false, false, 0, 0, 0, 2⟩, .mlb ⟨true, false, 0, 0, 0, 0⟩, .mring ⟨false, false, 3, 0, 0, 0⟩,
     .mring ⟨false, false, 0, 0, 0, 2⟩, .mring ⟨true, false, 0, 0, 0, 0⟩, .mpass ⟨false, false, 3, 0, 0, 0⟩,
     .mpass ⟨false, false, 0, 0, 0, 2⟩, .mld ⟨false, false, 3, 0, 0, 0⟩, .mld ⟨false, false, 0, 0, 0, 16⟩, .mld ⟨true, false, 0, 0, 0, 0⟩,
     .mst ⟨false, false, 3, 0, 0, 0⟩, .mst ⟨false, false, 0, 0, 0, 16⟩, .mst ⟨true, false, 0, 0, 0, 0⟩, .mgeo ⟨true, false, 2, 0, 0, 0⟩,
     .mgeo ⟨false, false, 3, 0, 0, 0⟩, .mgeo ⟨false, false, 2, 5, 0, 0⟩, .mmaReg ⟨false, false, 2, 0, 0, 0⟩,
     .mmaReg ⟨false, false, 0, 0, 0, 16⟩, .cpy ⟨false, false, 3, 0, 0, 0⟩, .xfer ⟨false, false, 3, 0, 0, 0⟩,
     .cpyw ⟨true, false, 0, 0, 0, 0⟩, .cpyw ⟨false, false, 3, 0, 0, 0⟩, .cpyw ⟨false, false, 0, 5, 0, 0⟩, .cpyq ⟨true, false, 0, 0, 0, 0⟩] :
    List Instr).all (fun i => !i.wf) = true := by decide

/-- Terms with one field that its check refuses (R64, R66, R72), in the order of `Instr.wf`. -/
theorem test_wf_refuses_1 : (
    [.cpyq ⟨false, false, 3, 0, 0, 0⟩, .cpyq ⟨false, false, 0, 5, 0, 0⟩, .cpystop ⟨true, false, 0, 0, 0, 0⟩,
     .cpystop ⟨false, false, 3, 0, 0, 0⟩, .cpystop ⟨false, false, 0, 5, 0, 0⟩, .launch ⟨false, false, 3, 0, 0, 0⟩,
     .lstat ⟨true, false, 1, 0, 0, 0⟩, .lstat ⟨false, false, 3, 0, 0, 0⟩, .lstat ⟨false, false, 1, 5, 0, 0⟩,
     .lkill ⟨true, false, 1, 0, 0, 0⟩, .lkill ⟨false, false, 3, 0, 0, 0⟩, .lkill ⟨false, false, 1, 5, 0, 0⟩,
     .eitem ⟨true, false, 1, 0, 0, 0⟩, .eitem ⟨false, true, 1, 0, 0, 0⟩, .eitem ⟨false, false, 3, 0, 0, 0⟩,
     .eitem ⟨false, false, 1, 5, 0, 0⟩, .eitem ⟨false, false, 1, 0, 5, 0⟩, .econ ⟨false, false, 3, 0, 0, 0⟩,
     .econ ⟨false, false, 0, 0, 0, 5⟩, .estat ⟨true, false, 0, 0, 0, 0⟩, .estat ⟨false, false, 3, 0, 0, 0⟩,
     .estat ⟨false, false, 0, 5, 0, 0⟩, .sresume ⟨false, false, 3, 0, 0, 0⟩, .sresume ⟨true, false, 0, 0, 0, 0⟩,
     .skill ⟨true, false, 0, 0, 0, 0⟩, .skill ⟨false, false, 3, 0, 0, 0⟩, .skill ⟨false, false, 0, 5, 0, 0⟩,
     .sqkill ⟨true, false, 0, 0, 0, 0⟩, .sqkill ⟨false, false, 3, 0, 0, 0⟩, .sqkill ⟨false, false, 0, 5, 0, 0⟩,
     .tlbinv ⟨false, false, 3, 0, 0, 0⟩, .dpitset ⟨false, false, 3, 0, 0, 0⟩, .trc ⟨false, false, 0, 0, 0, 5⟩,
     .dmark ⟨true, false, 0, 0, 0, 0⟩, .dmark ⟨false, false, 3, 0, 0, 0⟩, .dmark ⟨false, false, 0, 5, 0, 0⟩,
     .dmark ⟨false, false, 0, 0, 0, 5⟩, .send ⟨false, false, 0, 0, 0, 2⟩, .reply ⟨false, false, 0, 0, 0, 2⟩,
     .hen ⟨true, false, 0, 0, 0, 0⟩, .hen ⟨false, false, 3, 0, 0, 0⟩, .hen ⟨false, false, 0, 5, 0, 0⟩, .hen ⟨false, false, 0, 0, 0, 5⟩,
     .hdis ⟨true, false, 0, 0, 0, 0⟩, .hdis ⟨false, false, 3, 0, 0, 0⟩, .hdis ⟨false, false, 0, 5, 0, 0⟩, .hdis ⟨false, false, 0, 0, 0, 5⟩,
     .hpend ⟨true, false, 0, 0, 0, 0⟩, .hpend ⟨false, false, 3, 0, 0, 0⟩, .hpend ⟨false, false, 0, 5, 0, 0⟩,
     .hpend ⟨false, false, 0, 0, 0, 5⟩, .hclr ⟨true, false, 0, 0, 0, 0⟩, .hclr ⟨false, false, 3, 0, 0, 0⟩,
     .hclr ⟨false, false, 0, 5, 0, 0⟩, .hclr ⟨false, false, 0, 0, 0, 5⟩, .hhdr ⟨true, false, 2, 0, 0, 0⟩, .hhdr ⟨false, true, 2, 0, 0, 0⟩,
     .hhdr ⟨false, false, 3, 0, 0, 0⟩, .hhdr ⟨false, false, 2, 5, 0, 0⟩, .hhdr ⟨false, false, 2, 0, 5, 0⟩] :
    List Instr).all (fun i => !i.wf) = true := by decide

/-- Terms with one field that its check refuses (R64, R66, R72), in the order of `Instr.wf`. -/
theorem test_wf_refuses_2 : (
    [.susp ⟨true, false, 0, 0, 0, 0⟩, .susp ⟨false, true, 0, 0, 0, 0⟩, .susp ⟨false, false, 3, 0, 0, 0⟩, .susp ⟨false, false, 0, 5, 0, 0⟩,
     .susp ⟨false, false, 0, 0, 5, 0⟩, .susp ⟨false, false, 0, 0, 0, 5⟩, .yield ⟨true, false, 0, 0, 0, 0⟩,
     .yield ⟨false, true, 0, 0, 0, 0⟩, .yield ⟨false, false, 3, 0, 0, 0⟩, .yield ⟨false, false, 0, 5, 0, 0⟩,
     .yield ⟨false, false, 0, 0, 5, 0⟩, .yield ⟨false, false, 0, 0, 0, 5⟩, .spawn ⟨false, false, 3, 0, 0, 0⟩,
     .join ⟨true, false, 0, 0, 0, 11⟩, .join ⟨false, true, 0, 0, 0, 11⟩, .join ⟨false, false, 3, 0, 0, 11⟩,
     .join ⟨false, false, 0, 0, 5, 11⟩, .join ⟨false, false, 0, 0, 0, 10⟩, .join ⟨false, false, 0, 19, 0, 11⟩,
     .exit ⟨true, false, 0, 0, 0, 0⟩, .exit ⟨false, false, 3, 0, 0, 0⟩, .exit ⟨false, false, 0, 5, 0, 0⟩, .exit ⟨false, false, 0, 0, 0, 5⟩,
     .nmnew ⟨false, false, 3, 0, 0, 0⟩, .nmres ⟨true, false, 1, 0, 0, 0⟩, .nmres ⟨false, false, 3, 0, 0, 0⟩,
     .nmres ⟨false, false, 1, 5, 0, 0⟩, .nmcas ⟨false, false, 3, 0, 0, 0⟩, .nmkill ⟨true, false, 1, 0, 0, 0⟩,
     .nmkill ⟨false, false, 3, 0, 0, 0⟩, .nmkill ⟨false, false, 1, 5, 0, 0⟩, .nmld ⟨false, false, 3, 0, 0, 0⟩,
     .nmst ⟨false, false, 3, 0, 0, 0⟩, .nmstat ⟨true, false, 1, 0, 0, 0⟩, .nmstat ⟨false, false, 3, 0, 0, 0⟩,
     .nmstat ⟨false, false, 1, 5, 0, 0⟩, .twld ⟨false, false, 2, 0, 0, 0⟩, .twld ⟨false, false, 0, 5, 0, 0⟩,
     .twld ⟨true, false, 0, 0, 0, 0⟩, .twadd ⟨false, false, 2, 0, 0, 0⟩, .twadd ⟨false, false, 0, 0, 0, 5⟩,
     .twset ⟨false, false, 2, 0, 0, 0⟩, .twset ⟨false, false, 0, 0, 0, 5⟩, .twarm ⟨false, false, 3, 0, 0, 0⟩,
     .twarm ⟨false, false, 0, 0, 0, 5⟩, .twarm ⟨true, false, 0, 0, 0, 0⟩, .twdis ⟨false, false, 3, 0, 0, 0⟩,
     .twdis ⟨false, false, 0, 0, 0, 5⟩, .twdis ⟨true, false, 0, 0, 0, 0⟩, .twpred ⟨false, false, 2, 0, 0, 0⟩,
     .twpred ⟨false, false, 0, 5, 0, 0⟩, .twpred ⟨true, false, 0, 0, 0, 0⟩, .lawset ⟨false, false, 3, 0, 0, 0⟩,
     .lawset ⟨false, false, 0, 0, 0, 5⟩, .lawget ⟨true, false, 0, 0, 0, 0⟩, .lawget ⟨false, false, 3, 0, 0, 0⟩,
     .lawget ⟨false, false, 0, 5, 0, 0⟩, .qbind ⟨true, false, 0, 0, 0, 0⟩, .qbind ⟨false, false, 3, 0, 0, 0⟩,
     .qbind ⟨false, false, 0, 5, 0, 0⟩] :
    List Instr).all (fun i => !i.wf) = true := by decide

/-- Terms with one field that its check refuses (R64, R66, R72), in the order of `Instr.wf`. -/
theorem test_wf_refuses_3 : (
    [.qbind ⟨false, false, 0, 0, 0, 8⟩, .qrd ⟨true, false, 0, 0, 0, 0⟩, .qrd ⟨false, true, 0, 0, 0, 0⟩, .qrd ⟨false, false, 3, 0, 0, 0⟩,
     .qrd ⟨false, false, 0, 5, 0, 0⟩, .qrd ⟨false, false, 0, 0, 8, 0⟩, .qrdv ⟨true, false, 0, 0, 0, 0⟩, .qrdv ⟨false, true, 0, 0, 0, 0⟩,
     .qrdv ⟨false, false, 3, 0, 0, 0⟩, .qrdv ⟨false, false, 0, 5, 0, 0⟩, .qrdv ⟨false, false, 0, 0, 8, 0⟩,
     .qstat ⟨true, false, 0, 0, 0, 0⟩, .qstat ⟨false, true, 0, 0, 0, 0⟩, .qstat ⟨false, false, 3, 0, 0, 0⟩,
     .qstat ⟨false, false, 0, 5, 0, 0⟩, .qstat ⟨false, false, 0, 0, 0, 8⟩, .waitv ⟨false, false, 2, 0, 0, 0⟩,
     .gpf ⟨false, false, 3, 0, 0, 0⟩, .gpf ⟨false, false, 0, 0, 0, 5⟩, .mhint ⟨false, false, 3, 0, 0, 0⟩,
     .mhint ⟨false, false, 0, 0, 0, 5⟩, .mqry ⟨true, false, 0, 0, 0, 0⟩, .mqry ⟨false, false, 3, 0, 0, 0⟩,
     .mqry ⟨false, false, 0, 5, 0, 0⟩, .tbadv ⟨false, false, 3, 0, 0, 0⟩, .amoAdd ⟨false, false, 3, 0, 0, 0⟩,
     .amoMin ⟨false, false, 2, 0, 0, 0⟩, .amoMax ⟨false, false, 2, 0, 0, 0⟩, .amoAnd ⟨false, false, 3, 0, 0, 0⟩,
     .amoOr ⟨false, false, 3, 0, 0, 0⟩, .amoXor ⟨false, false, 3, 0, 0, 0⟩, .amoSwap ⟨false, false, 2, 0, 0, 0⟩,
     .amocas ⟨false, false, 2, 0, 0, 0⟩, .red ⟨false, false, 3, 0, 0, 0⟩, .red ⟨false, false, 0, 0, 0, 3⟩, .fen ⟨true, false, 0, 11, 0, 0⟩,
     .fen ⟨false, true, 0, 11, 0, 0⟩, .fen ⟨false, false, 3, 11, 0, 0⟩, .fen ⟨false, false, 0, 11, 5, 0⟩, .fen ⟨false, false, 0, 11, 0, 5⟩,
     .fen ⟨false, false, 0, 8, 0, 0⟩, .own ⟨true, false, 0, 0, 0, 0⟩, .own ⟨false, false, 3, 0, 0, 0⟩, .own ⟨false, false, 0, 5, 0, 0⟩,
     .own ⟨false, false, 0, 0, 0, 5⟩, .ownw ⟨true, false, 0, 0, 0, 0⟩, .ownw ⟨false, false, 3, 0, 0, 0⟩, .ownw ⟨false, false, 0, 5, 0, 0⟩,
     .ownw ⟨false, false, 0, 0, 0, 5⟩, .barjoin ⟨true, false, 1, 0, 0, 0⟩, .barjoin ⟨false, false, 3, 0, 0, 0⟩,
     .barjoin ⟨false, false, 1, 5, 0, 0⟩, .barinit ⟨false, false, 3, 0, 0, 0⟩, .barinit ⟨false, false, 1, 0, 0, 5⟩,
     .bararr ⟨true, false, 1, 0, 0, 0⟩, .bararr ⟨false, false, 3, 0, 0, 0⟩, .bararr ⟨false, false, 1, 5, 0, 0⟩,
     .barwait ⟨false, false, 3, 0, 0, 0⟩, .baraw ⟨true, false, 1, 0, 0, 0⟩, .baraw ⟨false, false, 3, 0, 0, 0⟩] :
    List Instr).all (fun i => !i.wf) = true := by decide

/-- Terms with one field that its check refuses (R64, R66, R72), in the order of `Instr.wf`. -/
theorem test_wf_refuses_4 : (
    [.baraw ⟨false, false, 1, 5, 0, 0⟩, .bardrop ⟨true, false, 1, 0, 0, 0⟩, .bardrop ⟨false, false, 3, 0, 0, 0⟩,
     .bardrop ⟨false, false, 1, 5, 0, 0⟩, .barinv ⟨true, false, 1, 0, 0, 0⟩, .barinv ⟨false, false, 3, 0, 0, 0⟩,
     .barinv ⟨false, false, 1, 5, 0, 0⟩, .barinv ⟨false, false, 1, 0, 0, 5⟩, .grp ⟨false, false, 3, 0, 0, 0⟩,
     .fadd ⟨false, false, 2, 0, 0, 0⟩, .fsub ⟨false, false, 2, 0, 0, 0⟩, .fmul ⟨false, false, 2, 0, 0, 0⟩, .fma ⟨false, false, 2, 0, 0, 0⟩,
     .fdiv ⟨false, false, 2, 0, 0, 0⟩, .fsqrt ⟨true, false, 0, 0, 0, 0⟩, .fsqrt ⟨false, false, 2, 0, 0, 0⟩,
     .fsqrt ⟨false, false, 0, 5, 0, 0⟩, .fmin ⟨false, false, 2, 0, 0, 0⟩, .fmax ⟨false, false, 2, 0, 0, 0⟩,
     .fcmp ⟨false, false, 2, 0, 0, 0⟩, .fcvt ⟨true, false, 0, 0, 0, 0⟩, .fcvt ⟨false, false, 3, 0, 0, 0⟩,
     .fcvt ⟨false, false, 0, 18, 0, 0⟩, .min ⟨false, false, 2, 0, 0, 0⟩, .max ⟨false, false, 2, 0, 0, 0⟩, .clz ⟨true, false, 0, 0, 0, 0⟩,
     .clz ⟨false, false, 3, 0, 0, 0⟩, .clz ⟨false, false, 0, 5, 0, 0⟩, .ctz ⟨true, false, 0, 0, 0, 0⟩, .ctz ⟨false, false, 3, 0, 0, 0⟩,
     .ctz ⟨false, false, 0, 5, 0, 0⟩, .cpop ⟨true, false, 0, 0, 0, 0⟩, .cpop ⟨false, false, 3, 0, 0, 0⟩, .cpop ⟨false, false, 0, 5, 0, 0⟩,
     .csel ⟨false, false, 3, 0, 0, 0⟩, .loop ⟨true, false, 0, 4, 0, 0⟩, .loop ⟨false, false, 2, 4, 0, 0⟩, .loop ⟨false, false, 0, 0, 0, 0⟩,
     .bfx ⟨false, false, 3, 0, 0, 0⟩, .bfi ⟨false, false, 3, 0, 0, 0⟩, .rol ⟨false, false, 3, 0, 0, 0⟩, .ror ⟨false, false, 3, 0, 0, 0⟩] :
    List Instr).all (fun i => !i.wf) = true := by decide

/-- Terms that a check of immediates, loop bodies, payloads or codes refuses (R66, R72). -/
theorem test_wf_refuses_fields : (
    [.mmaImm false ⟨false, 4, 8, 16⟩, .gld 7 ⟨false, 0, 1, 2⟩, .gst 0 ⟨false, false, 3, 1, 2, 0⟩, .gvst ⟨false, false, 3, 1, 2, 0⟩,
     .loopi false ⟨true, 4, 1, 0⟩, .loopi false ⟨false, 4, 0, 0⟩, .align ⟨true, 4, 0, 0⟩, .align ⟨false, 4, 1, 0⟩, .align ⟨false, 4, 0, 1⟩,
     .rolImm ⟨false, 64, 1, 2⟩, .rorImm ⟨false, 64, 1, 2⟩, .fmt 0x0E000, .fmt 0x00E00, .fmt 0x00060, .fmt 0x00018,
     .red ⟨false, false, 0, 1, 2, 12⟩, .red ⟨false, false, 0, 1, 2, 16⟩, .fen ⟨false, false, 0, 27, 0, 0⟩,
     .join ⟨false, false, 0, 6, 0, 11⟩, .join ⟨false, false, 0, 0, 0, 16⟩] :
    List Instr).all (fun i => !i.wf) = true := by decide

/-- Events with a message of another kind (R102), and events whose argument is out of range. -/
theorem test_wf_refuses_events : (
    [.handlerMessage { kind := 0xFF }, .registerReply { kind := 0xFF }, .resume { kind := 0xFF }, .spawnMessage { kind := 0xFF },
     .exitReport { kind := 0xFF }, .launchStart { kind := 0xFF }, .crossing { kind := 0xFF }, .copyArrival { kind := 0xFF },
     .estimatorItem { kind := 0xFF }, .trapReport { kind := 0xFF }, .errorNotice { kind := 0xFF }, .peerDownNotice { kind := 0xFF },
     .readRequest { kind := 0xFF }, .writeRequest { kind := 0xFF }, .writeRelease { kind := 0xFF }, .writeSc { kind := 0xFF },
     .prefetchRequest { kind := 0xFF }, .watchRequest { kind := 0xFF }, .readReply { kind := 0xFF },
     .writeAcknowledgement { kind := 0xFF }, .atomicRequest { kind := 0xFF }, .reductionRequest { kind := 0xFF },
     .barrierOperation { kind := 0xFF }, .nearMemoryReply { kind := 0xFF }, .tensedRequest { kind := 0xFF }, .tensedReply { kind := 0xFF },
     .hubRequest { kind := 0xFF }, .hubReply { kind := 0xFF }, .nameRequest { kind := 0xFF }, .nameReply { kind := 0xFF },
     .shootDown { kind := 0xFF }, .hintRequest { kind := 0xFF }, .queryRequest { kind := 0xFF }, .queryReply { kind := 0xFF },
     .estimatorRequest { kind := 0xFF }, .hostEnqueue 129 0 (List.replicate 16 0), .hostEnqueue 0 0 [], .wincmdDeclare 64,
     .wincmdRedeclare 64, .wincmdRemove 64] :
    List Instr).all (fun i => !i.wf) = true := by decide

/-- The terms that the refused ones differ from in one field are well-formed. -/
theorem test_wf_admits : (
    [.vabsF ⟨false, false, 0, 0, 0, 0⟩, .vrcp ⟨false, false, 0, 1, 0, 0⟩, .vrsq ⟨false, false, 0, 2, 0, 0⟩,
     .vexp2 ⟨false, false, 0, 3, 0, 0⟩, .vlog2 ⟨false, false, 0, 4, 0, 0⟩, .vabsI ⟨false, false, 0, 0, 0, 0⟩,
     .vredF ⟨false, false, 0, 0, 0, 0⟩, .vredI ⟨false, false, 0, 0, 0, 0⟩, .vsclCompute ⟨false, false, 0, 0, 0, 0⟩,
     .vsclApply ⟨false, false, 0, 9, 0, 0⟩, .vbcast ⟨false, false, 0, 0, 0, 0⟩, .viota ⟨false, false, 0, 0, 0, 0⟩,
     .vcvt ⟨false, false, 0, 0, 0, 0⟩, .mzero ⟨false, false, 0, 0, 0, 0⟩, .mlb ⟨false, false, 0, 0, 0, 0⟩,
     .mring ⟨false, false, 0, 0, 0, 0⟩, .mpass ⟨false, false, 0, 0, 0, 0⟩, .mld ⟨false, false, 0, 0, 0, 0⟩,
     .mst ⟨false, false, 0, 0, 0, 0⟩, .mgeo ⟨false, false, 2, 0, 0, 0⟩, .mmaReg ⟨false, false, 0, 0, 0, 0⟩,
     .cpy ⟨false, false, 0, 0, 0, 0⟩, .xfer ⟨false, false, 0, 0, 0, 0⟩, .cpyw ⟨false, false, 0, 0, 0, 0⟩, .cpyq ⟨false, false, 0, 0, 0, 0⟩,
     .cpystop ⟨false, false, 0, 0, 0, 0⟩, .launch ⟨false, false, 1, 0, 0, 0⟩, .lstat ⟨false, false, 1, 0, 0, 0⟩,
     .lkill ⟨false, false, 1, 0, 0, 0⟩, .eitem ⟨false, false, 1, 0, 0, 0⟩, .econ ⟨false, false, 0, 0, 0, 0⟩,
     .estat ⟨false, false, 0, 0, 0, 0⟩, .sresume ⟨false, false, 0, 0, 0, 0⟩, .skill ⟨false, false, 0, 0, 0, 0⟩,
     .sqkill ⟨false, false, 0, 0, 0, 0⟩, .tlbinv ⟨false, false, 0, 0, 0, 0⟩, .dpitset ⟨false, false, 0, 0, 0, 0⟩,
     .trc ⟨false, false, 0, 0, 0, 0⟩, .dmark ⟨false, false, 0, 0, 0, 0⟩, .send ⟨false, false, 0, 0, 0, 0⟩,
     .reply ⟨false, false, 0, 0, 0, 0⟩, .hen ⟨false, false, 0, 0, 0, 0⟩, .hdis ⟨false, false, 0, 0, 0, 0⟩,
     .hpend ⟨false, false, 0, 0, 0, 0⟩, .hclr ⟨false, false, 0, 0, 0, 0⟩, .hhdr ⟨false, false, 2, 0, 0, 0⟩,
     .susp ⟨false, false, 0, 0, 0, 0⟩, .yield ⟨false, false, 0, 0, 0, 0⟩, .spawn ⟨false, false, 0, 0, 0, 0⟩,
     .join ⟨false, false, 0, 0, 0, 11⟩, .exit ⟨false, false, 0, 0, 0, 0⟩, .nmnew ⟨false, false, 1, 0, 0, 0⟩,
     .nmres ⟨false, false, 1, 0, 0, 0⟩, .nmcas ⟨false, false, 1, 0, 0, 0⟩, .nmkill ⟨false, false, 1, 0, 0, 0⟩,
     .nmld ⟨false, false, 1, 0, 0, 0⟩, .nmst ⟨false, false, 1, 0, 0, 0⟩, .nmstat ⟨false, false, 1, 0, 0, 0⟩,
     .twld ⟨false, false, 0, 0, 0, 0⟩, .twadd ⟨false, false, 0, 0, 0, 0⟩, .twset ⟨false, false, 0, 0, 0, 0⟩,
     .twarm ⟨false, false, 0, 0, 0, 0⟩, .twdis ⟨false, false, 0, 0, 0, 0⟩, .twpred ⟨false, false, 0, 0, 0, 0⟩,
     .lawset ⟨false, false, 0, 0, 0, 0⟩, .lawget ⟨false, false, 0, 0, 0, 0⟩, .qbind ⟨false, false, 0, 0, 0, 0⟩,
     .qrd ⟨false, false, 0, 0, 0, 0⟩, .qrdv ⟨false, false, 0, 0, 0, 0⟩, .qstat ⟨false, false, 0, 0, 0, 0⟩,
     .waitv ⟨false, false, 0, 0, 0, 0⟩, .gpf ⟨false, false, 0, 0, 0, 0⟩, .mhint ⟨false, false, 0, 0, 0, 0⟩,
     .mqry ⟨false, false, 0, 0, 0, 0⟩, .tbadv ⟨false, false, 0, 0, 0, 0⟩, .amoAdd ⟨false, false, 0, 0, 0, 0⟩,
     .amoMin ⟨false, false, 0, 0, 0, 0⟩, .amoMax ⟨false, false, 0, 0, 0, 0⟩, .amoAnd ⟨false, false, 0, 0, 0, 0⟩,
     .amoOr ⟨false, false, 0, 0, 0, 0⟩, .amoXor ⟨false, false, 0, 0, 0, 0⟩, .amoSwap ⟨false, false, 0, 0, 0, 0⟩,
     .amocas ⟨false, false, 0, 0, 0, 0⟩, .red ⟨false, false, 0, 0, 0, 0⟩, .fen ⟨false, false, 0, 11, 0, 0⟩,
     .own ⟨false, false, 0, 0, 0, 0⟩, .ownw ⟨false, false, 0, 0, 0, 0⟩, .barjoin ⟨false, false, 1, 0, 0, 0⟩,
     .barinit ⟨false, false, 1, 0, 0, 0⟩, .bararr ⟨false, false, 1, 0, 0, 0⟩, .barwait ⟨false, false, 1, 0, 0, 0⟩,
     .baraw ⟨false, false, 1, 0, 0, 0⟩, .bardrop ⟨false, false, 1, 0, 0, 0⟩, .barinv ⟨false, false, 1, 0, 0, 0⟩,
     .grp ⟨false, false, 0, 0, 0, 0⟩, .fadd ⟨false, false, 0, 0, 0, 0⟩, .fsub ⟨false, false, 0, 0, 0, 0⟩, .fmul ⟨false, false, 0, 0, 0, 0⟩,
     .fma ⟨false, false, 0, 0, 0, 0⟩, .fdiv ⟨false, false, 0, 0, 0, 0⟩, .fsqrt ⟨false, false, 0, 0, 0, 0⟩,
     .fmin ⟨false, false, 0, 0, 0, 0⟩, .fmax ⟨false, false, 0, 0, 0, 0⟩, .fcmp ⟨false, false, 0, 0, 0, 0⟩,
     .fcvt ⟨false, false, 0, 0, 0, 0⟩, .min ⟨false, false, 0, 0, 0, 0⟩, .max ⟨false, false, 0, 0, 0, 0⟩, .clz ⟨false, false, 0, 0, 0, 0⟩,
     .ctz ⟨false, false, 0, 0, 0, 0⟩, .cpop ⟨false, false, 0, 0, 0, 0⟩, .csel ⟨false, false, 0, 0, 0, 0⟩, .loop ⟨false, false, 0, 4, 0, 0⟩,
     .bfx ⟨false, false, 0, 0, 0, 0⟩, .bfi ⟨false, false, 0, 0, 0, 0⟩, .rol ⟨false, false, 0, 0, 0, 0⟩, .ror ⟨false, false, 0, 0, 0, 0⟩] :
    List Instr).all (fun i => i.wf) = true := by decide

/-- Words of the base ALU, put together from the RISC-V formats of R61 and R76. -/
theorem test_decode_alu :
    decode 0x123452B7#32 = .ok (.baseAlu (.lui 5 0x12345)) ∧
    decode 0x00001297#32 = .ok (.baseAlu (.auipc 5 1)) ∧
    decode 0xFF810113#32 = .ok (.baseAlu (.opImm .addi 2 2 0xFF8)) ∧
    decode 0xFFF32293#32 = .ok (.baseAlu (.opImm .slti 5 6 0xFFF)) ∧
    decode 0xFFF33293#32 = .ok (.baseAlu (.opImm .sltiu 5 6 0xFFF)) ∧
    decode 0xFFF34293#32 = .ok (.baseAlu (.opImm .xori 5 6 0xFFF)) ∧
    decode 0xFFF36293#32 = .ok (.baseAlu (.opImm .ori 5 6 0xFFF)) ∧
    decode 0xFFF37293#32 = .ok (.baseAlu (.opImm .andi 5 6 0xFFF)) ∧
    decode 0x03F31293#32 = .ok (.baseAlu (.shiftImm .sll 5 6 63)) ∧
    decode 0x03F35293#32 = .ok (.baseAlu (.shiftImm .srl 5 6 63)) ∧
    decode 0x43F35293#32 = .ok (.baseAlu (.shiftImm .sra 5 6 63)) ∧
    decode 0x007302B3#32 = .ok (.baseAlu (.op .add 5 6 7)) ∧
    decode 0x407302B3#32 = .ok (.baseAlu (.op .sub 5 6 7)) ∧
    decode 0x007312B3#32 = .ok (.baseAlu (.op .sll 5 6 7)) ∧
    decode 0x007322B3#32 = .ok (.baseAlu (.op .slt 5 6 7)) ∧
    decode 0x007332B3#32 = .ok (.baseAlu (.op .sltu 5 6 7)) ∧
    decode 0x007342B3#32 = .ok (.baseAlu (.op .xor 5 6 7)) ∧
    decode 0x007352B3#32 = .ok (.baseAlu (.op .srl 5 6 7)) ∧
    decode 0x407352B3#32 = .ok (.baseAlu (.op .sra 5 6 7)) ∧
    decode 0x007362B3#32 = .ok (.baseAlu (.op .or 5 6 7)) ∧
    decode 0x007372B3#32 = .ok (.baseAlu (.op .and 5 6 7)) ∧
    decode 0xFFF3029B#32 = .ok (.baseAlu (.addiw 5 6 0xFFF)) ∧
    decode 0x01F3129B#32 = .ok (.baseAlu (.shiftImmW .sll 5 6 31)) ∧
    decode 0x01F3529B#32 = .ok (.baseAlu (.shiftImmW .srl 5 6 31)) ∧
    decode 0x41F3529B#32 = .ok (.baseAlu (.shiftImmW .sra 5 6 31)) ∧
    decode 0x007302BB#32 = .ok (.baseAlu (.opW .addw 5 6 7)) ∧
    decode 0x407302BB#32 = .ok (.baseAlu (.opW .subw 5 6 7)) ∧
    decode 0x007312BB#32 = .ok (.baseAlu (.opW .sllw 5 6 7)) ∧
    decode 0x007352BB#32 = .ok (.baseAlu (.opW .srlw 5 6 7)) ∧
    decode 0x407352BB#32 = .ok (.baseAlu (.opW .sraw 5 6 7)) := by decide

/-- Words of the M extension, of loads and of stores (R61, R76). -/
theorem test_decode_mulDivLoadStore :
    decode 0x027302B3#32 = .ok (.baseMulDiv .mul 5 6 7) ∧
    decode 0x027312B3#32 = .ok (.baseMulDiv .mulh 5 6 7) ∧
    decode 0x027322B3#32 = .ok (.baseMulDiv .mulhsu 5 6 7) ∧
    decode 0x027332B3#32 = .ok (.baseMulDiv .mulhu 5 6 7) ∧
    decode 0x027342B3#32 = .ok (.baseMulDiv .div 5 6 7) ∧
    decode 0x027352B3#32 = .ok (.baseMulDiv .divu 5 6 7) ∧
    decode 0x027362B3#32 = .ok (.baseMulDiv .rem 5 6 7) ∧
    decode 0x027372B3#32 = .ok (.baseMulDiv .remu 5 6 7) ∧
    decode 0x027302BB#32 = .ok (.baseMulDiv .mulw 5 6 7) ∧
    decode 0x027342BB#32 = .ok (.baseMulDiv .divw 5 6 7) ∧
    decode 0x027352BB#32 = .ok (.baseMulDiv .divuw 5 6 7) ∧
    decode 0x027362BB#32 = .ok (.baseMulDiv .remw 5 6 7) ∧
    decode 0x027372BB#32 = .ok (.baseMulDiv .remuw 5 6 7) ∧
    decode 0xFF830283#32 = .ok (.baseLoad .lb 5 6 0xFF8) ∧
    decode 0xFF831283#32 = .ok (.baseLoad .lh 5 6 0xFF8) ∧
    decode 0xFF832283#32 = .ok (.baseLoad .lw 5 6 0xFF8) ∧
    decode 0xFF833283#32 = .ok (.baseLoad .ld 5 6 0xFF8) ∧
    decode 0xFF834283#32 = .ok (.baseLoad .lbu 5 6 0xFF8) ∧
    decode 0xFF835283#32 = .ok (.baseLoad .lhu 5 6 0xFF8) ∧
    decode 0xFF836283#32 = .ok (.baseLoad .lwu 5 6 0xFF8) ∧
    decode 0xFE730C23#32 = .ok (.baseStore .sb 6 7 0xFF8) ∧
    decode 0xFE731C23#32 = .ok (.baseStore .sh 6 7 0xFF8) ∧
    decode 0xFE732C23#32 = .ok (.baseStore .sw 6 7 0xFF8) ∧
    decode 0xFE733C23#32 = .ok (.baseStore .sd 6 7 0xFF8) := by decide

/-- Words of branches, jumps, FENCE and SYSTEM (R61, R81). -/
theorem test_decode_controlSystem :
    decode 0xFE628EE3#32 = .ok (.baseBranch .beq 5 6 0xFFE) ∧
    decode 0xFE629EE3#32 = .ok (.baseBranch .bne 5 6 0xFFE) ∧
    decode 0xFE62CEE3#32 = .ok (.baseBranch .blt 5 6 0xFFE) ∧
    decode 0xFE62DEE3#32 = .ok (.baseBranch .bge 5 6 0xFFE) ∧
    decode 0xFE62EEE3#32 = .ok (.baseBranch .bltu 5 6 0xFFE) ∧
    decode 0xFE62FEE3#32 = .ok (.baseBranch .bgeu 5 6 0xFFE) ∧
    decode 0xFFDFF0EF#32 = .ok (.jal 1 0xFFFFE) ∧
    decode 0x010280E7#32 = .ok (.jalr 1 5 0x010) ∧
    decode 0x0FF0000F#32 = .ok (.baseFence 0 0 0x0FF) ∧
    decode 0x00000073#32 = .ok (.ecall) ∧
    decode 0x00100073#32 = .ok (.ebreak) ∧
    decode 0x800312F3#32 = .ok (.zicsr .csrrw 5 6 0x800) ∧
    decode 0xCD0022F3#32 = .ok (.zicsr .csrrs 5 0 0xCD0) ∧
    decode 0x800332F3#32 = .ok (.zicsr .csrrc 5 6 0x800) ∧
    decode 0x8021D2F3#32 = .ok (.zicsr .csrrwi 5 3 0x802) ∧
    decode 0x8021E2F3#32 = .ok (.zicsr .csrrsi 5 3 0x802) ∧
    decode 0x8021F2F3#32 = .ok (.zicsr .csrrci 5 3 0x802) := by decide

/-- Words of custom-0, row by row of the opcode map (R62, R67 to R70); the manual prints 3 of them. -/
theorem test_decode_custom0_0 :
    decode 0x0044040B#32 = .ok (.vaddF ⟨false, false, 0, 4, 8, 8⟩) ∧
    decode 0x3556030B#32 = .ok (.vsubF ⟨true, false, 2, 21, 12, 6⟩) ∧
    decode 0x4D56030B#32 = .ok (.vmulF ⟨false, true, 2, 21, 12, 6⟩) ∧
    decode 0x6031040B#32 = .ok (.vfma ⟨false, false, 0, 3, 2, 8⟩) ∧
    decode 0x9D56030B#32 = .ok (.vfms ⟨true, true, 2, 21, 12, 6⟩) ∧
    decode 0xA556030B#32 = .ok (.vminF ⟨false, false, 2, 21, 12, 6⟩) ∧
    decode 0xD556030B#32 = .ok (.vmaxF ⟨true, false, 2, 21, 12, 6⟩) ∧
    decode 0xEC06030B#32 = .ok (.vabsF ⟨false, true, 2, 0, 12, 6⟩) ∧
    decode 0xE013028B#32 = .ok (.vrcp ⟨false, false, 0, 1, 6, 5⟩) ∧
    decode 0xEA26030B#32 = .ok (.vrsq ⟨false, true, 1, 2, 12, 6⟩) ∧
    decode 0xE236030B#32 = .ok (.vexp2 ⟨false, false, 1, 3, 12, 6⟩) ∧
    decode 0xE246030B#32 = .ok (.vlog2 ⟨false, false, 1, 4, 12, 6⟩) ∧
    decode 0x0D56130B#32 = .ok (.vaddI ⟨false, true, 2, 21, 12, 6⟩) ∧
    decode 0x3D56130B#32 = .ok (.vsubI ⟨true, true, 2, 21, 12, 6⟩) ∧
    decode 0x4556130B#32 = .ok (.vmulI ⟨false, false, 2, 21, 12, 6⟩) ∧
    decode 0x7556130B#32 = .ok (.vminI ⟨true, false, 2, 21, 12, 6⟩) ∧
    decode 0x8D56130B#32 = .ok (.vmaxI ⟨false, true, 2, 21, 12, 6⟩) ∧
    decode 0xBD56130B#32 = .ok (.vminN ⟨true, true, 2, 21, 12, 6⟩) ∧
    decode 0xC556130B#32 = .ok (.vmaxN ⟨false, false, 2, 21, 12, 6⟩) ∧
    decode 0xE406130B#32 = .ok (.vabsI ⟨false, false, 2, 0, 12, 6⟩) ∧
    decode 0x0D56230B#32 = .ok (.vcmpEqF ⟨false, true, 2, 21, 12, 6⟩) ∧
    decode 0x3D56230B#32 = .ok (.vcmpNeF ⟨true, true, 2, 21, 12, 6⟩) ∧
    decode 0x4556230B#32 = .ok (.vcmpLtF ⟨false, false, 2, 21, 12, 6⟩) ∧
    decode 0x7556230B#32 = .ok (.vcmpLeF ⟨true, false, 2, 21, 12, 6⟩) := by decide

/-- Words of custom-0, row by row of the opcode map (R62, R67 to R70); the manual prints 5 of them. -/
theorem test_decode_custom0_1 :
    decode 0x8004228B#32 = .ok (.vredF ⟨false, false, 0, 0, 8, 5⟩) ∧
    decode 0xAD56230B#32 = .ok (.vtopk ⟨false, true, 2, 21, 12, 6⟩) ∧
    decode 0xC475230B#32 = .ok (.vgth ⟨false, false, 2, 7, 10, 6⟩) ∧
    decode 0xFD56230B#32 = .ok (.vsct ⟨true, true, 2, 21, 12, 6⟩) ∧
    decode 0x0556330B#32 = .ok (.vcmpEqI ⟨false, false, 2, 21, 12, 6⟩) ∧
    decode 0x3556330B#32 = .ok (.vcmpNeI ⟨true, false, 2, 21, 12, 6⟩) ∧
    decode 0x4D56330B#32 = .ok (.vcmpLtI ⟨false, true, 2, 21, 12, 6⟩) ∧
    decode 0x7D56330B#32 = .ok (.vcmpLeI ⟨true, true, 2, 21, 12, 6⟩) ∧
    decode 0x8556330B#32 = .ok (.vcmpLtN ⟨false, false, 2, 21, 12, 6⟩) ∧
    decode 0xB556330B#32 = .ok (.vcmpLeN ⟨true, false, 2, 21, 12, 6⟩) ∧
    decode 0xCC46330B#32 = .ok (.vredI ⟨false, true, 2, 4, 12, 6⟩) ∧
    decode 0x1D56430B#32 = .ok (.vand ⟨true, true, 2, 21, 12, 6⟩) ∧
    decode 0x2556430B#32 = .ok (.vor ⟨false, false, 2, 21, 12, 6⟩) ∧
    decode 0x5556430B#32 = .ok (.vxor ⟨true, false, 2, 21, 12, 6⟩) ∧
    decode 0x6D56430B#32 = .ok (.vsel ⟨false, true, 2, 21, 12, 6⟩) ∧
    decode 0x9D56430B#32 = .ok (.vshl ⟨true, true, 2, 21, 12, 6⟩) ∧
    decode 0xA556430B#32 = .ok (.vshr ⟨false, false, 2, 21, 12, 6⟩) ∧
    decode 0xD556430B#32 = .ok (.vsra ⟨true, false, 2, 21, 12, 6⟩) ∧
    decode 0xE201448B#32 = .ok (.vsclCompute ⟨false, false, 1, 0, 2, 9⟩) ∧
    decode 0xE291420B#32 = .ok (.vsclApply ⟨false, false, 1, 9, 2, 4⟩) ∧
    decode 0x04C0D48B#32 = .ok (.vperm ⟨false, false, 2, 12, 1, 9⟩) ∧
    decode 0x2C06530B#32 = .ok (.vbcast ⟨false, true, 2, 0, 12, 6⟩) ∧
    decode 0x5D56530B#32 = .ok (.vext ⟨true, true, 2, 21, 12, 6⟩) ∧
    decode 0x6556530B#32 = .ok (.vins ⟨false, false, 2, 21, 12, 6⟩) := by decide

/-- Words of custom-0, row by row of the opcode map (R62, R67 to R70); the manual prints 2 of them. -/
theorem test_decode_custom0_2 :
    decode 0x8406530B#32 = .ok (.viota ⟨false, false, 2, 0, 12, 6⟩) ∧
    decode 0xAD16530B#32 = .ok (.vcvt ⟨false, true, 2, 17, 12, 6⟩) ∧
    decode 0xDD56530B#32 = .ok (.vpack ⟨true, true, 2, 21, 12, 6⟩) ∧
    decode 0xE556530B#32 = .ok (.vunpk ⟨false, false, 2, 21, 12, 6⟩) ∧
    decode 0x0025620B#32 = .ok (.vld ⟨false, 2, 10, 4⟩) ∧
    decode 0x2FF5620B#32 = .ok (.vst ⟨false, 255, 10, 4⟩) ∧
    decode 0x1009700B#32 = .ok (.fmt 0x2012) := by decide

/-- Words of custom-1, row by row of the opcode map (R62, R67 to R70); the manual prints 24 of them. -/
theorem test_decode_custom1_0 :
    decode 0x000001AB#32 = .ok (.mzero ⟨false, false, 0, 0, 0, 3⟩) ∧
    decode 0x2006802B#32 = .ok (.mlb ⟨false, false, 0, 0, 13, 0⟩) ∧
    decode 0x4005802B#32 = .ok (.mring ⟨false, false, 0, 0, 11, 0⟩) ∧
    decode 0x60C580AB#32 = .ok (.mpass ⟨false, false, 0, 12, 11, 1⟩) ∧
    decode 0x800502AB#32 = .ok (.mld ⟨false, false, 0, 0, 10, 5⟩) ∧
    decode 0xA004802B#32 = .ok (.mst ⟨false, false, 0, 0, 9, 0⟩) ∧
    decode 0xC405822B#32 = .ok (.mgeo ⟨false, false, 2, 0, 11, 4⟩) ∧
    decode 0x0274112B#32 = .ok (.mmaReg ⟨false, false, 1, 7, 8, 2⟩) ∧
    decode 0x0044202B#32 = .ok (.mmaImm false ⟨false, 4, 8, 0⟩) ∧
    decode 0x015A44AB#32 = .ok (.cpy ⟨false, false, 0, 21, 20, 9⟩) ∧
    decode 0x215A44AB#32 = .ok (.xfer ⟨false, false, 0, 21, 20, 9⟩) ∧
    decode 0x4004C2AB#32 = .ok (.cpyw ⟨false, false, 0, 0, 9, 5⟩) ∧
    decode 0x6004C32B#32 = .ok (.cpyq ⟨false, false, 0, 0, 9, 6⟩) ∧
    decode 0x8004C3AB#32 = .ok (.cpystop ⟨false, false, 0, 0, 9, 7⟩) ∧
    decode 0x035A662B#32 = .ok (.launch ⟨false, false, 1, 21, 20, 12⟩) ∧
    decode 0x220662AB#32 = .ok (.lstat ⟨false, false, 1, 0, 12, 5⟩) ∧
    decode 0x420662AB#32 = .ok (.lkill ⟨false, false, 1, 0, 12, 5⟩) ∧
    decode 0x6200682B#32 = .ok (.eitem ⟨false, false, 1, 0, 0, 16⟩) ∧
    decode 0x8058602B#32 = .ok (.econ ⟨false, false, 0, 5, 16, 0⟩) ∧
    decode 0xA003E32B#32 = .ok (.estat ⟨false, false, 0, 0, 7, 6⟩) ∧
    decode 0x0149F02B#32 = .ok (.sresume ⟨false, false, 0, 20, 19, 0⟩) ∧
    decode 0x2009F02B#32 = .ok (.skill ⟨false, false, 0, 0, 19, 0⟩) ∧
    decode 0x400572AB#32 = .ok (.sqkill ⟨false, false, 0, 0, 10, 5⟩) ∧
    decode 0x60B572AB#32 = .ok (.tlbinv ⟨false, false, 0, 11, 10, 5⟩) := by decide

/-- Words of custom-1, row by row of the opcode map (R62, R67 to R70); the manual prints 3 of them. -/
theorem test_decode_custom1_1 :
    decode 0x80B572AB#32 = .ok (.dpitset ⟨false, false, 0, 11, 10, 5⟩) ∧
    decode 0xA2C5702B#32 = .ok (.trc ⟨false, false, 1, 12, 10, 0⟩) ∧
    decode 0xC005702B#32 = .ok (.dmark ⟨false, false, 0, 0, 10, 0⟩) := by decide

/-- Words of custom-2, row by row of the opcode map (R62, R67 to R70); the manual prints 20 of them. -/
theorem test_decode_custom2_0 :
    decode 0x00F7005B#32 = .ok (.send ⟨false, false, 0, 15, 14, 0⟩) ∧
    decode 0x20F7035B#32 = .ok (.sendr ⟨false, false, 0, 15, 14, 6⟩) ∧
    decode 0x405A805B#32 = .ok (.reply ⟨false, false, 0, 5, 21, 0⟩) ∧
    decode 0x6002805B#32 = .ok (.hen ⟨false, false, 0, 0, 5, 0⟩) ∧
    decode 0x8806005B#32 = .ok (.hdis ⟨false, true, 0, 0, 12, 0⟩) ∧
    decode 0xA806005B#32 = .ok (.hpend ⟨false, true, 0, 0, 12, 0⟩) ∧
    decode 0xC006005B#32 = .ok (.hclr ⟨false, false, 0, 0, 12, 0⟩) ∧
    decode 0xE4000A5B#32 = .ok (.hhdr ⟨false, false, 2, 0, 0, 20⟩) ∧
    decode 0x0000105B#32 = .ok (.susp ⟨false, false, 0, 0, 0, 0⟩) ∧
    decode 0x2000105B#32 = .ok (.yield ⟨false, false, 0, 0, 0, 0⟩) ∧
    decode 0x406A105B#32 = .ok (.spawn ⟨false, false, 0, 6, 20, 0⟩) ∧
    decode 0x610015DB#32 = .ok (.join ⟨false, false, 0, 16, 0, 11⟩) ∧
    decode 0x8002905B#32 = .ok (.exit ⟨false, false, 0, 0, 5, 0⟩) ∧
    decode 0xC01622DB#32 = .ok (.gld 6 ⟨false, 1, 12, 5⟩) ∧
    decode 0xE025225B#32 = .ok (.gvld ⟨false, 2, 10, 4⟩) ∧
    decode 0x4074B1DB#32 = .ok (.gst 2 ⟨false, false, 0, 7, 9, 3⟩) ∧
    decode 0x842A30DB#32 = .ok (.gvst ⟨false, false, 2, 2, 20, 1⟩) ∧
    decode 0x035A465B#32 = .ok (.nmnew ⟨false, false, 1, 21, 20, 12⟩) ∧
    decode 0x220642DB#32 = .ok (.nmres ⟨false, false, 1, 0, 12, 5⟩) ∧
    decode 0x436643DB#32 = .ok (.nmcas ⟨false, false, 1, 22, 12, 7⟩) ∧
    decode 0x620643DB#32 = .ok (.nmkill ⟨false, false, 1, 0, 12, 7⟩) ∧
    decode 0x826642DB#32 = .ok (.nmld ⟨false, false, 1, 6, 12, 5⟩) ∧
    decode 0xA26643DB#32 = .ok (.nmst ⟨false, false, 1, 6, 12, 7⟩) ∧
    decode 0xC20642DB#32 = .ok (.nmstat ⟨false, false, 1, 0, 12, 5⟩) := by decide

/-- Words of custom-2, row by row of the opcode map (R62, R67 to R70); the manual prints 17 of them. -/
theorem test_decode_custom2_1 :
    decode 0x000652DB#32 = .ok (.twld ⟨false, false, 0, 0, 12, 5⟩) ∧
    decode 0x2066505B#32 = .ok (.twadd ⟨false, false, 0, 6, 12, 0⟩) ∧
    decode 0x4006505B#32 = .ok (.twset ⟨false, false, 0, 0, 12, 0⟩) ∧
    decode 0x6006505B#32 = .ok (.twarm ⟨false, false, 0, 0, 12, 0⟩) ∧
    decode 0x8006505B#32 = .ok (.twdis ⟨false, false, 0, 0, 12, 0⟩) ∧
    decode 0xA00652DB#32 = .ok (.twpred ⟨false, false, 0, 0, 12, 5⟩) ∧
    decode 0xC0B5505B#32 = .ok (.lawset ⟨false, false, 0, 11, 10, 0⟩) ∧
    decode 0xE00552DB#32 = .ok (.lawget ⟨false, false, 0, 0, 10, 5⟩) ∧
    decode 0x0004E05B#32 = .ok (.qbind ⟨false, false, 0, 0, 9, 0⟩) ∧
    decode 0x2000E2DB#32 = .ok (.qrd ⟨false, false, 0, 0, 1, 5⟩) ∧
    decode 0x4000625B#32 = .ok (.qrdv ⟨false, false, 0, 0, 0, 4⟩) ∧
    decode 0x6003605B#32 = .ok (.qstat ⟨false, false, 0, 0, 6, 0⟩) ∧
    decode 0x820662DB#32 = .ok (.waitv ⟨false, false, 1, 0, 12, 5⟩) ∧
    decode 0xA0B5605B#32 = .ok (.gpf ⟨false, false, 0, 11, 10, 0⟩) ∧
    decode 0xC0B5605B#32 = .ok (.mhint ⟨false, false, 0, 11, 10, 0⟩) ∧
    decode 0xE005635B#32 = .ok (.mqry ⟨false, false, 0, 0, 10, 6⟩) ∧
    decode 0x00B572DB#32 = .ok (.tbadv ⟨false, false, 0, 11, 10, 5⟩) := by decide

/-- Words of custom-3, row by row of the opcode map (R62, R67 to R70); the manual prints 15 of them. -/
theorem test_decode_custom3_0 :
    decode 0x00B502FB#32 = .ok (.amoAdd ⟨false, false, 0, 11, 10, 5⟩) ∧
    decode 0x2B56037B#32 = .ok (.amoMin ⟨false, true, 1, 21, 12, 6⟩) ∧
    decode 0x42B502FB#32 = .ok (.amoMax ⟨false, false, 1, 11, 10, 5⟩) ∧
    decode 0x7956037B#32 = .ok (.amoAnd ⟨true, true, 0, 21, 12, 6⟩) ∧
    decode 0x8156037B#32 = .ok (.amoOr ⟨false, false, 0, 21, 12, 6⟩) ∧
    decode 0xB156037B#32 = .ok (.amoXor ⟨true, false, 0, 21, 12, 6⟩) ∧
    decode 0xC2C5047B#32 = .ok (.amoSwap ⟨false, false, 1, 12, 10, 8⟩) ∧
    decode 0xE2C5047B#32 = .ok (.amocas ⟨false, false, 1, 12, 10, 8⟩) ∧
    decode 0x00B5107B#32 = .ok (.red ⟨false, false, 0, 11, 10, 0⟩) ∧
    decode 0x20B0107B#32 = .ok (.fen ⟨false, false, 0, 11, 0, 0⟩) ∧
    decode 0x4006907B#32 = .ok (.own ⟨false, false, 0, 0, 13, 0⟩) ∧
    decode 0x6006907B#32 = .ok (.ownw ⟨false, false, 0, 0, 13, 0⟩) ∧
    decode 0x0206207B#32 = .ok (.barjoin ⟨false, false, 1, 0, 12, 0⟩) ∧
    decode 0x2266207B#32 = .ok (.barinit ⟨false, false, 1, 6, 12, 0⟩) ∧
    decode 0x420622FB#32 = .ok (.bararr ⟨false, false, 1, 0, 12, 5⟩) ∧
    decode 0x62E622FB#32 = .ok (.barwait ⟨false, false, 1, 14, 12, 5⟩) ∧
    decode 0x820622FB#32 = .ok (.baraw ⟨false, false, 1, 0, 12, 5⟩) ∧
    decode 0xA20622FB#32 = .ok (.bardrop ⟨false, false, 1, 0, 12, 5⟩) ∧
    decode 0xC206207B#32 = .ok (.barinv ⟨false, false, 1, 0, 12, 0⟩) ∧
    decode 0xE0C5A2FB#32 = .ok (.grp ⟨false, false, 0, 12, 11, 5⟩) ∧
    decode 0x1B56337B#32 = .ok (.fadd ⟨true, true, 1, 21, 12, 6⟩) ∧
    decode 0x2356337B#32 = .ok (.fsub ⟨false, false, 1, 21, 12, 6⟩) ∧
    decode 0x5356337B#32 = .ok (.fmul ⟨true, false, 1, 21, 12, 6⟩) ∧
    decode 0x6B56337B#32 = .ok (.fma ⟨false, true, 1, 21, 12, 6⟩) := by decide

/-- Words of custom-3, row by row of the opcode map (R62, R67 to R70); the manual prints 1 of them. -/
theorem test_decode_custom3_1 :
    decode 0x9B56337B#32 = .ok (.fdiv ⟨true, true, 1, 21, 12, 6⟩) ∧
    decode 0xA206337B#32 = .ok (.fsqrt ⟨false, false, 1, 0, 12, 6⟩) ∧
    decode 0xD356337B#32 = .ok (.fmin ⟨true, false, 1, 21, 12, 6⟩) ∧
    decode 0xEB56337B#32 = .ok (.fmax ⟨false, true, 1, 21, 12, 6⟩) ∧
    decode 0x1B56437B#32 = .ok (.fcmp ⟨true, true, 1, 21, 12, 6⟩) ∧
    decode 0x2116437B#32 = .ok (.fcvt ⟨false, false, 0, 17, 12, 6⟩) ∧
    decode 0x487444FB#32 = .ok (.min ⟨false, true, 0, 7, 8, 9⟩) ∧
    decode 0x7356437B#32 = .ok (.max ⟨true, false, 1, 21, 12, 6⟩) ∧
    decode 0x8806437B#32 = .ok (.clz ⟨false, true, 0, 0, 12, 6⟩) ∧
    decode 0xA806437B#32 = .ok (.ctz ⟨false, true, 0, 0, 12, 6⟩) ∧
    decode 0xC006437B#32 = .ok (.cpop ⟨false, false, 0, 0, 12, 6⟩) ∧
    decode 0xF156437B#32 = .ok (.csel ⟨true, false, 0, 21, 12, 6⟩) ∧
    decode 0x2A5951FB#32 = .ok (.loopi true ⟨false, 165, 18, 3⟩) ∧
    decode 0x4A50507B#32 = .ok (.align ⟨false, 165, 0, 0⟩) ∧
    decode 0x6256537B#32 = .ok (.rolImm ⟨false, 37, 12, 6⟩) ∧
    decode 0x8256537B#32 = .ok (.rorImm ⟨false, 37, 12, 6⟩) ∧
    decode 0x0B2661FB#32 = .ok (.loop ⟨false, true, 1, 18, 12, 3⟩) ∧
    decode 0x3956637B#32 = .ok (.bfx ⟨true, true, 0, 21, 12, 6⟩) ∧
    decode 0x4156637B#32 = .ok (.bfi ⟨false, false, 0, 21, 12, 6⟩) ∧
    decode 0x7156637B#32 = .ok (.rol ⟨true, false, 0, 21, 12, 6⟩) ∧
    decode 0x8956637B#32 = .ok (.ror ⟨false, true, 0, 21, 12, 6⟩) := by decide

/-- Words that are no instruction: a compressed word, the longest encodings, a major that the base does not use, a field that must be 0, a code that
is not listed, a loop without a body, a reserved payload, and the variant of R73's `min` with w 11 (R60, R64, R66, R72, R73). -/
theorem test_decode_refuses :
    ([0x00000000, 0xFFFFFFFF, 0x0000006B, 0xE1F4100B, 0x8034200B, 0x0000507B, 0x467444FB, 0x7000700B, 0x0000002F].all fun w =>
      match decode w with | .refused _ => true | .ok _ => false) = true := by decide

/-! ### States that the tests share -/

/-- The hypotheses of a statement: the issuing slot passes the common checks with any sources, destinations, groups that are aligned, and
privilege up to its own, whether or not the instruction takes a format; and `p` holds as well. -/
def Meets (s : State) (p : Prop) : Prop :=
  (∀ srcs dsts groups format priv, (∀ g ∈ groups, g.1 % g.2 = 0) → priv ≤ s.sl.priv → Ready s srcs dsts groups format priv) ∧ p

theorem meets {s : State} {p : Prop} (hb : s.sl.blocked = false) (hp : s.sl.pp = false) (hx : s.sl.xm = []) (hv : s.sl.vm = []) (h : p) :
    Meets s p := by
  have full : ∀ vec r, s.sl.mark vec r = .full := by
    intro vec r
    simp [Slot.mark, Slot.vmark, Slot.xmark, hx, hv, Tab.get]
  exact ⟨fun srcs dsts groups format priv hg hq => ⟨hb, hg, Or.inr hp, hq, fun x _ i _ => full _ _, fun d _ i _ => by simp [full]⟩, h⟩

/-- The same of an instruction that takes a format, in a state with a prefix pending. -/
def MeetsF (s : State) (p : Prop) : Prop :=
  (∀ srcs dsts groups, (∀ g ∈ groups, g.1 % g.2 = 0) → Ready s srcs dsts groups true) ∧ s.sl.pp = true ∧ p

theorem meetsF {s : State} {p : Prop} (hb : s.sl.blocked = false) (hx : s.sl.xm = []) (hv : s.sl.vm = []) (hp : s.sl.pp = true) (h : p) :
    MeetsF s p := by
  have full : ∀ vec r, s.sl.mark vec r = .full := by
    intro vec r
    simp [Slot.mark, Slot.vmark, Slot.xmark, hx, hv, Tab.get]
  exact ⟨fun srcs dsts groups hg => ⟨hb, hg, Or.inl rfl, Nat.zero_le _, fun x _ i _ => full _ _, fun d _ i _ => by simp [full]⟩, hp, h⟩

/-- A running slot in a code region of 4,096 bytes. -/
def tSlot : Slot :=
  { phase := .running, pc := 0x1040, kpath := 0x77, kseq := 3,
    clause := { launch := 1, codeBase := 0x1000, codeSize := 0x1000 },
    x := [(5, 7), (6, -1), (7, 0x8000000000000000), (8, 2), (9, 0x0804), (10, 0xF00000000100), (11, 0x200040), (12, 0xF00001000000),
          (13, 0xABCD), (14, 0xF00001000080), (15, 1), (16, 0x210000), (17, 0x220000), (18, 63), (19, 0x10000)],
    v := [(1, 0x00000002FFFFFFFF), (2, 0x0000000100000003), (3, 0x3F80000040000000)] }

/-- A leaf that may be read and written, of frame `f` on this package, with attribute bits. -/
def tLeaf (f attrs : Nat) : Word := word (1 + 2 ^ 6 + 2 ^ 7 + 2 ^ 8 + attrs + f * 65536)

/-- Core 0 with one context, and leaves for pages 0x20 (plain), 0x21 (tensed) and 0x22 (SYNC_OBJECT). -/
def tCore : Core :=
  { ctxs := [(0, { assigned := true, launch := 1, codeBase := 0x1000, codeSize := 0x1000 })],
    tlb := [(0, 0, 0x20, tLeaf 0x20 0), (0, 0, 0x21, tLeaf 0x21 (2 ^ 11)), (0, 0, 0x22, tLeaf 0x22 (2 ^ 10))] }

/-- A package whose slot 0 runs a clause of launch 1, in a partition of cluster 0. -/
def tState (f : Slot → Slot := id) : State :=
  { State.reset with slots := [(0, f tSlot)], cores := [(0, tCore)], hub := { launches := [(1, { state := 2, live := 1 })], nextLaunch := 2, parts := [(512, { ctxs := [(0, 0)] })] } }

/-- The tables of context 0 in pages 0x23 to 0x25: records, family entries and registrations. -/
def tEntries (s : State) : State :=
  (((s.modCore 0 fun k => { k with tlb := k.tlb ++ [(0, 0, 0x23, tLeaf 0x23 0), (0, 0, 0x24, tLeaf 0x24 0), (0, 0, 0x25, tLeaf 0x25 0)] }).modCtx 0 0
    fun c => { c with recBase := 0x230000, famBase := 0x240000, regBase := 0x250000 }).setDpit 0x23 (2 ^ 63 + 0x23)).setDpit 0x24 (2 ^ 63 + 0x24)
      |>.setDpit 0x25 (2 ^ 63 + 0x25)

/-- The same with a prefix pending. -/
def tPrefix (p : BitVec 17) : State := tState fun sl => { sl with kpfx := p, kstat := 8 }

/-- K-format operands without empty actions. -/
def tK (w : BitVec 2) (rs2 rs1 rd : Reg) : KOps := ⟨false, false, w, rs2, rs1, rd⟩

/-- The next state of an instruction. -/
def after (i : Instr) (s : State) : State :=
  match exec i s with
  | .next t => t
  | _ => s

/-! ### Base instructions, loops and traps -/

/-- `RegistersReadWhatWasWritten`: a register other than x0, and another one beside it. -/
theorem test_registers : (tSlot.setX 5 9).xr 5 = 9 ∧ (tSlot.setX 5 9).xr 6 = -1 ∧ (tSlot.setX 0 9).xr 0 = 0 ∧
    (tSlot.setV 1 9).vr 1 = 9 ∧ (tSlot.setV 1 9).vr 2 = 0x0000000100000003 := by decide +kernel

/-- `CompletionFollowsTheLoopRule`: loop 1 branches back; loop 1 ends and loop 0 branches back; both end (R87). -/
theorem test_loop_ends :
    ({ tSlot with kloop1 := 2, kls1 := 0x1030, kle1 := 0x1040 } : Slot).complete.pc = 0x1030 ∧
    ({ tSlot with kloop1 := 1, kle1 := 0x1040, kloop0 := 3, kls0 := 0x1020, kle0 := 0x1040 } : Slot).complete.pc = 0x1020 ∧
    ({ tSlot with kloop1 := 1, kle1 := 0x1040, kloop0 := 1, kle0 := 0x1040 } : Slot).complete.pc = 0x1044 ∧
    ({ tSlot with kloop1 := 1, kle1 := 0x1040, kloop0 := 3, kls0 := 0x1020, kle0 := 0x1040 } : Slot).complete.kloop0 = 2 ∧
    ({ tSlot with kloop1 := 2, kls1 := 0x1044, kle1 := 0x1040, kloop0 := 3, kls0 := 0x1020, kle0 := 0x1040 } : Slot).complete.pc = 0x1020 := by decide +kernel

/-- `JumpsAndWritesAtLoopEnds`: `csrrw` of `kloop0`. -/
theorem test_loop_write : Meets (tState id) (0x802 ≤ (0x802#12).toNat ∧ (0x802#12).toNat ≤ 0x807 ∧ (tState id).csr 0x802 = some 0) :=
  meets rfl rfl rfl rfl (by decide +kernel)

/-- `TrapReportGoesToItsHandler`: a VALID handler at channel 255, and none (R98). -/
theorem test_trap_goes_to_handler :
    let s := (tState id).modCtx 0 0 fun c => { c with chans := [(255, { entry := 2 ^ 36 })] }
    clauseMayHandle 0x12 false = true ∧ bit ((s.ctx 0 0).chans.get 255 {}).entry 36 = true ∧ bit ((s.ctx 0 0).chans.get 255 {}).entry 39 = false ∧
    (s.slot 0).priv = 0 ∧ (s.slot 0).phase ≠ .frozen ∧ (s.sendReport 0 0x12 false [1]).net.length = 1 := by decide +kernel
theorem test_trap_goes_to_ring : clauseMayHandle 0x12 false = true ∧ bit (((tState id).ctx 0 0).chans.get 255 {}).entry 36 = false ∧
    ringFull (tState id).hub.ktrapHead (tState id).hub.ktrapTail 4096 = false ∧ ((tState id).sendReport 0 0x12 false [1]).hub.ktrapTail = 1 := by decide +kernel

/-- `BaseAluResults`, `MultiplyDivideResults`: operands of each clause; the corners of division (R76). -/
theorem test_alu : Meets (tState id) (let s := tState id
    (after (.baseAlu (.op .sub 20 5 6)) s).sl.xr 20 = 8 ∧ (after (.baseAlu (.op .slt 20 6 5)) s).sl.xr 20 = 1 ∧
    (after (.baseAlu (.op .sltu 20 6 5)) s).sl.xr 20 = 0 ∧ (after (.baseAlu (.shiftImmW .sra 20 7 1)) s).sl.xr 20 = 0 ∧
    (after (.baseAlu (.shiftImm .sra 20 7 63)) s).sl.xr 20 = -1 ∧ (after (.baseAlu (.auipc 20 1)) s).sl.xr 20 = 0x2040 ∧
    (after (.baseAlu (.addiw 20 6 0)) s).sl.xr 20 = -1) := meets rfl rfl rfl rfl (by decide +kernel)
theorem test_divide : Meets (tState id) (let s := tState id
    s.sl.xr 5 ≠ 0 ∧ s.sl.xr 1 = 0 ∧ s.sl.xr 7 = BitVec.intMin 64 ∧ s.sl.xr 6 = -1 ∧ (s.sl.xr 6).setWidth 32 ≠ (0 : BitVec 32) ∧
    (s.sl.xr 7).setWidth 32 = (0 : BitVec 32) ∧
    (after (.baseMulDiv .div 20 7 6) s).sl.xr 20 = 0x8000000000000000 ∧ (after (.baseMulDiv .rem 20 7 6) s).sl.xr 20 = 0 ∧
    (after (.baseMulDiv .div 20 5 1) s).sl.xr 20 = -1 ∧ (after (.baseMulDiv .remu 20 5 1) s).sl.xr 20 = 7 ∧
    (after (.baseMulDiv .div 20 6 8) s).sl.xr 20 = 0 ∧ (after (.baseMulDiv .mulhu 20 6 6) s).sl.xr 20 = -2) := meets rfl rfl rfl rfl (by decide +kernel)

/-- `BranchesAndJumpsTransfer`: taken, not taken, misaligned, and outside the code region (R79). -/
theorem test_branches : Meets (tState id) (let s := tState id
    s.sl.xr 5 ≠ s.sl.xr 6 ∧ (s.sl.pc + ((4#12 ++ (0 : BitVec 1)).signExtend 64)).toNat % 4 = 0 ∧
    (s.sl.pc + ((3#12 ++ (0 : BitVec 1)).signExtend 64)).toNat % 4 ≠ 0 ∧
    (after (.baseBranch .bne 5 6 4) s).sl.pc = 0x1048 ∧ (after (.baseBranch .beq 5 6 4) s).sl.pc = 0x1044 ∧
    (after (.baseBranch .bne 5 6 3) s).sl.kcause = 0x15 ∧ (after (.baseBranch .bne 5 6 3) s).sl.kaddr = 0x1046 ∧
    (after (.jal 1 0xFFFFE) s).sl.pc = 0x103C ∧ (after (.jal 1 0xFFFFE) s).sl.xr 1 = 0x1044 ∧
    (after (.jalr 0 5 1) s).sl.pc = 8 ∧ (after (.jalr 1 15 1) s).sl.kcause = 0x15) := meets rfl rfl rfl rfl (by decide +kernel)
theorem test_fetch_bounds :
    let u := tState fun sl => { sl with pc := 0x2000 }
    (u.slot 0).clause.codeBase.toNat + (u.slot 0).clause.codeSize ≤ (u.slot 0).pc.toNat ∧
    (match u.takeWord 0 with | .inl t => (t.slot 0).kcause == 0x10 | .inr _ => false) = true := by decide +kernel

/-- `NearLoadsAndStores`: the operand store; a misaligned address; an address above bit 47 (R77, R78, R198). -/
theorem test_near_loads : Meets (tState id) (let s := tState id
    Unfenced s ∧ s.access 0 .read (s.sl.xr 10) 8 = .ok (.near (.operand (operandAddr 0 0x100))) ∧
    s.nearError (.operand (operandAddr 0 0x100)) 8 = none ∧ s.access 0 .write (s.sl.xr 10) 8 = .ok (.near (.operand (operandAddr 0 0x100))) ∧
    s.storeReady 0 (.operand (operandAddr 0 0x100)) 8 = true ∧ (s.sl.xr 10 + 1).toNat % 2 ≠ 0 ∧ fld (s.sl.xr 7) 48 16 ≠ 0 ∧
    (after (.baseLoad .lb 20 10 0) (after (.baseStore .sb 10 6 0) s)).sl.xr 20 = -1 ∧
    (after (.baseLoad .lhu 20 10 0) (after (.baseStore .sb 10 6 0) s)).sl.xr 20 = 0xFF ∧
    (after (.baseLoad .lh 20 10 1) s).sl.kcause = 0x14 ∧ (after (.baseLoad .ld 20 7 0) s).sl.kcause = 0x53) := meets rfl rfl rfl rfl (by unfold Unfenced; decide +kernel)

/-- `FarLoadsAndStores`: a page of this package (R199). -/
theorem test_far_loads : Meets (tState id) (let s := tState id
    s.isMgmt = false ∧ Unfenced s ∧ s.sl.farRoom 1 = true ∧ (s.sl.xr 11).toNat % 8 = 0 ∧
    s.access 0 .read (s.sl.xr 11) 8 = .ok (.far 0x200040 (homeOf 0 0x200040) 0 (tLeaf 0x20 0).toNat) ∧
    s.access 0 .write (s.sl.xr 11) 8 = .ok (.far 0x200040 (homeOf 0 0x200040) 0 (tLeaf 0x20 0).toNat) ∧
    (after (.baseLoad .ld 20 11 0) s).net.length = 1 ∧ (after (.baseLoad .ld 20 11 0) s).sl.pc = 0x1040) :=
  meets rfl rfl rfl rfl (by unfold Unfenced; decide +kernel)

/-- `EnvironmentWordsTrap`: with and without halting on breaks; `fence` with nothing out and with a store out (R61, R80, R431). -/
theorem test_environment : Meets (tState id) (let s := tState id
    bit (s.debug (clusterOf s.curCore)).ctl 8 = false ∧ Unfenced s ∧ s.sl.far = [] ∧ s.sl.fwd = [] ∧
    (after .ecall s).sl.kcause = 0x12 ∧ (after .ebreak s).sl.kcause = 0x13 ∧ (after (.illegalEncoding 0x6B) s).sl.kaddr = 0x6B) :=
  meets rfl rfl rfl rfl (by unfold Unfenced; decide +kernel)
theorem test_break_halts : Meets ((tState id).modCluster 0 fun c => { c with dbg := { c.dbg with ctl := 2 ^ 8 } })
    (let s := (tState id).modCluster 0 fun c => { c with dbg := { c.dbg with ctl := 2 ^ 8 } }
     bit (s.debug (clusterOf s.curCore)).ctl 8 = true ∧ (after .ebreak s).sl.pc = 0x1044) := meets rfl rfl rfl rfl (by decide +kernel)
theorem test_fence_waits : Meets (tState fun sl => { sl with fwd := [{ addr := 128, bytes := [1] }] })
    (let s := tState fun sl => { sl with fwd := [{ addr := 128, bytes := [1] }] }
     s.released s.cur 2 = false ∧ (after (.baseFence 0 0 0) s).sl.pc = 0x1040) := meets rfl rfl rfl rfl (by decide +kernel)

/-- `ControlRegisterForms`, `UnknownControlRegisterTraps`: a register that is written, one that is read only, and none (R81). -/
theorem test_control_registers : Meets (tState id) (let s := tState id
    s.csr 0x801 = some 0 ∧ s.csr 0xCCC = some 0x77 ∧ 0x807 < (0xCCC#12).toNat ∧ (0xC00#12).toNat < 0xCC0 ∧
    (after (.zicsr .csrrw 20 5 0x801) s).sl.kprog = 7 ∧ (after (.zicsr .csrrs 20 0 0xCCC) s).sl.xr 20 = 0x77 ∧
    (after (.zicsr .csrrw 20 5 0xCCC) s).sl.kcause = 0x16 ∧ (after (.zicsr .csrrs 20 1 0xCCC) s).sl.kcause = 0x16 ∧
    (after (.zicsr .csrrs 20 0 0xC00) s).sl.kaddr = 0xC00 ∧ (after (.zicsr .csrrw 0 6 0x800) s).sl.kstat = 0x1F0000) := meets rfl rfl rfl rfl (by decide +kernel)

/-- `ScalarExtras`: both orders of the compares, both ranges of a field, and the example of R85. -/
theorem test_scalar_extras : Meets (tState id) (let s := tState id
    (s.sl.xr 6).toInt ≤ (s.sl.xr 5).toInt ∧ ¬ (s.sl.xr 6).toNat ≤ (s.sl.xr 5).toNat ∧ s.sl.xr 15 ≠ 0 ∧ s.sl.xr 20 = 0 ∧
    (after (.bfx (tK 0 9 13 20)) s).sl.xr 20 = 0xBC ∧ (after (.bfi (tK 0 9 13 20)) s).sl.xr 20 = 0xCD0 ∧
    (after (.bfx (tK 0 5 13 20)) s).sl.kcause = 0x18 ∧ (after (.min (tK 0 5 6 20)) s).sl.xr 20 = -1 ∧ (after (.min (tK 1 5 6 20)) s).sl.xr 20 = 7 ∧
    (after (.clz (tK 0 0 5 20)) s).sl.xr 20 = 61 ∧ (after (.ctz (tK 0 0 1 20)) s).sl.xr 20 = 64 ∧ (after (.cpop (tK 0 0 13 20)) s).sl.xr 20 = 10 ∧
    (after (.csel (tK 0 6 5 15)) s).sl.xr 15 = 7 ∧ (after (.csel (tK 0 6 5 20)) s).sl.xr 20 = -1 ∧
    (after (.rol (tK 0 15 7 20)) s).sl.xr 20 = 1 ∧ (after (.rorImm ⟨false, 1, 15, 20⟩) s).sl.xr 20 = 0x8000000000000000) := meets rfl rfl rfl rfl (by decide +kernel)

/-- `LoopsStartOrSkip`: a loop that starts, one that is skipped, one that is refused (R86). -/
theorem test_loops : Meets (tState id) (let s := tState id
    s.sl.kloop1 = 0 ∧ s.sl.kloop0 = 0 ∧ s.sl.pc.toNat + 4 * bodyLength 0 3 < s.sl.clause.codeBase.toNat + s.sl.clause.codeSize ∧
    s.sl.clause.codeBase.toNat + s.sl.clause.codeSize ≤ s.sl.pc.toNat + 4 * bodyLength 31 31 ∧
    (after (.loopi false ⟨false, 9, 3, 0⟩) s).sl.kle0 = 0x104C ∧ (after (.loopi false ⟨false, 9, 3, 0⟩) s).sl.kloop0 = 9 ∧
    (after (.loopi true ⟨false, 0, 3, 0⟩) s).sl.pc = 0x1050 ∧ (after (.loop (tK 1 3 5 0)) s).sl.kls1 = 0x1044 ∧
    (after (.loopi false ⟨false, 9, 31, 31⟩) s).sl.kcause = 0x17) := meets rfl rfl rfl rfl (by decide +kernel)
theorem test_inner_loop : Meets (tState fun sl => { sl with kloop0 := 2, kls0 := 0x1044, kle0 := 0x1060 })
    (let s := tState fun sl => { sl with kloop0 := 2, kls0 := 0x1044, kle0 := 0x1060 }
     s.sl.kls0.toNat ≤ s.sl.pc.toNat + 4 ∧ s.sl.pc.toNat + 4 * bodyLength 0 8 ≤ s.sl.kle0.toNat ∧
     (after (.loopi true ⟨false, 9, 8, 0⟩) s).sl.kloop1 = 9 ∧ (after (.loopi true ⟨false, 9, 9, 0⟩) s).sl.kcause = 0x17) := meets rfl rfl rfl rfl (by decide +kernel)

/-- `AlignHoldsAndReleases`: alone in its cluster, beside a clause that is elsewhere, and after its time (R94). -/
theorem test_align :
    let s := tState id
    let u := { s with slots := [(0, { tSlot with wait := .align 0 15, cycles := 1024 }), (4, { tSlot with pc := 0x1100 })] }
    let v := { u with slots := [(0, { tSlot with wait := .align 0 15, cycles := 1023 }), (4, { tSlot with pc := 0x1100 })] }
    (∀ a b, s.sl.wait ≠ .align a b) ∧ (s.modCur fun sl => { sl with wait := .align sl.cycles 15 }).alignMet 0 s.sl.pc 1 = true ∧
    u.alignMet 0 0x1040 1 = false ∧ u.stopped 0 = false ∧ 0 + 64 * (15 + 1) ≤ (u.slot 0).cycles ∧
    (after (.alignRelease 0) u).sl.pc = 0x1044 ∧ (after (.alignRelease 0) v).sl.pc = 0x1040 ∧
    (after (.alignRelease 0) (after (.align ⟨false, 15, 0, 0⟩) s)).sl.pc = 0x1044 := by
  intro s u v
  exact ⟨fun a b h => (nomatch (show Wait.none = Wait.align a b from h)), by decide +kernel⟩

/-! ### Floating point and lanes -/

/-- A register of equal lanes of 32 bits, and one of lanes of 64 bits. -/
def tLanes32 (l : List Nat) : VWord := ofLanes 32 l
def tLanes64 (l : List Nat) : VWord := ofLanes 64 l

/-- `ScalarFloatResults`: 1.5 + 2.5 in FP32, 1 / 0, the relation of 1.5 and 2.5, and a conversion of -1.5 to `i32` (R89 to R91). -/
def tFloats : State := tState fun sl => { sl with x := [(5, 0x3FC00000), (6, 0x40200000), (7, 0xBFC00000)] }
theorem test_scalar_floats : Meets tFloats (let s := tFloats
    payPlain s.sl.payload = true ∧ (after (.fadd (tK 0 6 5 20)) s).sl.xr 20 = 0x40800000 ∧ (after (.fdiv (tK 0 0 5 20)) s).sl.xr 20 = 0x7F800000 ∧
    (after (.fdiv (tK 0 0 5 20)) s).sl.flags = 8 ∧ (after (.fcmp (tK 0 6 5 20)) s).sl.xr 20 = 1 ∧
    (after (.fcvt (tK 0 6 7 20)) s).sl.xr 20 = -2 ∧ (after (.fcvt (tK 0 6 7 20)) s).sl.flags = 1 ∧
    (after (.fma (tK 0 6 5 20)) s).sl.xr 20 = 0x40700000 ∧ (after (.fsqrt (tK 0 0 7 20)) s).sl.xr 20 = 0x7FC00000 ∧
    (after (.fmin (tK 0 6 5 20)) s).sl.xr 20 = 0x3FC00000 ∧ (after (.fmul (tK 0 6 5 20)) s).sl.xr 20 = 0x40700000 ∧
    (after (.fsub (tK 0 6 5 20)) s).sl.xr 20 = 0xBF800000) := meets rfl rfl rfl rfl (by decide +kernel)

/-- The same under a prefix that rounds toward 0 with saturation; and a payload that names an element format (R164, R175). -/
def tFloatsZ : State := tState fun sl => { sl with x := [(5, 0x3FC00000), (7, 0xBFC00000)], kstat := 8, kpfx := 3 }
theorem test_scalar_floats_prefix : MeetsF tFloatsZ (payPlain tFloatsZ.sl.payload = true ∧ (after (.fcvt (tK 0 6 7 20)) tFloatsZ).sl.xr 20 = -1) :=
  meetsF rfl rfl rfl rfl (by decide +kernel)
theorem test_payload_refused : MeetsF (tPrefix 0x2000) (payPlain (tPrefix 0x2000).sl.payload = false ∧
    (after (.fadd (tK 0 6 5 20)) (tPrefix 0x2000)).sl.kcause = 0x28) := meetsF rfl rfl rfl rfl (by decide +kernel)

/-- `VectorFloatResults`: lanes of FP32 without and with a prefix (R138, R139). -/
def tVecs : State := tState fun sl => { sl with v := [(1, tLanes32 [0x3F800000, 0x40000000, 0xBF800000, 0]), (2, tLanes32 [0x40000000, 0x3F800000, 0x7F800000]),
  (3, tLanes32 [0x40400000])] }
theorem test_vector_floats : Meets tVecs (let s := tVecs
    payPlain s.sl.payload = true ∧ lane 32 ((after (.vaddF (tK 0 2 1 20)) s).sl.vr 20) 0 = 0x40400000 ∧
    lane 32 ((after (.vmulF (tK 0 2 1 20)) s).sl.vr 20) 2 = 0xFF800000 ∧ lane 32 ((after (.vfma (tK 0 2 1 3)) s).sl.vr 3) 0 = 0x40A00000 ∧
    lane 32 ((after (.vfms (tK 0 2 1 3)) s).sl.vr 3) 0 = 0xBF800000 ∧ lane 32 ((after (.vrcp (tK 0 1 1 20)) s).sl.vr 20) 1 = 0x3F000000 ∧
    lane 32 ((after (.vabsF (tK 0 0 1 20)) s).sl.vr 20) 2 = 0x3F800000 ∧ lane 32 ((after (.vexp2 (tK 0 3 1 20)) s).sl.vr 20) 1 = 0x40800000 ∧
    lane 32 ((after (.vlog2 (tK 0 4 1 20)) s).sl.vr 20) 1 = 0x3F800000 ∧ lane 32 ((after (.vrsq (tK 0 2 1 20)) s).sl.vr 20) 3 = 0x7F800000 ∧
    lane 32 ((after (.vminF (tK 0 2 1 20)) s).sl.vr 20) 0 = 0x3F800000 ∧ lane 32 ((after (.vmaxF (tK 0 2 1 20)) s).sl.vr 20) 0 = 0x40000000 ∧
    lane 32 ((after (.vsubF (tK 0 2 1 20)) s).sl.vr 20) 0 = 0xBF800000) := meets rfl rfl rfl rfl (by decide +kernel)

/-- `VectorIntegerResults`, `VectorCompareResults`: bytes that wrap, the most negative byte, shifts by more than the width (R140, R141). -/
def tBytes : State := tState fun sl => { sl with v := [(1, 0x80FF7F01), (2, 0x010901FF)] }
theorem test_vector_integers : Meets tBytes (let s := tBytes
    lane 8 ((after (.vaddI (tK 0 2 1 20)) s).sl.vr 20) 0 = 0 ∧ lane 8 ((after (.vabsI (tK 0 0 1 20)) s).sl.vr 20) 3 = 0x80 ∧
    lane 8 ((after (.vminI (tK 0 2 1 20)) s).sl.vr 20) 0 = 0xFF ∧ lane 8 ((after (.vminN (tK 0 2 1 20)) s).sl.vr 20) 0 = 1 ∧
    lane 8 ((after (.vmaxI (tK 0 2 1 20)) s).sl.vr 20) 0 = 1 ∧ lane 8 ((after (.vmaxN (tK 0 2 1 20)) s).sl.vr 20) 0 = 0xFF ∧
    lane 8 ((after (.vshl (tK 0 2 1 20)) s).sl.vr 20) 2 = 0xFE ∧ lane 8 ((after (.vsra (tK 0 2 1 20)) s).sl.vr 20) 2 = 0xFF ∧
    lane 8 ((after (.vshr (tK 0 2 1 20)) s).sl.vr 20) 3 = 0x40 ∧ lane 8 ((after (.vmulI (tK 0 2 1 20)) s).sl.vr 20) 0 = 0xFF ∧
    lane 8 ((after (.vsubI (tK 0 2 1 20)) s).sl.vr 20) 0 = 2) := meets rfl rfl rfl rfl (by decide +kernel)
theorem test_vector_compares : Meets tBytes (let s := tBytes
    lane 8 ((after (.vcmpLtI (tK 0 2 1 20)) s).sl.vr 20) 0 = 0 ∧ lane 8 ((after (.vcmpLtN (tK 0 2 1 20)) s).sl.vr 20) 0 = 0xFF ∧
    lane 8 ((after (.vcmpEqI (tK 0 2 1 20)) s).sl.vr 20) 4 = 0xFF ∧ lane 8 ((after (.vcmpNeI (tK 0 2 1 20)) s).sl.vr 20) 4 = 0 ∧
    lane 8 ((after (.vcmpLeI (tK 0 2 1 20)) s).sl.vr 20) 4 = 0xFF ∧ lane 8 ((after (.vcmpLeN (tK 0 2 1 20)) s).sl.vr 20) 0 = 0xFF ∧
    lane 32 ((after (.vcmpLtF (tK 0 2 1 20)) s).sl.vr 20) 0 = 2 ^ 32 - 1 ∧ lane 32 ((after (.vcmpLeF (tK 0 2 1 20)) s).sl.vr 20) 1 = 2 ^ 32 - 1 ∧
    lane 32 ((after (.vcmpEqF (tK 0 2 1 20)) s).sl.vr 20) 0 = 0 ∧ lane 32 ((after (.vcmpNeF (tK 0 2 1 20)) s).sl.vr 20) 0 = 2 ^ 32 - 1) :=
  meets rfl rfl rfl rfl (by decide +kernel)

/-- `LaneWordsRefuseAPrefix`, `RankingsRefuseAPrefix`: a pending prefix before an integer lane word, a group and a reduction (R66). -/
theorem test_prefix_misuse : (tPrefix 0).sl.blocked = false ∧ (tPrefix 0).sl.pp = true ∧ (2#5).toNat % 2 ^ (1#2).toNat = 0 ∧
    (after (.vaddI (tK 0 2 1 20)) (tPrefix 0)).sl.kcause = 2 ∧ (after (.vand (tK 1 2 4 20)) (tPrefix 0)).sl.kcause = 2 ∧
    (after (.vredF (tK 0 0 1 20)) (tPrefix 0)).sl.kcause = 2 := by decide +kernel

/-- `VectorLogicResults`: a group of two, and a group register that is odd (R142). -/
theorem test_vector_logic : Meets tBytes (let s := tBytes
    (after (.vand (tK 0 2 1 20)) s).sl.vr 20 = 0x00090101 ∧ (after (.vor (tK 1 2 0 20)) s).sl.vr 21 = 0x80FF7F01 ∧
    (after (.vxor (tK 0 2 1 20)) s).sl.vr 20 = 0x81F67EFE ∧ (after (.vsel (tK 0 1 2 1)) s).sl.vr 1 = 0x00090101 ∧
    (1#5).toNat % 2 ^ (1#2).toNat ≠ 0 ∧ (after (.vand (tK 1 2 1 20)) s).sl.kcause = 1) := meets rfl rfl rfl rfl (by decide +kernel)

/-- `LaneMoveResults`: an index in range and one that is not (R143). -/
theorem test_lane_moves : Meets tBytes (let s := tBytes
    (s.sl.xr 8).toNat < 512 / 8 ∧ 512 / 64 ≤ (s.sl.xr 18).toNat ∧ (after (.vext (tK 0 8 1 20)) s).sl.xr 20 = 0xFF ∧
    (after (.vext (tK 3 18 1 20)) s).sl.kcause = 0x21 ∧ lane 8 ((after (.vins (tK 0 8 5 1)) s).sl.vr 1) 2 = 7 ∧
    (after (.vins (tK 3 18 5 1)) s).sl.kaddr = 63 ∧ lane 8 ((after (.vperm (tK 0 2 1 20)) s).sl.vr 20) 0 = 0 ∧
    lane 8 ((after (.vperm (tK 0 2 1 20)) s).sl.vr 20) 1 = 0x7F ∧ lane 16 ((after (.vbcast (tK 1 0 5 20)) s).sl.vr 20) 31 = 7 ∧
    lane 64 ((after (.viota (tK 3 0 5 20)) s).sl.vr 20) 7 = 14) := meets rfl rfl rfl rfl (by decide +kernel)

/-- `ReductionResults`: each operation code, and the example of R144. -/
theorem test_reductions : Meets tBytes (let s := tBytes
    (after (.vredI (tK 0 0 1 20)) s).sl.xr 20 = -1 ∧ (after (.vredI (tK 0 1 1 20)) s).sl.xr 20 = -128 ∧ (after (.vredI (tK 0 2 1 20)) s).sl.xr 20 = 127 ∧
    (after (.vredI (tK 0 3 1 20)) s).sl.xr 20 = 0 ∧ (after (.vredI (tK 0 4 1 20)) s).sl.xr 20 = 255) := meets rfl rfl rfl rfl (by decide +kernel)
theorem test_tree_sum :
    let s := tState fun sl => { sl with v := [(8, tLanes32 (0x4B800000 :: List.replicate 15 0x3F800000))] }
    (after (.vredF (tK 0 0 8 5)) s).sl.xr 5 = 0x4B800007 ∧ (after (.vredF (tK 0 0 8 5)) s).sl.flags = 1 := by decide +kernel

/-- `TopkRanksTheLanes`: the example of R146. -/
def tTopk : State := tState fun sl => { sl with
  v := [(4, tLanes64 [0x4008000000000000, 0x7FF8000000000000, 0xFFF0000000000000, 0x4008000000000000, 0x8000000000000000, 0, 0x4016000000000000,
          0xFFF8000000000000]), (5, tLanes64 [40, 12, 7, 19, 3, 3, 100, 2])] }
theorem test_topk : Meets tTopk (lanes 64 ((after (.vtopk (tK 3 5 4 12)) tTopk).sl.vr 12) = [6, 3, 0, 5, 4, 2, 7, 1]) :=
  meets rfl rfl rfl rfl (by decide +kernel)

/-- `ConversionResults`: `vcvt` f16 from f32, `fmt`, the shared scale of a row whose largest value is 6, and its application (R168 to R172). -/
theorem test_conversions : Meets tVecs (let s := tVecs
    payPlain s.sl.payload = true ∧ (s.sl.xr 15).toNat < 256 ∧ 256 ≤ (s.sl.xr 6).toNat ∧ (after (.fmt 0xCC21) s).sl.kpfx = 0xCC21 ∧
    (after (.fmt 0xCC21) s).sl.pp = true ∧ (after (.vsclApply (tK 0 6 1 20)) s).sl.kcause = 0x29 ∧
    lane 32 ((after (.vsclApply (tK 0 21 1 20)) (s.modCur fun sl => { sl with x := [(21, 128)] })).sl.vr 20) 0 = 0x40000000) :=
  meets rfl rfl rfl rfl (by decide +kernel)
theorem test_shared_scale :
    let s := tState fun sl => { sl with v := [(2, tLanes32 [0x40C00000])], kstat := 8, kpfx := 0xC020 }
    MeetsF s (payA s.sl.payload = 6 ∧ payB s.sl.payload = 0 ∧ payAcc s.sl.payload = 0 ∧ payScale s.sl.payload = 1 ∧ payG s.sl.payload = 0 ∧
      (after (.vsclCompute (tK 1 0 2 20)) s).sl.xr 20 = 127) := meetsF rfl rfl rfl rfl (by decide +kernel)

/-- `PackAndUnpackResults`: the plain, MX and integer forms, and a shape that the payload does not allow (R167, R171 to R173). -/
theorem test_pack_plain :
    let s := tState fun sl => { sl with v := [(2, tLanes32 [0x3F800000, 0x40000000])], kstat := 8, kpfx := 0x4000 }
    MeetsF s (blockPayload s.sl.payload 2 0 = true ∧ payScale s.sl.payload = 0 ∧ blockPayload s.sl.payload 8 0 = false ∧
      lane 8 ((after (.vpack (tK 1 0 2 20)) s).sl.vr 20) 1 = 0x40 ∧ (after (.vpack (tK 3 0 0 20)) s).sl.kcause = 0x28) :=
  meetsF rfl rfl rfl rfl (by decide +kernel)
theorem test_pack_mx :
    let s := tState fun sl => { sl with v := [(2, tLanes32 [0x40C00000, 0x3F800000])], kstat := 8, kpfx := 0xC020 }
    MeetsF s (blockPayload s.sl.payload 2 0 = true ∧ payScale s.sl.payload = 1 ∧
      sharedScale ((List.range 16).map fun j => bitsOf (groupNum (s.sl.vs 2 1)) (32 * j) 32) (payA s.sl.payload) ≠ 255 ∧
      lane 4 ((after (.vpack (tK 1 0 2 20)) s).sl.vr 20) 0 = 7 ∧ bitsOf ((after (.vpack (tK 1 0 2 20)) s).sl.vr 20).toNat 504 8 = 127 ∧
      lane 32 ((after (.vunpk (tK 1 0 2 20)) (s.modCur fun sl => { sl with v := [(2, BitVec.ofNat 512 (7 + 128 * 2 ^ 504))] })).sl.vr 20) 0 = 0x41400000) :=
  meetsF rfl rfl rfl rfl (by decide +kernel)
theorem test_unpack_parameter :
    let s := tState fun sl => { sl with x := [(9, 2 ^ 30)], kstat := 8, kpfx := 0x14040 }
    MeetsF s (blockPayload s.sl.payload 2 9 = true ∧ payScale s.sl.payload = 2 ∧ paramOk (s.sl.xr 9) (elemWidth (payA s.sl.payload)) = false ∧
      (after (.vunpk (tK 1 9 2 20)) s).sl.kcause = 0x29) := meetsF rfl rfl rfl rfl (by decide +kernel)

/-! ### Memory, near and far accesses -/

/-- The value that a computation gives passes a test. -/
def passes {α : Type} (r : Res α) (p : α → Bool) : Bool :=
  match r with
  | .ok a => p a
  | _ => false

/-- The cause that a computation raises. -/
def raises {α : Type} (r : Res α) (c : Nat) : Bool :=
  match r with
  | .trap d _ => c == d
  | _ => false

/-- `MemoryReadsWhatWasWritten`: a well-formed memory; a byte that is written, one beside it, and a masked one. -/
theorem test_memory : Memory.wf [⟨8, 5⟩, ⟨9, 6⟩] = true ∧ memBytes (memWriteBytes [⟨8, 5⟩, ⟨9, 6⟩] 9 [7, 0]) 8 3 = [5, 7, 0] ∧
    memWriteBytes [⟨8, 5⟩, ⟨9, 6⟩] 9 [0] = [⟨8, 5⟩] ∧ memRead (memWriteMasked [⟨8, 5⟩] 8 2 [1, 2]) 8 = 5 ∧
    memReplace [⟨1, 5⟩, ⟨4, 2⟩, ⟨9, 6⟩] (fun b => if b = 3 then 7 else 0) 2 3 = [⟨1, 5⟩, ⟨3, 7⟩, ⟨9, 6⟩] := by decide +kernel

/-- Under CAPTURE a message from another package is recorded as a replay input (25_debug.md R442); one of this package is not. -/
theorem test_capture_fabric : let s := { State.reset with hub := { trace := { cfg := word (2 ^ 62) } } }
    let m : Msg := { srcChip := 1, payload := [7], launch := 4 }
    (s.captureFabric m).1.hub.trace.records.map (fun r => (r.headD 0).toNat % 256) = [6] ∧ (s.captureFabric m).2.ingress = some s.stamp ∧
    s.captureFabric { m with srcChip := s.hub.chipId } = (s, { m with srcChip := s.hub.chipId }) := by decide +kernel

/-- `NearStoreWritesItsBytes`, `ForwardingEntryReachesItsStripe`: the operand store, the own stripe, another stripe, and the entry that
then leaves the table (R196, R248). -/
theorem test_near_store : Memory.wf (tState id).mem = true ∧ (0 / 128 % 8 = (tState id).curCore % 8) ∧ (128 / 128 % 8 ≠ (tState id).curCore % 8) ∧
    (let t := after (.baseStore .sb 14 5 0) (tState id)
     t.mem = [] ∧ (t.slot 0).fwd = [{ addr := 128, bytes := [7] }] ∧ (after (.forwardingEntryWrite 0) t).mem = [⟨padAddr 0 128, 7⟩] ∧
     (after (.baseLoad .lb 20 14 0) t).sl.xr 20 = 7) ∧ (after (.baseStore .sb 12 5 0) (tState id)).mem = [⟨padAddr 0 0, 7⟩] := by decide +kernel

/-- `NearVectorAndPostedAccesses`: x10 plus 64 in the operand store, and addresses that are not aligned (R147, R206 to R208). -/
theorem test_near_vectors : Meets (tState id) (let s := tState id
    let t := Near.operand (operandAddr 0 0x140)
    Unfenced s ∧ s.access 0 .read (s.sl.xr 10 + 64) 64 = .ok (.near t) ∧ s.nearError t 64 = none ∧ s.access 0 .write (s.sl.xr 10 + 64) 64 = .ok (.near t) ∧
    s.storeReady 0 t 64 = true ∧ s.sl.far = [] ∧ s.sl.fwd = [] ∧ (s.sl.xr 5).toNat % 64 ≠ 0 ∧ (s.sl.xr 5).toNat % 2 ≠ 0 ∧
    (after (.vld ⟨false, 1, 10, 20⟩) (after (.vst ⟨false, 1, 10, 2⟩) s)).sl.vr 20 = 0x0000000100000003 ∧
    (after (.gvld ⟨false, 1, 10, 20⟩) (after (.gvst ⟨false, false, 2, 2, 10, 1⟩) s)).sl.kcause = 0 ∧
    (after (.gld 4 ⟨false, 0xFF, 10, 20⟩) (after (.gst 2 ⟨false, false, 0, 6, 10, 0⟩) (s.modCur fun sl => { sl with x := [(10, 0xF00000000104), (6, -1)] }))).sl.xmark 20 = .empty ∧
    (after (.gld 5 ⟨false, 0, 10, 20⟩) (after (.gst 2 ⟨false, false, 0, 6, 10, 0⟩) s)).sl.nearFills = [⟨false, 20, 0xFFFFFFFF, 3⟩] ∧
    (after (.vld ⟨false, 0, 5, 20⟩) s).sl.kcause = 0x20 ∧ (after (.gvld ⟨false, 0, 5, 20⟩) s).sl.kcause = 0x55 ∧ (after (.vst ⟨false, 0, 5, 20⟩) s).sl.kcause = 0x20 ∧
    (after (.gst 1 ⟨false, false, 0, 6, 5, 0⟩) s).sl.kcause = 0x55 ∧ (after (.gvst ⟨false, false, 0, 6, 5, 0⟩) s).sl.kcause = 0x55 ∧
    (after (.gld 2 ⟨false, 0, 5, 20⟩) s).sl.kcause = 0x55) := meets rfl rfl rfl rfl (by unfold Unfenced; decide +kernel)

/-- `FarVectorAndPostedAccesses`: x11 on a page of this package; the release and sequentially consistent forms with nothing out. -/
theorem test_far_vectors : Meets (tState id) (let s := tState id
    let far := Target.far 0x200040 (homeOf 0 0x200040) 0 (tLeaf 0x20 0).toNat
    Unfenced s ∧ s.sl.farRoom 1 = true ∧ (s.offsetAddr ⟨false, 0, 11, 20⟩ 64).toNat % 64 = 0 ∧
    s.access 0 .read (s.offsetAddr ⟨false, 0, 11, 20⟩ 64) 64 = .ok far ∧ s.access 0 .write (s.offsetAddr ⟨false, 0, 11, 20⟩ 64) 64 = .ok far ∧
    s.access 0 .read (s.offsetAddr ⟨false, 0, 11, 20⟩ (gldShape 6).1) 8 = .ok far ∧ s.access 0 .write (s.sl.xr 11 + word 0) 8 = .ok far ∧
    s.sl.far = [] ∧ s.sl.fwd = [] ∧ (after (.gvld ⟨false, 0, 11, 20⟩) s).sl.vmark 20 = .empty ∧ (after (.gvld ⟨false, 0, 11, 20⟩) s).sl.pc = 0x1044 ∧
    ((after (.gst 3 ⟨false, false, 1, 5, 11, 0⟩) s).net.map fun m => m.kind) = [0x22] ∧
    ((after (.gvst ⟨false, false, 2, 1, 11, 0⟩) s).net.map fun m => m.kind) = [0x23]) := meets rfl rfl rfl rfl (by unfold Unfenced; decide +kernel)

/-- `FarRequestLeavesOnce`: a home on the core's own die, and one on another (R200). -/
theorem test_far_request : (0 : BitVec 20) = (tState id).hub.chipId ∧ unitDie 0 = some (0 / 4 / 1024) ∧ unitDie 5 ≠ some (0 / 4 / 1024) ∧
    (((tState id).sendFar 0 0x20 5 0 0x200000 0x200000 .blocking 1 []).core 0).kreqx = 1 ∧
    (((tState id).sendFar 0 0x20 0 0 0x200000 0x200000 .blocking 1 []).core 0).kreql = 1 := by decide +kernel

/-- `GatherAndScatter`: near elements, far ones, one that is not aligned, and a mixture (R148, R149). -/
def tGather (base off : Word) : State := tState fun sl => { sl with x := [(10, base)], v := [(1, off.setWidth 512)] }
theorem test_gather : Meets (tGather 0xF00000000100 0) (let s := tGather 0xF00000000100 0
    Unfenced s ∧ passes (s.elements .read (tK 3 1 10 20)) (fun es => allNear es && passes (s.elemErrors 8 es) fun _ => true) = true ∧
    passes (s.elements .write (tK 3 1 10 20)) (fun es => allNear es && decide (s.sl.fwd.length + s.crossStripe es ≤ 16) && s.elemsReady 8 es) = true ∧
    lane 64 ((after (.vgth (tK 3 1 10 20)) (after (.gst 3 ⟨false, false, 0, 10, 10, 0⟩) s)).sl.vr 20) 7 = 0xF00000000100) :=
  meets rfl rfl rfl rfl (by unfold Unfenced; decide +kernel)
theorem test_gather_misaligned : Meets (tGather 0xF00000000100 1) (let s := tGather 0xF00000000100 1
    (s.elementAddrs (tK 3 1 10 20)).find? (fun x => x.toNat % (64 / 8) != 0) = some 0xF00000000101 ∧ (after (.vgth (tK 3 1 10 20)) s).sl.kcause = 0x20) :=
  meets rfl rfl rfl rfl (by decide +kernel)
theorem test_gather_far : Meets (tGather 0x200000 64) (let s := tGather 0x200000 64
    Unfenced s ∧ passes (s.elements .read (tK 3 1 10 20)) (fun es => !allNear es && s.sl.farRoom (elemLines es []).length) = true ∧
    passes (s.elements .write (tK 3 1 10 20)) (fun es => !allNear es && s.sl.farRoom (elemLines es []).length) = true ∧
    (after (.vgth (tK 3 1 10 20)) s).net.length = 2 ∧ (after (.vsct (tK 3 1 10 20)) s).net.length = 2) :=
  meets rfl rfl rfl rfl (by unfold Unfenced; decide +kernel)
theorem test_gather_mixture : (after (.vgth (tK 3 1 10 20)) (tGather 0xF00000000100 0xFFFF100000200000)).sl.kcause = 0x22 := by decide +kernel

/-- `StreamDeliveries`: a stream of the context with two elements, a register bound to none, and a position inside an element (R209 to R212). -/
def tStream (w : Nat) : State :=
  ((tState fun sl => { sl with q := [(1, 5)], x := [(5, 5), (6, 9)] }).modCluster 0 fun c =>
    { c with streams := [(5, { launch := 1, dest := 0, count := 2, arrived := 2, word := w })] }).storeBytes (padAddr 0 0) [0x21]
theorem test_streams : Meets (tStream 0) (let s := tStream 0
    Unfenced s ∧ (s.ownStream (s.sl.xr 5)).isSome = true ∧ s.sl.xr 6 ≠ 0 ∧ s.ownStream (s.sl.xr 6) = none ∧ s.sl.qr 0 = 0 ∧
    ((s.cluster 0).streams.get 5 {}).waiters = [] ∧ s.nearError (.pad (padAddr 0 0) 0) 64 = none ∧
    (after (.qrd (tK 0 0 1 20)) s).sl.xr 20 = 0x21 ∧ (after (.qrdv (tK 0 0 1 20)) s).sl.vr 20 = 0x21 ∧ (after (.qrd (tK 0 0 0 20)) s).sl.kcause = 0x56 ∧
    (after (.qbind (tK 0 0 5 0)) s).sl.qr 0 = 5 ∧ (after (.qbind (tK 0 0 6 0)) s).sl.kcause = 0x58 ∧ (after (.qstat (tK 0 0 20 0)) s).sl.xr 20 = 0 ∧
    (after (.qstat (tK 0 0 20 1)) s).sl.xr 20 ≠ 0) := meets rfl rfl rfl rfl (by unfold Unfenced; decide +kernel)
/-- A slot that waits behind another; one whose stream has ended with nothing left; and one whose element has not come. -/
theorem test_stream_waits : (let s := (tStream 0).setStream 5 { launch := 1, count := 2, arrived := 2, waiters := [9] }
     Unfenced s ∧ (((after (.qrd (tK 0 0 1 20)) s).cluster 0).streams.get 5 {}).waiters = [9, 0] ∧ (after (.qrd (tK 0 0 1 20)) s).sl.pc = 0x1040 ∧
     after (.qrdv (tK 0 0 1 20)) (after (.qrdv (tK 0 0 1 20)) s) = after (.qrdv (tK 0 0 1 20)) s) ∧
    (after (.qrdv (tK 0 0 1 20)) ((tStream 0).setStream 5 { count := 2, arrived := 2, next := 2, ended := true })).sl.kcause = 0x57 ∧
    (after (.qrd (tK 0 0 1 20)) ((tStream 0).setStream 5 { count := 2 })).sl.kcause = 0 := by unfold Unfenced; decide +kernel
theorem test_stream_inside : Meets (tStream 3) (let s := tStream 3
    s.sl.qr 1 ≠ 0 ∧ ((s.cluster (clusterOf s.curCore)).streams.get (s.sl.qr 1).toNat {}).word ≠ 0 ∧ (after (.qrdv (tK 0 0 1 20)) s).sl.kcause = 0x59) :=
  meets rfl rfl rfl rfl (by decide +kernel)

/-- `WaitPrefetchHintQuery`: near and far words, counts 0 and above, hints 2 and 7, an address without a page (R213, R215, R240). -/
theorem test_wait_prefetch : Meets (tState id) (let s := tState id
    let far := Target.far 0x200040 (homeOf 0 0x200040) 0 (tLeaf 0x20 0).toNat
    fld (s.sl.xr 11) 48 16 = 0 ∧ Unfenced s ∧ (s.sl.xr 11).toNat % 8 = 0 ∧ s.access 0 .read (s.sl.xr 10) 8 = .ok (.near (.operand (operandAddr 0 0x100))) ∧
    s.access 0 .read (s.sl.xr 11) 8 = .ok far ∧ s.access 0 .read (s.sl.xr 11) 1 = .ok far ∧
    passes ((s.touched (s.sl.xr 11)).suspend (.waitv 20 (s.sl.xr 11) false 0x200040 (homeOf 0 0x200040) 0 7)) (fun _ => true) = true ∧
    isNear (s.sl.xr 11).toNat = false ∧ least 64 (s.sl.xr 0).toNat = 0 ∧ least 64 (s.sl.xr 5).toNat ≠ 0 ∧ raises (s.access 0 .read (s.sl.xr 19) 1) 0x50 = true ∧
    3 ≤ (s.sl.xr 5).toNat ∧ (s.sl.xr 8).toNat < 3 ∧ passes (s.translate 0 (s.sl.xr 11)) (fun r => r.1 == 0x200040) = true ∧ isNear (s.sl.xr 10).toNat = true ∧
    s.sl.farRoom 1 = true ∧ (after (.waitv (tK 0 5 10 20)) s).sl.kcause = 0x5D ∧ ((after (.gpf (tK 0 5 11 0)) s).net.map fun m => m.kind) = [0x24] ∧
    (after (.gpf (tK 0 5 19 0)) s).sl.pc = 0x1044 ∧ (after (.gpf (tK 0 0 11 0)) s).net = [] ∧ (after (.mhint (tK 0 5 11 0)) s).sl.kcause = 0x62 ∧
    ((after (.mhint (tK 0 8 11 0)) s).net.map fun m => m.kind) = [0x3C] ∧ (after (.mqry (tK 0 0 10 20)) s).sl.xr 20 = 0 ∧
    (after (.mqry (tK 0 0 11 20)) s).sl.xmark 20 = .empty) :=
  meets rfl rfl rfl rfl (by unfold Unfenced; decide +kernel)

/-! ### Matrix instructions -/

/-- A geometry register: group 7, rank, size, VALID and RING (R179). -/
def tGeo (rank size : Nat) (ring : Bool) : Word := word (7 * 2 ^ 56 + rank * 2 ^ 44 + size * 2 ^ 31 + 2 ^ 30 + ring.toNat * 2 ^ 29)

/-- A core that holds tile 1 for slot 0 and tile 2 for slot 1, is rank 5 of 6 in group 7, with latch 0 VALID and latch 1 in a state. -/
def tMatrix (ring : Bool) (b : LatchState) : State :=
  ((tState fun sl => { sl with x := (20, 7) :: (21, 4) :: (22, 0x100000001) :: sl.x }).modCore 0 fun c =>
    { c with claim := [(1, (0, 0)), (2, (1, 0))], kgeo := [(0, tGeo 5 6 ring)], geo := [(0, [100, 70, 2, 4096])], ranks := [(0, [0, 1, 2, 3, 4, 0])] }).modCtx 0 0
    fun x => { x with bl := [(0, { state := .valid, elems := List.replicate 2048 1, side := List.replicate 512 0 }), (1, { state := b })] }

/-- `TilesClearLoadAndStore`: a tile that is free, one of the own slot, one of another slot; a mask of one cell in the operand store (R177, R185, R186). -/
theorem test_tiles : Meets (tMatrix true .empty) (let s := tMatrix true .empty
    (s.core 0).claim.find 0 = none ∧ (s.core 0).claim.find 1 = some (s.cur, s.sl.gen) ∧ (s.core 0).claim.find 2 ≠ none ∧ (s.core 0).claim.find 2 ≠ some (s.cur, s.sl.gen) ∧
    s.arrayFree 0 = true ∧ Unfenced s ∧ payTile s.sl.payload = true ∧ (s.sl.xr 10).toNat % 64 = 0 ∧ s.sl.fwd = [] ∧
    passes (s.tileTargets .read (s.sl.xr 10) (maskLines (s.sl.xr 22) 4 0 64)) (fun xs => (farLines (fun _ => (0, 0)) xs).isEmpty && passes (s.lineErrors (nearLines xs)) fun _ => true) = true ∧
    passes (s.tileTargets .write (s.sl.xr 10) (maskLines (s.sl.xr 22) 4 0 64)) (fun xs => (farLines (fun _ => (0, 0)) xs).isEmpty) = true ∧
    (after (.mzero (tK 0 0 0 2)) s).sl.kcause = 0x31 ∧ ((after (.mzero (tK 0 0 0 3)) s).core 0).claim.find 3 = some (0, 0) ∧
    (after (.mst (tK 0 22 10 2)) s).sl.kcause = 0x30 ∧ (after (.mld (tK 0 22 10 2)) s).sl.kcause = 0x31 ∧
    ((after (.mld (tK 0 22 10 3)) (after (.gst 2 ⟨false, false, 0, 5, 10, 0⟩) s)).core 0).acc = [(3072, 7)] ∧
    ((after (.mst (tK 0 22 10 1)) s).core 0).claim.find 1 = none) := meets rfl rfl rfl rfl (by unfold Unfenced; decide +kernel)

/-- `LatchLoadAndMatrixAcceptance`: an AWAIT latch and one that loads; no step, too many tiles, an EMPTY latch, and acceptance (R187, R188). -/
theorem test_latch_load : Meets (tMatrix true .await) (let s := tMatrix true .await
    Unfenced s ∧ passes (s.nearBlock (s.sl.xr 10) 2048) (fun t => t == .operand (operandAddr 0 0x100)) = true ∧ (s.latch 0 0 1).state = .await ∧ (s.latch 0 0 0).state ≠ .await ∧
    s.blockOwned (.operand (operandAddr 0 0x100)) 2048 = false ∧ s.arrayFree 0 = true ∧ (slotsOf 0).all (fun j => !(s.slot j).namesLatch 0 0) = true ∧
    s.nearError (.operand (operandAddr 0 0x100)) 2048 = none ∧ (after (.mlb (tK 0 0 10 1)) s).sl.kcause = 0x3B ∧
    (after (.mlb (tK 0 0 10 0)) s).latch 0 0 0 = { state := .valid, elems := List.replicate 2048 0, side := List.replicate 512 0 }) :=
  meets rfl rfl rfl rfl (by unfold Unfenced; decide +kernel)
theorem test_mma_acceptance :
    let s := (tMatrix true .empty).modCur fun sl => { sl with kstat := 8, kpfx := 0x11000 }
    MeetsF s (payMma s.sl.payload = true ∧ (s.sl.xr 0).toNat = 0 ∧ 16 < 15 + (s.sl.xr 8).toNat ∧ (∀ j < 1, s.mine (1 + j) = true) ∧ (s.sl.xr 10).toNat % 64 = 0 ∧
      fld (s.sl.xr 10) 48 16 = 0 ∧ isNear (s.sl.xr 10).toNat = true ∧ fld (s.sl.xr 10) 0 44 + 1 * tileStride s.sl.payload ≤ 0x20000 ∧
      (s.latch 0 0 1).state = .empty ∧ (s.latch 0 0 0).state ≠ .empty ∧ s.arrayFree 0 = true ∧ (after (.mmaReg (tK 0 0 10 1)) s).sl.pc = 0x1044 ∧
      (after (.mmaReg (tK 0 8 10 15)) s).sl.kcause = 0x32 ∧ (after (.mmaReg (tK 1 15 10 1)) s).sl.kcause = 0x34 ∧
      (after (.mmaImm false ⟨false, 1, 10, 1⟩) s).agenda = [.mmaStep 0]) := meetsF rfl rfl rfl rfl (by decide +kernel)

/-- `MatrixStepsAccumulate`: a step of `i8` codes, its end, and a latch that is not VALID (R183, R188). -/
def tStep (prog : Word) (begun : Bool) (latch : Nat) : State :=
  ((tMatrix true .empty).modCur fun sl => { sl with kprog := prog, wait := .mma 1 0x100 latch 1 0x11000 begun }).storeBytes (operandAddr 0 0x100) [1, 1]
theorem test_matrix_step :
    ((tStep 0 false 0).slot 0).wait = .mma 1 0x100 0 1 0x11000 false ∧ (tStep 0 false 0).stopped 0 = false ∧ ((tStep 0 false 0).latch 0 0 0).state = .valid ∧
    payScale 0x11000 ≠ 2 ∧ ((tStep 0 false 0).slot 0).kprog.toNat < 1 ∧ 1 ≤ ((tStep 1 true 0).slot 0).kprog.toNat ∧ ((tStep 0 false 1).latch 0 0 1).state ≠ .valid ∧
    ((after (.mmaStep 0) (tStep 0 false 0)).slot 0).kprog = 1 ∧ ((after (.mmaStep 0) (tStep 0 false 0)).core 0).acc.get 1024 0 = 0x40000000 ∧
    ((after (.mmaStep 0) (tStep 1 true 0)).slot 0).pc = 0x1044 ∧ ((after (.mmaStep 0) (tStep 0 false 1)).slot 0).kprog = 0 ∧
    (let s := (tStep 0 true 0).modCore 0 fun c => { c with badArray := true }
     let t := after (.mmaStep 0) s
     (s.core 0).badArray = true ∧ ((tStep 0 false 0).core 0).badArray = false ∧ (t.slot 0).kcause = 0x39 ∧ (t.slot 0).phase = .frozen ∧
     (t.core 0).acc = (s.core 0).acc ∧ t.hub.ktrapTail = 1) := by decide +kernel

/-- `IntegerStepIsTheExactSum`: a sum that wraps, and one that clamps (R183). -/
theorem test_integer_step : [(127 : Int), 1].length = 2 ∧ intStep false 0x7FFFFFFF [127, 1] [1, 1] = (0x8000007F, 0) ∧
    intStep true 0x7FFFFFFF [127, 1] [1, 1] = (0x7FFFFFFF, flagNV) ∧ intStep true 0x80000000 [-1] [1] = (0x80000000, flagNV) ∧
    intStep true 5 [-3] [2] = (0xFFFFFFFF, 0) := by decide +kernel

/-- `RingTransfers`: a ring and a group that is none; no pass and four; a rank outside the group, the own rank and another (R190, R191). -/
theorem test_ring : Meets (tMatrix true .empty) (let s := tMatrix true .empty
    passes (s.needMember (tK 0 21 20 0)) (fun r => r == (0, tGeo 5 6 true)) = true ∧ geoRing (tGeo 5 6 true) = true ∧ s.sl.xr 1 = 0 ∧ s.sl.xr 21 ≠ 0 ∧ (s.sl.xr 21).toNat ≤ 4095 ∧
    (s.latch 0 0 0).state ≠ .empty ∧ s.sl.kprog.toNat < (s.sl.xr 21).toNat ∧ geoSize (tGeo 5 6 true) ≤ (s.sl.xr 5).toNat ∧ (s.sl.xr 21).toNat < geoSize (tGeo 5 6 true) ∧
    (s.sl.xr 21).toNat ≠ geoRank (tGeo 5 6 true) ∧ (s.latch 0 0 0).shadow = none ∧ (after (.mring (tK 0 1 20 0)) s).sl.pc = 0x1044 ∧
    (after (.mring (tK 0 21 20 0)) s).agenda = [.latchTransferArrival 0 0 0] ∧ (after (.mpass (tK 0 21 20 0)) s).agenda = [.latchTransferArrival 4 0 0] ∧
    (after (.mpass (tK 0 5 20 0)) s).sl.kcause = 0x37 ∧ ((after (.mpass (tK 0 23 20 0)) (s.modCur fun sl => sl.setX 23 5)).latch 0 0 0).state = .await) :=
  meets rfl rfl rfl rfl (by decide +kernel)
theorem test_no_ring : Meets (tMatrix false .empty) (let s := tMatrix false .empty
    passes (s.needMember (tK 0 21 20 0)) (fun r => r == (0, tGeo 5 6 false)) = true ∧ geoRing (tGeo 5 6 false) = false ∧ (after (.mring (tK 0 21 20 0)) s).sl.kcause = 0x36) :=
  meets rfl rfl rfl rfl (by decide +kernel)

/-- The arrivals of `RingTransfers`: a shadow that is applied, one that is free, and one that a transfer from core 1 fills (R178). -/
def tShadow (shadow : Option (List Byte × List Byte)) (b : LatchState) : State :=
  ((((tState id).modCtx 0 0 fun x => { x with bl := [(0, { state := b, shadow := shadow })] }).modCore 1 fun c => { c with ring := [4] }).modCtx 1 0
    fun x => { x with bl := [(0, { state := .valid, elems := [9], side := [8] })] }).setSlot 4 { tSlot with wait := .ring 0 0 1 false }
theorem test_shadows :
    (tShadow (some ([1], [2])) .await).latch 0 0 0 = { state := .await, shadow := some ([1], [2]) } ∧
    (slotsOf 0).all (fun j => !((tShadow (some ([1], [2])) .await).slot j).readsLatch 0 0) = true ∧
    (after (.shadowApply 0 0 0) (tShadow (some ([1], [2])) .await)).latch 0 0 0 = { state := .valid, elems := [1], side := [2] } ∧
    ((tShadow none .valid).latch 0 0 0).shadow = none ∧ (((tShadow (some ([1], [2])) .await).latch 0 0 0).shadow).isSome = true ∧
    (tShadow none .valid).slots.find? (fun e => (tShadow none .valid).ringSender 0 0 0 e.1 e.2) = some (4, (tShadow none .valid).slot 4) ∧
    ((tShadow none .valid).slot 4).wait = .ring 0 0 1 false ∧ coreOf 4 ≠ 0 ∧ (tShadow none .valid).latch 0 0 0 = { state := .valid } ∧
    (after (.latchTransferArrival 0 0 0) (tShadow none .valid)).latch 0 0 0 = { state := .valid, shadow := some ([9], [8]) } := by decide +kernel

/-- `GeometryWords`, `GeometryPartsCoverTheWhole`: the example of R192, and a column count that does not divide the group. -/
theorem test_geometry : Meets (tMatrix true .empty) (let s := tMatrix true .empty
    (4#5).toNat % 4 = 0 ∧ passes (s.needMember (tK 2 0 20 4)) (fun r => r == (0, tGeo 5 6 true)) = true ∧ 2 % 65536 ≠ 0 ∧ geoSize (tGeo 5 6 true) % 2 = 0 ∧
    (after (.mgeo (tK 2 0 20 4)) s).sl.xs 4 4 = [0x0000000100000003, 0x0000000100000002, 0x0000003F0000000F, 0x1000] ∧
    (let u := s.modCore 0 fun c => { c with geo := [(0, [100, 70, 4, 4096])] }
     geoSize (tGeo 5 6 true) % 4 ≠ 0 ∧ (after (.mgeo (tK 2 0 20 4)) u).sl.kcause = 0x38 ∧ (after (.mgeo (tK 2 0 20 4)) u).sl.kaddr = 4)) :=
  meets rfl rfl rfl rfl (by decide +kernel)
theorem test_parts : 0 < 3 ∧ splitPart 4 3 0 = (0, 2) ∧ splitPart 4 3 2 = (3, 1) := by decide +kernel

/-! ### Messages and clauses -/

/-- A descriptor to core 0 of this chip, of a channel, with more bits (R124). -/
def tDesc (chan more : Nat) : Word := word (2 ^ 44 + chan * 2 ^ 32 + more)

/-- A state whose registers 20 to 27 hold descriptors: plain; RKIND 10; channel 241; a context that may not receive; reply to the record; a reply word. -/
def tSend (queued : Nat) : State :=
  (tState fun sl => { sl with
    x := (5, 7) :: (20, tDesc 9 0) :: (21, tDesc 9 (2 ^ 46)) :: (22, tDesc 241 0) :: (23, tDesc 9 (2 ^ 62 + 2 ^ 60)) :: (24, tDesc 9 (3 * 2 ^ 45)) ::
      (25, word (3 * 2 ^ 30)) :: (26, word (2 * 2 ^ 30 + 2 ^ 59)) :: (27, tDesc 9 (2 ^ 59)) :: [] }).modCore 0 fun c =>
    { c with outq := List.replicate queued { msg := {}, slot := 0, gen := 0, seqs := [], fwd := 0 } }

/-- `SendsQueueOneMessage`: each check and each form, with room in the queue and without (R124 to R126). -/
theorem test_send : Meets (tSend 0) (let s := tSend 0
    Unfenced s ∧ (5#5).toNat % groupSize 0 = 0 ∧ descOk (s.sl.xr 21) 0 false = false ∧ descOk (s.sl.xr 22) 0 false = true ∧ 241 ≤ fld (s.sl.xr 22) 32 8 ∧
    descOk (s.sl.xr 23) 0 false = true ∧ fld (s.sl.xr 23) 32 8 < 241 ∧ s.routeOf (s.sl.xr 23) = none ∧
    passes (s.sendChecks (tK 0 5 20 0) (s.sl.xr 20) false) (fun r => r.1 == (0, 0, 0)) = true ∧ descRkind (s.sl.xr 20) ≠ 3 ∧ s.outRoom 0 = true ∧
    tagKind ((s.sl.xr 5).setWidth 32) = 0 ∧ fld (s.sl.xr 26) 59 5 ≠ 0 ∧ tagKind ((s.sl.xr 25).setWidth 32) ≠ 0 ∧ fld (s.sl.xr 25) 59 5 = 0 ∧
    passes (s.payloadOf (tK 0 5 25 0) 0) (fun p => p == [7, 0]) = true ∧ passes (s.sendChecks (tK 0 5 27 6) (s.sl.xr 27) true) (fun r => r.2 == [7, 0]) = true ∧
    (after (.send (tK 0 5 21 0)) s).sl.kcause = 0x44 ∧ (after (.send (tK 0 5 22 0)) s).sl.kcause = 0x41 ∧ (after (.send (tK 0 5 23 0)) s).sl.kcause = 0x40 ∧
    (after (.reply (tK 0 5 5 0)) s).sl.kcause = 0x43 ∧ ((after (.send (tK 0 5 20 0)) s).core 0).outq.length = 1 ∧ (after (.send (tK 0 5 20 0)) s).sl.kseq = 4 ∧
    ((after (.reply (tK 0 5 25 0)) s).core 0).outq.length = 1 ∧ (after (.sendr (tK 0 5 27 6)) s).sl.vmark 6 = .empty) := meets rfl rfl rfl rfl (by unfold Unfenced; decide +kernel)
theorem test_send_waits : Meets (tSend 16) (let s := tSend 16
    passes (s.sendChecks (tK 0 5 20 0) (s.sl.xr 20) false) (fun r => r.1 == (0, 0, 0)) = true ∧ s.outRoom 0 = false ∧ (after (.send (tK 0 5 20 0)) s).sl.pc = 0x1040) :=
  meets rfl rfl rfl rfl (by decide +kernel)

/-- `ChannelBits`: the bounds of each range of channels (R105, R127, R128). -/
theorem test_channels : Meets (tState fun sl => { sl with x := [(5, 241), (6, 242), (7, 252), (8, 253), (9, 239), (10, 240)], clause := { sl.clause with header := [1, 2, 3, 4] } })
    (let s := tState fun sl => { sl with x := [(5, 241), (6, 242), (7, 252), (8, 253), (9, 239), (10, 240)], clause := { sl.clause with header := [1, 2, 3, 4] } }
     fld (s.sl.xr 5) 0 8 < 242 ∧ 252 < fld (s.sl.xr 8) 0 8 ∧ 242 ≤ fld (s.sl.xr 6) 0 8 ∧ fld (s.sl.xr 7) 0 8 ≤ 252 ∧ fld (s.sl.xr 9) 0 8 < 240 ∧ 240 ≤ fld (s.sl.xr 10) 0 8 ∧
     (4#5).toNat % 4 = 0 ∧ (((after (.hen (tK 0 0 5 0)) s).ctx 0 0).chans.get 241 {}).enable = true ∧ (after (.hen (tK 0 0 6 0)) s).sl.kcause = 0x41 ∧
     (after (.hdis (tK 0 0 7 0)) s).sl.kcause = 0x41 ∧ (((after (.hpend (tK 0 0 9 0)) s).ctx 0 0).chans.get 239 {}).pending = true ∧
     (after (.hpend (tK 0 0 10 0)) s).sl.kcause = 0x41 ∧ (((after (.hclr (tK 0 0 9 0)) (after (.hpend (tK 0 0 9 0)) s)).ctx 0 0).chans.get 239 {}).pending = false ∧
     (after (.hhdr (tK 2 0 0 4)) s).sl.xs 4 4 = [1, 2, 3, 4]) := meets rfl rfl rfl rfl (by decide +kernel)

/-- `SuspensionWritesTheRecord`: nothing in the way; a claimed tile; a commit with a record, and one that waits for a store (R21, R112). -/
def tSuspending : State := tState fun sl => { sl with phase := .suspending .susp, clause := { sl.clause with recIdx := some 3 } }
theorem test_suspend : Meets (tEntries (tState fun sl => { sl with clause := { sl.clause with recIdx := some 3 } }))
    (let s := tEntries (tState fun sl => { sl with clause := { sl.clause with recIdx := some 3 } })
     s.heldState 0 = none ∧ (tMatrix true .empty).heldState 0 = some 0x101 ∧ (after (.susp (tK 0 0 0 0)) (tMatrix true .empty)).sl.kcause = 0x42 ∧
     (after (.yield (tK 0 0 0 0)) (tMatrix true .empty)).sl.kaddr = 0x101 ∧ (after (.susp (tK 0 0 0 0)) s).sl.phase = .free) := meets rfl rfl rfl rfl (by decide +kernel)
theorem test_suspension_commit :
    let s := tEntries tSuspending
    let t := after (.suspensionCommit 0) s
    s.recordFault 0 = none ∧ s.tableLine 0 0 (s.recordVa 0 0 3) = .ok (0x2300C0, homeOf 0 0x2300C0) ∧
    s.findLine (s.tableMsg 0 0 0x2300C0 (homeOf 0 0x2300C0)) 0x2300C0 false false true = .at (mediaOfEntry (2 ^ 63 + 0x23) 0x2300C0) (2 ^ 63 + 0x23) ∧ mediaOfEntry (2 ^ 63 + 0x23) 0x2300C0 % 64 = 0 ∧
    [t.devLoad 0x2300C0 8, t.devLoad 0x2300C8 8, t.devLoad 0x2300D8 8, t.devLoad 0x2300F8 8] = [0x300000044, 0x77, 0x200040, 1] ∧
    (let u := after (.suspensionCommit 0) tSuspending
     tSuspending.recordFault 0 = some (0x50, 192) ∧ (u.slot 0).phase = .frozen ∧ (u.slot 0).kcause = 0x50 ∧ (u.slot 0).kepc = 0x1040 ∧ u.hub.ktrapTail = 1) ∧
    (s.slot 0).phase = .suspending .susp ∧ (s.slot 0).clause.recIdx = some 3 ∧ (s.slot 0).far = [] ∧ (s.slot 0).fwd = [] ∧ (s.slot 0).q = [] ∧
    (s.record 0 0 3).resumes = [] ∧ (s.slot 0).clause.account = none ∧ (s.ctx 0 0).preempted = false ∧
    ((after (.suspensionCommit 0) s).record 0 0 3).carried = [0x200040, 0xF00001000000, 0xABCD, 0xF00001000080, 1] ∧
    ((after (.suspensionCommit 0) s).record 0 0 3).pc = 0x44 ∧
    (let u := s.modSlot 0 fun sl => { sl with fwd := [{ addr := 128, bytes := [1] }] }; (u.slot 0).fwd ≠ [] ∧ after (.suspensionCommit 0) u = u) := by decide +kernel

/-- `SpawnAndExit`: entries inside and outside the code region, a family that is full, and room (R115, R130); the end of start clause 0 (R132). -/
def tSpawn (spawned : BitVec 32) : State :=
  (tEntries (tState fun sl => { sl with x := (20, 0x1100) :: sl.x, clause := { sl.clause with recIdx := some 3, start := some 0 } })).modCtx 0 0 fun c =>
    { c with recs := [(3, { state := .running, family := { spawned := spawned } })] }
theorem test_spawn : Meets (tSpawn 63) (let s := tSpawn 63
    (5#5).toNat % groupSize 0 = 0 ∧ (s.sl.xr 20).toNat % 4 = 0 ∧ s.sl.clause.codeBase.toNat ≤ (s.sl.xr 20).toNat ∧
    (s.sl.xr 20).toNat < s.sl.clause.codeBase.toNat + s.sl.clause.codeSize ∧ (s.sl.xr 5).toNat % 4 ≠ 0 ∧ 64 ≤ ((tSpawn 64).family.spawned - (tSpawn 64).family.joinBase).toNat ∧
    (s.family.spawned - s.family.joinBase).toNat < 64 ∧ Unfenced s ∧ s.outRoom 0 = true ∧ s.sl.clause.recIdx = some 3 ∧ s.sl.clause.recCore = s.curCore ∧
    (after (.spawn (tK 0 5 5 0)) s).sl.kcause = 0x46 ∧ (after (.spawn (tK 0 5 20 0)) (tSpawn 64)).sl.kcause = 0x45 ∧
    ((after (.spawn (tK 0 5 20 0)) s).record 0 0 3).family.spawned = 64 ∧ ((after (.spawn (tK 0 5 20 0)) s).core 0).outq.length = 1 ∧
    s.familyFault 0 = none ∧ (after (.spawn (tK 0 5 20 0)) s).devLoad (0x240000 + 3 * 1024 + 8) 8 = 64 ∧
    (let u := s.modCtx 0 0 fun c => { c with famBase := 0 }; u.familyFault 0 = some (0x50, 0xC00) ∧ (after (.spawn (tK 0 5 20 0)) u).sl.kaddr = 0xC00)) :=
  meets rfl rfl rfl rfl (by unfold Unfenced; decide +kernel)
theorem test_exit :
    let s := (tSpawn 0).modSlot 0 fun sl => { sl with phase := .exiting 42 false }
    (s.slot 0).phase = .exiting 42 false ∧ (s.slot 0).clause.regs = [] ∧ (s.slot 0).acked = true ∧ (s.slot 0).fwd = [] ∧ (s.slot 0).clause.parent = 0 ∧
    (s.slot 0).clause.start = some 0 ∧ ((after (.exitCommit 0) s).launch 1).result = 42 ∧ ((after (.exitCommit 0) s).launch 1).live = 0 ∧
    (let u := s.modSlot 0 fun sl => { sl with fwd := [{ addr := 128, bytes := [1] }] }; (u.slot 0).fwd ≠ [] ∧ after (.exitCommit 0) u = u) ∧
    ((after (.exit (tK 0 0 5 0)) (tSpawn 0)).launch 1).result = 7 := by decide +kernel

/-- `EndingClauseDropsItsRegistrations`: one registration on this chip (R286). -/
theorem test_implicit_drop :
    let s := tState fun sl => { sl with phase := .exiting 0 false, clause := { sl.clause with regs := [{ name := 5, number := 2, ga := 0x220000, unit := 3 }] } }
    (s.slot 0).phase = .exiting 0 false ∧ (s.slot 0).clause.regs.all (fun g => chipOf g.ga == s.hub.chipId) = true ∧
    ((after (.implicitDrop 0) s).net.map fun m => (m.kind, m.unit)) = [(0x32, 3)] ∧ ((after (.implicitDrop 0) s).slot 0).clause.regs = [] := by decide +kernel

/-! ### Ordering, synchronisation, words and names at the core -/

/-- `FencesAndOwnership`: the kinds of fence, with nothing and with a store on its way; scratchpad tiles of both owners (R249 to R253). -/
def tOwned : State := { tState id with clusters := [(0, { owner := [(1, true)] })] }
theorem test_fences : Meets (tState id) (let s := tState id
    Unfenced s ∧ (9#5).toNat % 4 ≠ 3 ∧ (11#5).toNat % 4 = 3 ∧ s.waitSet s.cur 2 = [] ∧ s.sl.fwd = [] ∧ s.sl.readsFilled = true ∧
    (after (.fen (tK 0 9 0 0)) s).sl.fence = some (1, 2) ∧ (after (.fen (tK 0 11 0 0)) s).sl.pc = 0x1044) := meets rfl rfl rfl rfl (by unfold Unfenced; decide +kernel)
theorem test_full_fence_waits : Meets (tState fun sl => { sl with fwd := [{ addr := 128, bytes := [1] }] })
    (let s := tState fun sl => { sl with fwd := [{ addr := 128, bytes := [1] }] }
     s.sl.fwd ≠ [] ∧ after (.fen (tK 0 11 0 0)) s = s) := meets rfl rfl rfl rfl (by decide +kernel)
theorem test_owners : Meets tOwned (let s := tOwned
    let pad := fun (a : Word) => fld a 48 16 = 0 ∧ isNear a.toNat = true ∧ 0x1000000 ≤ a.toNat % 2 ^ 44 ∧ a.toNat % 2 ^ 44 < 0x1000000 + 0x300000
    Unfenced s ∧ pad (s.sl.xr 12) ∧ pad 0xF000012FFFFF ∧ fld (s.sl.xr 10) 48 16 = 0 ∧ (s.sl.xr 10).toNat % 2 ^ 44 < 0x1000000 ∧ ¬ pad 0xF00001300000 ∧
    (s.cluster 0).owner.get 0 false = false ∧ (s.cluster 0).owner.get 1 false = true ∧ s.tileBusy 0 0 = false ∧
    ((after (.own (tK 0 0 12 0)) s).cluster 0).owner.get 0 false = true ∧ (after (.own (tK 0 0 10 0)) s).sl.kcause = 0x72) :=
  meets rfl rfl rfl rfl (by unfold Unfenced; decide +kernel)
theorem test_own_engine_tile : Meets (tOwned.modCur fun sl => { sl with x := [(12, 0xF00001001000)] })
    (let s := tOwned.modCur fun sl => { sl with x := [(12, 0xF00001001000)] }
     (s.cluster 0).owner.get 1 false = true ∧ (after (.own (tK 0 0 12 0)) s).sl.kcause = 0xA0 ∧ after (.ownw (tK 0 0 12 0)) s = s) := meets rfl rfl rfl rfl (by decide +kernel)

/-- `PendingFencesHoldTheNextAccess`: an acquire and a release pending, with a read out (R250). -/
def tFenced (far : List Far) : State := tState fun sl => { sl with fence := some (3, 2), far := far }
theorem test_pending_fences : (tFenced []).sl.fence = some (3, 2) ∧ (tFenced []).fenceReady true = true ∧
    (tFenced [{ gen := 0, seq := 0, kind := 0x20, va := 0, ga := 0, unit := 0, chip := 0, use := .posted }]).fenceReady false = false ∧
    (after (.gvld ⟨false, 0, 11, 20⟩) (tFenced [])).sl.fence = some (2, 2) := by decide +kernel

/-- `AtomicsAskTheHome`: a far target of each size, a near one and one that is not aligned (R267, R270 to R272). -/
theorem test_atomics : Meets (tState fun sl => { sl with x := [(10, 0xF00000000100), (11, 0x200040), (5, 7), (6, 9), (7, 8)] })
    (let s := tState fun sl => { sl with x := [(10, 0xF00000000100), (11, 0x200040), (5, 7), (6, 9), (7, 8)] }
     let there := (0x200040, homeOf 0 0x200040, 0)
     Unfenced s ∧ s.sl.farRoom 1 = true ∧ s.atomicTarget (s.sl.xr 11) 8 true = .ok there ∧ s.atomicTarget (s.sl.xr 11) 16 true = .ok there ∧
     s.atomicTarget (s.sl.xr 11) (redSize 1) false = .ok there ∧ (s.sl.xr 5).toNat % 8 ≠ 0 ∧ (s.sl.xr 10).toNat % 16 = 0 ∧
     fld (s.sl.xr 10) 48 16 = 0 ∧ isNear (s.sl.xr 10).toNat = true ∧ (6#5).toNat % 2 = 0 ∧
     (after (.amoAdd (tK 0 6 11 20)) s).sl.xmark 20 = .empty ∧ (after (.amoAdd (tK 0 6 10 20)) s).sl.kcause = 0x73 ∧ (after (.red (tK 0 6 5 0)) s).sl.kcause = 0x74 ∧
     ((after (.amoSwap (tK 0 6 11 20)) s).net.map fun m => m.payload.take 3) = [[0x200040, 6, 9]] ∧
     ((after (.amocas (tK 1 6 11 20)) s).net.map fun m => m.payload) = [[0x200040, 0x27, 9, 8, 0, 0]]) := meets rfl rfl rfl rfl (by unfold Unfenced; decide +kernel)

/-- A state whose pair x20, x21 names a cached object of a class, at a page of a kind, and whose clause may be registered with it. -/
def tNamed (cls : Nat) (ga : Word) (reg : Bool) (f : Slot → Slot := id) : State :=
  let regs : List Registration := if reg then [{ name := 0x55, number := 2, ga := ga, unit := 3 }] else []
  let attr := word (2 ^ 30 + cls + 4 * 2 ^ 19 + (if ga = 0x220000 then 2 ^ 29 else 0))
  { tEntries (tState fun sl => f { sl with x := [(20, 0x55), (22, 8), (23, 0x802)] ++ sl.x, clause := { sl.clause with recIdx := some 3, regs := regs } }) with
    clusters := [(0, { names := [{ name := 0x55, binding := ga, attr := attr }], nextName := 9, nameLeft := 5 })] }
/-- The entry that the cache of `tNamed` holds. -/
def tEntry (cls : Nat) (ga : Word) : CachedName := ((tNamed cls ga false).cluster 0).names.headD { name := 0, binding := 0, attr := 0 }

/-- `BarrierInstructionsAskTheObject`: a name of the class, registered and not, an arrival and a wait; a name of another class (R278 to R284). -/
theorem test_barrier_registered : Meets (tNamed 1 0x220000 true) (let s := tNamed 1 0x220000 true
    let e := tEntry 1 0x220000
    let s' := s.modCluster 0 fun c => { c with names := cacheTouch c.names 0x55 }
    s.sl.name 20 = 0x55 ∧ s.issuer 0x55 = .ok s.hub.chipId ∧ cacheFind (s.cluster 0).names 0x55 = some e ∧ hasRight e.attr 0 true s.curCtx.vf = true ∧
    hasRight e.attr 3 true s.curCtx.vf = true ∧ Unfenced s ∧ s.sl.farRoom 1 = true ∧ attrClass e.attr = 1 ∧ attrSync e.attr = true ∧
    (s.registered 0x55).isSome = true ∧ s.sl.far = [] ∧ s.sl.fwd = [] ∧ s.heldState s.cur = none ∧ (20#5).toNat % 2 = 0 ∧
    passes (s'.suspend (.barrier 3 6 0x55 e.binding 3 0 5)) (fun _ => true) = true ∧ (after (.barjoin (tK 0 0 20 6)) s).sl.xr 6 = 2 ∧
    ((after (.bararr (tK 0 0 20 6)) s).net.map fun m => m.kind) = [0x32] ∧ (after (.barinv (tK 0 0 20 0)) s).sl.pc = 0x1040 ∧
    (1 ≤ (s.sl.xr 22).toNat % 2048 ∧ fld (s.sl.xr 22) 11 1 = 0) ∧ ((after (.barinit (tK 0 22 20 0)) s).net.map fun m => m.kind) = [0x32] ∧
    (after (.barinit (tK 0 0 20 0)) s).sl.kcause = 0x77) := meets rfl rfl rfl rfl (by unfold Unfenced; decide +kernel)
theorem test_barrier_unregistered : Meets (tNamed 1 0x220000 false) (let s := tNamed 1 0x220000 false
    s.registered 0x55 = none ∧ s.sl.clause.regs.length < 4 ∧ s.sl.clause.recIdx = some 3 ∧ ((after (.barjoin (tK 0 0 20 6)) s).net.map fun m => m.kind) = [0x32] ∧
    (let s' := s.modCluster 0 fun c => { c with names := cacheTouch c.names 0x55 }; s'.regsFault 0 = none) ∧
    (let u := s.modCtx 0 0 fun c => { c with regBase := 0 }
     (u.modCluster 0 fun c => { c with names := cacheTouch c.names 0x55 }).regsFault 0 = some (0x50, 384) ∧ (after (.barjoin (tK 0 0 20 6)) u).sl.kaddr = 384) ∧
    (after (.bararr (tK 0 0 20 6)) s).sl.kcause = 0x78) := meets rfl rfl rfl rfl (by decide +kernel)
theorem test_barrier_second_half : Meets ((tNamed 1 0x220000 true).modCur fun sl => { sl with kstat := 16 })
    (let s := (tNamed 1 0x220000 true).modCur fun sl => { sl with kstat := 16 }
     s.sl.ap = true ∧ s.heldState s.cur = none ∧
     passes ((s.modCluster 0 fun c => { c with names := cacheTouch c.names 0x55 }).suspend (.barrier 4 6 0x55 0x220000 3 0 (s.sl.xr 6))) (fun _ => true) = true) :=
  meets rfl rfl rfl rfl (by decide +kernel)
theorem test_not_a_barrier : Meets (tNamed 0 0x200000 false) (let s := tNamed 0 0x200000 false
    attrClass (tEntry 0 0x200000).attr ≠ 1 ∧ (after (.barjoin (tK 0 0 20 6)) s).sl.kcause = 0x75) := meets rfl rfl rfl rfl (by decide +kernel)

/-- `GroupMemberIsRead`: a table in the operand store whose group 1 has two members, and group 2 none; no table (R289). -/
def tGroup (base : Word) : State :=
  let s := (tState fun sl => { sl with x := [(5, 1), (6, 2)] }).modLaunch 1 fun l => { l with packet := [0, 0, 0, 0, 0, base] }
  (s.nearStore 0 (.operand (operandAddr 0 0x120)) (toBytes 8 0x100 ++ toBytes 4 2)).nearStore 0 (.operand (operandAddr 0 0x200)) (toBytes 2 7 ++ toBytes 2 9)
theorem test_group : Meets (tGroup 0xF00000000100) (let s := tGroup 0xF00000000100
    (s.launch s.sl.clause.launch).packet.getD 5 0 = 0xF00000000100 ∧ Unfenced s ∧ s.access s.cur .read 0xF00000000120 32 = .ok (.near (.operand (operandAddr 0 0x120))) ∧
    s.nearError (.operand (operandAddr 0 0x120)) 32 = none ∧ s.access s.cur .read 0xF00000000202 2 = .ok (.near (.operand (operandAddr 0 0x202))) ∧
    s.nearError (.operand (operandAddr 0 0x202)) 2 = none ∧ (after (.grp (tK 0 5 5 20)) s).sl.xr 20 = 9 ∧ (after (.grp (tK 0 5 6 20)) s).sl.kcause = 0x7A ∧
    (after (.grp (tK 0 6 5 20)) s).sl.kcause = 0x37) := meets rfl rfl rfl rfl (by unfold Unfenced; decide +kernel)
theorem test_no_group_table : Meets (tGroup 0) ((after (.grp (tK 0 5 5 20)) (tGroup 0)).sl.kcause = 0x7A) := meets rfl rfl rfl rfl (by decide +kernel)

/-- `WordInstructionsAskTheLawUnit`: a `TENSED` page, a plain one, a near address and one that is not aligned (R312, R313, R315). -/
def tWords : State := { tState fun sl => { sl with x := (20, 0x210010) :: (21, 0x180) :: sl.x } with
  hub := { (tState id).hub with tensed := [(0x21, some (0, 0x210000))] } }
theorem test_words : Meets tWords (let s := tWords
    Unfenced s ∧ (s.sl.xr 5).toNat % 16 ≠ 0 ∧ (s.sl.xr 10).toNat % 16 = 0 ∧ fld (s.sl.xr 10) 48 16 = 0 ∧ isNear (s.sl.xr 10).toNat = true ∧
    (s.sl.xr 20).toNat % 16 = 0 ∧ isNear (s.sl.xr 20).toNat = false ∧
    s.translate s.cur (s.sl.xr 20) = .ok (0x210010, homeOf 0 0x210010, s.hub.chipId, (tLeaf 0x21 (2 ^ 11)).toNat) ∧
    leafR (tLeaf 0x21 (2 ^ 11)).toNat = true ∧ leafW (tLeaf 0x21 (2 ^ 11)).toNat = true ∧ leafTensed (tLeaf 0x21 (2 ^ 11)).toNat = true ∧
    s.translate s.cur (s.sl.xr 11) = .ok (0x200040, homeOf 0 0x200040, s.hub.chipId, (tLeaf 0x20 0).toNat) ∧ leafTensed (tLeaf 0x20 0).toNat = false ∧
    s.hub.tensed.find (pageOf (devOf 0x210010)) = some (some (0, 0x210000)) ∧ s.sl.farRoom 1 = true ∧ 256 ≤ (s.sl.xr 21).toNat ∧ (s.sl.xr 21).toNat < 512 ∧
    (after (.twld (tK 0 0 20 6)) s).sl.xmark 6 = .empty ∧ ((after (.twadd (tK 1 5 20 6)) s).net.map fun m => m.payload) = [[0x210010, 9, 7, -1]] ∧
    ((after (.twarm (tK 0 21 20 0)) s).net.map fun m => m.payload) = [[0x210010, 3, 0x180, 0]] ∧ (after (.twdis (tK 0 0 11 0)) s).sl.kcause = 0x80 ∧
    (after (.twset (tK 0 5 10 0)) s).sl.kcause = 0x84 ∧ (after (.twpred (tK 0 0 5 6)) s).sl.kcause = 0x83) := meets rfl rfl rfl rfl (by unfold Unfenced; decide +kernel)

/-- `LawInstructionsAskTheHub`: the bounds of each operand (R316, R317). -/
theorem test_law_instructions : Meets (tState fun sl => { sl with x := [(5, 7), (6, 1023), (7, 0x80000000), (8, 8), (9, 255), (10, 1024)] })
    (let s := tState fun sl => { sl with x := [(5, 7), (6, 1023), (7, 0x80000000), (8, 8), (9, 255), (10, 1024)] }
     Unfenced s ∧ s.sl.farRoom 1 = true ∧ 1024 ≤ (s.sl.xr 10).toNat ∧ (s.sl.xr 9).toNat < 256 ∧ controlOk (s.sl.xr 5) = false ∧ controlOk (s.sl.xr 0) = true ∧
     256 ≤ (s.sl.xr 6).toNat ∧ (s.sl.xr 6).toNat < 1024 ∧ (s.sl.xr 5).toNat < 8 ∧ 8 ≤ (s.sl.xr 8).toNat ∧ 2 ^ 31 ≤ (s.sl.xr 7).toNat ∧
     ((after (.lawset (tK 0 5 6 0)) s).net.map fun m => m.payload) = [[0, 1023, 7, 0]] ∧ ((after (.lawget (tK 0 0 6 20)) s).net.map fun m => m.payload) = [[1, 1023]] ∧
     (after (.tbadv (tK 0 8 5 20)) s).sl.xmark 20 = .empty ∧ (after (.lawset (tK 0 5 10 0)) s).sl.kcause = 0x85 ∧ (after (.lawget (tK 0 0 10 20)) s).sl.kcause = 0x85 ∧
     (after (.lawset (tK 0 5 9 0)) s).sl.kcause = 0x86 ∧ (after (.tbadv (tK 0 8 8 20)) s).sl.kcause = 0x87 ∧ (after (.tbadv (tK 0 7 5 20)) s).sl.kcause = 0x87) :=
  meets rfl rfl rfl rfl (by unfold Unfenced; decide +kernel)

/-- `NameInstructions`: a name of this package that its cluster holds, a serial that no map knows, and a new name (R331, R337 to R342). -/
def tNames : State := { tNamed 0 0x200000 false with hub := { (tState id).hub with nametab := 20 + 2 ^ 20 } }
theorem test_names : Meets (tNames.modCur fun sl => { sl with x := (24, 0) :: (25, 0x200040) :: sl.x })
    (let s := tNames.modCur fun sl => { sl with x := (24, 0) :: (25, 0x200040) :: sl.x }
     let e := tEntry 0 0x200000
     Unfenced s ∧ s.sl.farRoom 1 = true ∧ creationOk (s.sl.xr 22) = false ∧ creationOk (s.sl.xr 0) = true ∧
     s.bindingTarget (s.sl.xr 11) = .ok (0x200040, 0, 65472) ∧ 64 * 2 ^ fld (s.sl.xr 0) 8 5 ≤ 65472 ∧ s.nameTable.isSome = true ∧ (s.cluster 0).nameLeft ≠ 0 ∧
     s.issuer (s.sl.name 20) = .ok s.hub.chipId ∧ cacheFind (s.cluster 0).names 0x55 = some e ∧ hasRight e.attr 0 true s.curCtx.vf = true ∧
     hasRight e.attr 1 true s.curCtx.vf = true ∧ s.released s.cur 2 = true ∧ s.bindingTarget (s.sl.xr 25) = .ok (0x200040, 0, 65472) ∧
     (s.sl.xr 5).toNat % 8 ≠ 0 ∧ (s.sl.xr 22).toNat % 8 = 0 ∧ passes (relativeTarget e.binding e.attr 8 0x55 false) (fun r => r.1 == 0x200008) = true ∧
     passes (relativeTarget e.binding e.attr 8 0x55 true) (fun r => r.1 == 0x200008) = true ∧
     (after (.nmnew (tK 0 0 11 6)) s).sl.xmark 7 = .empty ∧ (after (.nmnew (tK 0 22 11 6)) s).sl.kcause = 0x97 ∧ (after (.nmres (tK 0 0 20 6)) s).sl.xr 6 = 0x200000 ∧
     ((after (.nmkill (tK 0 0 20 6)) s).net.map fun m => m.kind) = [0x38] ∧ (after (.nmcas (tK 0 24 20 6)) s).sl.xmark 6 = .empty ∧
     ((after (.nmld (tK 0 22 20 6)) s).net.map fun m => m.payload) = [[0x200008, 8]] ∧ (after (.nmst (tK 0 5 20 6)) s).sl.kcause = 0x98) :=
  meets rfl rfl rfl rfl (by unfold Unfenced; decide +kernel)
theorem test_unknown_serial : Meets (tNames.modCur fun sl => { sl with x := [(20, 0x55), (21, 0x50000)] })
    (let s := tNames.modCur fun sl => { sl with x := [(20, 0x55), (21, 0x50000)] }
     raises (s.issuer (s.sl.name 20)) 0x96 = true ∧ (after (.nmres (tK 0 0 20 6)) s).sl.kcause = 0x96) := meets rfl rfl rfl rfl (by decide +kernel)

/-! ### Homes and replies -/

/-- The tests' state with an indirection entry for page 0x20: frame 0x20, VALID, of function 0. -/
def tHomed : State := (tState id).setDpit 0x20 (2 ^ 63 + 0x20)
/-- A request to the home of 0x200040. -/
def tReq (kind : BitVec 8) (payload : List Word) : Msg :=
  { kind := kind, unit := homeOf 0 0x200040, tag := regTag 0 false 6 0 0, seq := 9, launch := 1, payload := payload }
/-- The media byte of 0x200040. -/
def tMedia : Nat := mediaOfEntry (2 ^ 63 + 0x20) 0x200040

/-- `HomeReadsAndWrites`, `HomeAdmitsOwnersAndTableEntries`: a write and a read of 8 bytes by the owner, a masked line, poison, a page without an entry (R199,
R226, R235). -/
theorem test_home_writes :
    let s := tHomed
    let m := tReq 0x21 [0x200040, 8, 0x1122334455667788, 0]
    let w := tReq 0x21 ([0x200040, 0] ++ List.replicate 8 5 ++ [3, 0])
    let g := tReq 0x21 [0x300040, 8, 5, 0]
    m.srcChip = s.hub.chipId ∧ s.holder m = none ∧ s.findLine m 0x200040 false false true = .at tMedia (2 ^ 63 + 0x20) ∧
    dpitValid (s.dpit 0x20) = true ∧ homeOf (dpitPlacement (s.dpit 0x20)) 0x200040 = m.unit ∧ m.srcVf.toNat = dpitOwner (s.dpit 0x20) ∧
    s.findLine m 0x200040 false true false = .at tMedia (2 ^ 63 + 0x20) ∧ s.poison = [] ∧ (bytesOfWords (m.payload.drop 2)).length = 16 ∧
    (bytesOfWords (w.payload.drop 2)).length = 80 ∧ s.findLine g 0x300040 false true false = .refused 2 true ∧ s.hub.kmc = 0 ∧
    (after (.writeRequest m) s).load tMedia 8 = 0x1122334455667788 ∧ ((after (.writeRequest m) s).net.map fun r => (r.kind, r.payload)) = [(0x29, [0, 0])] ∧
    (after (.writeRequest w) s).load tMedia 8 = 5 ∧ ((after (.writeRequest g) s).net.map fun r => r.payload) = [[2, 0]] := by decide +kernel
theorem test_home_reads :
    let s := after (.writeRequest (tReq 0x21 [0x200040, 8, 0x1122334455667788, 0])) tHomed
    let m := tReq 0x20 [0x200040, 8]
    let p := { s with poison := [tMedia] }
    s.findLine m 0x200040 false true false = .at tMedia (2 ^ 63 + 0x20) ∧ s.poisoned tMedia 8 = false ∧ p.poisoned tMedia 8 = true ∧
    p.findLine m 0x200040 false true false = .at tMedia (2 ^ 63 + 0x20) ∧
    ((after (.readRequest m) s).net.map fun r => (r.kind, r.payload)) = [(0x29, [0, 0]), (0x28, [0, 0, 0x1122334455667788, 0])] ∧
    ((after (.readRequest m) p).net.map fun r => (r.kind, r.payload)) = [(0x29, [0, 0]), (0x28, [1, 0, 0, 0])] := by decide +kernel

/-- An access-table entry admits a function that does not own the page; without one it is refused (R428). -/
theorem test_access_table :
    let m := { tReq 0x20 [0x200040, 8] with srcVf := 5 }
    let s := tHomed.modStack m.unit fun u => { u with access := [(0, word (2 ^ 63 + 2 ^ 62 + 2 ^ 59 + 5 * 2 ^ 44))] }
    m.srcVf.toNat ≠ dpitOwner (tHomed.dpit 0x20) ∧ tHomed.findLine m 0x200040 false true false = .refused 2 false ∧
    s.findLine m 0x200040 false true false = .at tMedia (2 ^ 63 + 0x20) := by decide +kernel

/-- `HomeWatchesHintsAndQueries`: a prefetch, a hint, a query, a watch that is held and one that fires (R213 to R215, R240, R241). -/
theorem test_home_others :
    let s := tHomed
    let p := tReq 0x24 [0x200040, 2]
    let q := tReq 0x3E [0x200040, 0]
    let h := tReq 0x3D [0x200040, 2]
    let w := tReq 0x25 [0x200040, 0, 0, 0]
    let f := tReq 0x25 [0x200040, 0, 7, 0]
    s.holder p = none ∧ s.parks p = false ∧ s.findLine w 0x200040 false true false = .at tMedia (2 ^ 63 + 0x20) ∧
    s.findLine p 0x200040 false true false = .at tMedia (2 ^ 63 + 0x20) ∧ s.findLine h 0x200040 false false false = .at tMedia (2 ^ 63 + 0x20) ∧
    Memory.wf s.mem = true ∧ s.poisoned tMedia 8 = false ∧ (s.launch 1).repro = false ∧ s.fires w = false ∧ s.fires f = true ∧ (s.stack w.unit).watches.length < 16384 ∧
    dpitHint ((after (.hintRequest h) s).dpit 0x20) = 2 ∧ ((after (.queryRequest q) s).net.map fun r => r.payload.getD 2 0) = [word (2 ^ 63 + 0x20)] ∧
    ((after (.prefetchRequest p) s).stack p.unit).readBuf = [0x8001, 0x8002] ∧ ((after (.prefetchRequest p) s).stack p.unit).heat.get 0x20 0 = 1 ∧ s.weak = [] ∧
    ((after (.watchRequest w) s).stack w.unit).watches = [w] ∧ ((after (.watchRequest f) s).net.map fun r => r.kind) = [0x02] := by decide +kernel

/-- `SpilledWatchesAreReadAgain`: one that stays and one that resumes (R214). -/
theorem test_spilled_watches :
    let s := tHomed.modStack 3 fun u => { u with spill := [tReq 0x25 [0x200040, 0, 0, 0], tReq 0x25 [0x200040, 0, 7, 0]] }
    (∀ m ∈ (s.stack 3).spill, (s.launch m.launch).repro = false ∧ m.srcChip = s.hub.chipId) ∧
    ((after (.watchSpillReread 3) s).stack 3).spill = [tReq 0x25 [0x200040, 0, 0, 0]] ∧ (after (.watchSpillReread 3) s).net.length = 1 := by decide +kernel

/-- `HomeAtomics`: the old word is 5, and the comparand 5 or not; signed and natural orders; a reduction (R268 to R272). -/
theorem test_home_atomics :
    let s := { tHomed with mem := memWriteBytes tHomed.mem tMedia (toBytes 8 5) }
    let m := fun (op : Word) (v c : Word) => tReq 0x30 [0x200040, op, v, 0, c, 0]
    let new := fun (m : Msg) => word ((after (.atomicRequest m) s).load tMedia 8)
    s.holder (m 0 1 0) = none ∧ s.parks (m 0 1 0) = false ∧ s.findLine (m 0 1 0) 0x200040 false true true = .at tMedia (2 ^ 63 + 0x20) ∧
    s.poisoned tMedia 16 = false ∧ s.poisoned tMedia 8 = false ∧ (m 0 1 0).payload.length = 6 ∧ s.load tMedia 8 = 5 ∧ s.windowAt (devOf 0x200040) = none ∧
    s.poisoned tMedia (redSize 0) = false ∧ new (m 0 3 0) = 8 ∧ new (m 1 (-1) 0) = -1 ∧ new (m 0x11 (-1) 0) = 5 ∧ new (m 2 (-1) 0) = 5 ∧ new (m 0x12 (-1) 0) = -1 ∧
    new (m 3 4 0) = 4 ∧ new (m 4 2 0) = 7 ∧ new (m 5 1 0) = 4 ∧ new (m 6 9 0) = 9 ∧ new (m 7 9 5) = 9 ∧ new (m 7 9 6) = 5 ∧ new (m 0x26 9 0) = 9 ∧
    ((after (.atomicRequest (m 0 3 0)) s).net.map fun r => (r.kind, r.payload)) = [(0x33, [0, 0, 5, 0])] ∧
    ((after (.reductionRequest (tReq 0x31 [0x200040, 0, 2, 0])) s).net.map fun r => r.kind) = [0x33] := by decide +kernel

/-- A barrier object at 0x200040: of 3, live, with arrivals in a phase and one waiter. -/
def tBarrier (count phase : Nat) : State :=
  let o := toBytes 4 3 ++ toBytes 4 count ++ toBytes 4 phase ++ toBytes 4 0 ++ toBytes 2 2 ++ [1, 0]
  { tHomed with mem := memWriteBytes tHomed.mem tMedia o }.modStack (homeOf 0 0x200040) fun u => { u with waiters := [{ tReq 0x32 [0x200040, 3, 4, 0] with seq := 7 }] }

/-- `BarrierObjectPhases`: a first object; a join, an arrival, the last arrival of a phase, and a wait (R279 to R283). -/
theorem test_barrier_object :
    let s := tBarrier 0 4
    let b := fun (op n : Nat) (v : Word) => tReq 0x32 [0x200040, word (op + n * 256), v, 0]
    let at_ := fun (t : State) (o n : Nat) => t.load (tMedia + o) n
    s.holder (b 2 1 0) = none ∧ s.parks (b 2 1 0) = false ∧ s.findLine (b 2 1 0) 0x200040 false true true = .at tMedia (2 ^ 63 + 0x20) ∧ s.poisoned tMedia 256 = false ∧
    Memory.wf s.mem = true ∧ at_ s 18 1 = 1 ∧ at_ s 16 2 < 1024 ∧ bitOf (at_ s 64 1) 1 = false ∧ at_ s 4 4 + 1 ≠ at_ s 0 4 ∧ at_ s 8 4 = 4 ∧ at_ s 12 4 = 0 ∧
    at_ tHomed 18 1 ≠ 1 ∧ at_ (after (.barrierOperation (b 1 0 8)) tHomed) 0 4 = 8 ∧
    at_ (after (.barrierOperation (b 0 0 0)) s) 16 2 = 3 ∧ at_ (after (.barrierOperation (b 2 1 0)) s) 4 4 = 1 ∧ at_ (after (.barrierOperation (b 2 1 0)) s) 64 1 = 2 ∧
    at_ (tBarrier 2 4) 4 4 + 1 = at_ (tBarrier 2 4) 0 4 ∧ bitOf (at_ (tBarrier 2 4) 64 1) 1 = false ∧
    at_ (after (.barrierOperation (b 2 1 0)) (tBarrier 2 4)) 8 4 = 5 ∧ at_ (after (.barrierOperation (b 2 1 0)) (tBarrier 2 4)) 4 4 = 0 ∧
    ((after (.barrierOperation (b 2 1 0)) (tBarrier 2 4)).stack (b 2 1 0).unit).waiters = [] ∧
    ((after (.barrierOperation (b 3 1 4)) s).stack (b 3 1 4).unit).waiters.length = 2 := by decide +kernel

/-- A slot with one request out, of sequence 9, that a reply ends. -/
def tOut (use : FarUse) (w : Wait) : State :=
  tState fun sl => { sl with wait := w, far := [{ gen := 0, seq := 9, kind := 0x20, va := 0x200044, ga := 0x200044, unit := 0, chip := 0, use := use }] }
/-- A reply to it with a status and a value. -/
def tAnswer (status v : Word) : Msg := tReq 0x28 [status, 0, v, 0]

/-- `RepliesFillAndComplete`: a reply to nothing; a fill of 4 signed bytes; a marker; a blocking load that ends, or traps; a store's and a posted write's
acknowledgement (R103, R199, R202). -/
theorem test_replies :
    let s := tOut (.fillX 6 4 1 true) .none
    let b := tOut .blocking (.blocked (.load 6 4 true) 1 [])
    let st := tOut .blocking (.blocked .store 1 [])
    let p := tOut .posted .none
    let m := tAnswer 0 0x80000000
    tagKind m.tag = 2 ∧ s.parks m = false ∧ b.parks m = false ∧ tagSlotKey m.tag = 0 ∧ tagGen m.tag = (s.slot 0).gen ∧ (s.slot 0).phase = .running ∧
    ((s.slot 0).far.find? fun f => f.gen == tagGen m.tag && f.seq == m.seq) = (s.slot 0).far.head? ∧
    (((tState id).slot 0).far.find? fun f => f.gen == tagGen m.tag && f.seq == m.seq) = none ∧ (b.slot 0).wait = .blocked (.load 6 4 true) 1 [] ∧
    (st.slot 0).wait = .blocked .store 1 [] ∧ (p.slot 0).far.length = 1 ∧ replyStatus m = 0 ∧ replyStatus (tAnswer 1 0) = 1 ∧
    (after (.readReply m) s).sl.xr 6 = 0xFFFFFFFF80000000 ∧ (after (.readReply (tAnswer 1 0)) s).sl.xmark 6 = .marked 0x60 0x200044 ∧
    (after (.readReply m) b).sl.pc = 0x1044 ∧ (after (.readReply (tAnswer 2 0)) b).sl.kcause = 0x5A ∧ (after (.writeAcknowledgement m) st).sl.pc = 0x1044 ∧
    (after (.writeAcknowledgement m) p).sl.far = [] := by decide +kernel

/-- `HandlerMessagesQueueAtTheirChannel`: an assigned context of a launch, and one without (R104 to R108). -/
theorem test_handler_message :
    let s := tState id
    let m : Msg := { kind := 0, chan := 9, key := 5, seq := 1, launch := 1, payload := [1, 2] }
    let o := s.modCtx 0 0 fun c => { c with launch := 0 }
    m.srcChip = s.hub.chipId ∧ (s.ctx 0 0).launch ≠ 0 ∧ (s.launch 1).killing = false ∧ (s.launch 1).repro = false ∧ (s.ctx 0 0).held = [] ∧ (s.ctx 0 0).inbound < 128 ∧
    (s.ctx 0 0).saved = false ∧ (s.ctx 0 0).repro = false ∧ m.kind ≠ 0x03 ∧ (o.ctx 0 0).launch = 0 ∧ s.itemsGone m.launch = false ∧
    (((after (.handlerMessage m) s).ctx 0 0).chans.get 9 {}).pending = true ∧ (((after (.trapReport m) s).ctx 0 0).chans.get 255 {}).queue.length = 1 ∧
    fld ((after (.handlerMessage m) o).ctx 0 0).ctxErr 16 16 = 1 ∧
    ({ s with hub := { s.hub with launches := [(1, { state := 2, est := some 0 })], ests := [(0, { state := 2 })] } }).itemsGone m.launch = true := by decide +kernel

/-- `ClauseMessagesTakeEffect`: a group that a reply fills, a suspended record that resumes, a spawn, and the exit of child 4 of a family (R103, R110 to R113, R117,
R125, R130). -/
theorem test_clause_messages :
    let a : Ask := { gen := 0, ctx := 0, vec := false, reg := 6, count := 1, desc := 0 }
    let r : Rec := { state := .suspended, clause := { launch := 1, homed := true, prio := 5 }, family := { joinBase := 2 } }
    let s := (tEntries (tState fun sl => { sl with asks := [a], xm := [(6, .empty)] })).modCtx 0 0 fun c => { c with recs := [(3, r), (4, { r with state := .running })] }
    let m : Msg := { kind := 0x01, tag := regTag 0 false 6 0 0, launch := 1, payload := [42, 0] }
    let w : Msg := { kind := 0x02, tag := recTag 3 0, launch := 1, payload := [1, 2] }
    let sp : Msg := { kind := 0x03, launch := 1, payload := [0x40, 0, word (3 * 2 ^ 32), 0] }
    let e : Msg := { kind := 0x04, tag := recTag 4 0, launch := 1, payload := [77, 6] }
    s.parks m = false ∧ tagSlotKey m.tag = 0 ∧ ((s.slot 0).asks.find? fun a => a.gen == tagGen m.tag && a.vec == tagVec m.tag && a.reg == tagReg m.tag) = some a ∧
    a.gen = (s.slot 0).gen ∧ m.rstat = 0 ∧ w.chan ≠ 1 ∧ tagCore w.tag = 0 ∧ tagIndex w.tag = 3 ∧ (s.record 0 0 3).state = .suspended ∧ s.resumeCore (s.record 0 0 3) = 0 ∧
    (s.ctx 0 0).saved = false ∧ (s.ctx 0 0).repro = false ∧ (s.ctx 0 0).held = [] ∧ (s.ctx 0 0).inbound < 128 ∧ (s.record 0 0 4).state = .running ∧
    ((e.payload.getD 1 0).setWidth 32 - (s.record 0 0 4).family.joinBase).toNat = 4 ∧ fld (e.payload.getD 1 0) 32 1 = 0 ∧
    (after (.registerReply m) s).sl.xr 6 = 42 ∧ (after (.registerReply m) s).sl.xmark 6 = .full ∧ ((after (.resume w) s).record 0 0 3).state = .runnable ∧
    ((after (.resume w) s).ctx 0 0).pool.map (fun q => q.prio) = [5] ∧ ((after (.spawnMessage sp) s).ctx 0 0).pool.map (fun q => q.kind) = [.child] ∧
    ((after (.exitReport e) s).record 0 0 4).family.arrived = 0x10 ∧ ((after (.exitReport e) s).record 0 0 4).family.results.get 4 0 = 77 ∧
    s.tableLine 0 0 (s.recordVa 0 0 3) = .ok (0x2300C0, homeOf 0 0x2300C0) ∧ (after (.resume { w with rstat := 2 }) s).devLoad 0x2300D0 2 = 0x20 ∧
    s.tableLine 0 0 (s.familyVa 0 0 4 + 64) = .ok (0x241040, homeOf 0 0x241040) ∧ (after (.exitReport e) s).devLoad (0x241040 + 32) 8 = 77 ∧
    (after (.exitReport e) s).devLoad (0x241000 + 16) 8 = 0x10 := by decide +kernel

/-! ### Fetch, dispatch and departure -/

/-- Slot 0 asks for the line of an address, whose page may be executed. -/
def tFetching (pc : Word) : State :=
  let s := tHomed.modSlot 0 fun sl => { sl with pc := pc, fetching := true }
  s.modCore 0 fun c => { c with tlb := (0, 0, 0x23, word (1 + 2 ^ 7 + 0x20 * 65536)) :: (0, 0, 0x20, word (1 + 2 ^ 7 + 2 ^ 9 + 0x20 * 65536)) :: c.tlb }

/-- `FetchPortDeliversLines`: a page that may be executed, one that may not, and none (R93). -/
theorem test_fetch_port :
    let s := tFetching 0x200044
    let m : Msg := { unit := homeOf 0 0x200040 }
    s.nextFetcher 0 = some 0 ∧ s.asking 0 = [0] ∧ (match s.leafFor 0 (s.asid 0) 0x200040 with | .ok l ps => leafX l && s.globalOf l ps 0x200040 == 0x200040 | .fail _ => false) = true ∧
    chipOf 0x200040 = s.hub.chipId ∧ s.hub.moves = [] ∧ m.srcVf = BitVec.ofNat 7 (s.ctx 0 (s.slot 0).clause.ctx).vf ∧
    s.findLine m 0x200040 false true false = .at tMedia (2 ^ 63 + 0x20) ∧ s.poisoned tMedia 64 = false ∧ 0 ∈ s.sharing 0 0x200040 0 ∧
    (match (tFetching 0x230000).leafFor 0 0 0x230000 with | .ok l _ => leafX l | .fail _ => true) = false ∧ (after (.fetchLineDelivery 0) s).sl.fetching = false ∧
    (after (.fetchLineDelivery 0) s).sl.line = some { va := 0x200040, asid := 0, data := 0 } ∧ (after (.fetchLineDelivery 0) (tFetching 0x230000)).sl.kcause = 0x52 ∧
    (match s.leafFor 0 0 0x240000 with | .fail _ => true | .ok _ _ => false) = true ∧ (after (.fetchLineDelivery 0) (tFetching 0x240000)).sl.phase = .frozen := by decide +kernel

/-- `WatchdogEndsTheClause`: the bound reached, and not reached; a report that waits for room in the ring (R96, R406). -/
theorem test_watchdog :
    let s := tState fun sl => { sl with cycles := 100, kwdog := 100 }
    let u := { (tState fun sl => { sl with phase := .frozen, ringReport := some [1, 2] }) with hub := { (tState id).hub with ktrap := 0x400000, ktrapTail := 3 } }
    (s.slot 0).phase = .running ∧ (s.slot 0).kwdog.toNat ≤ (s.slot 0).cycles ∧ (s.slot 0).acked = true ∧ (s.slot 0).fwd = [] ∧ (s.slot 0).clause.regs = [] ∧
    (let t := s.modSlot 0 fun sl => { sl with cycles := 99 }; (t.slot 0).cycles < (t.slot 0).kwdog.toNat ∧ after (.watchdog 0) t = t) ∧
    (u.slot 0).ringReport = some [1, 2] ∧ ringFull u.hub.ktrapHead u.hub.ktrapTail 4096 = false ∧ (after (.watchdog 0) s).sl.kcause = 0x11 ∧
    (after (.watchdog 0) s).sl.phase = .free ∧ (after (.trapRingEntry 0) u).hub.ktrapTail = 4 := by decide +kernel

/-- A state whose slot 1 is free and whose channel 9 has a message and a handler at 0x80. -/
def tDispatch : State :=
  let m : Msg := { key := 5, seq := 7, chan := 9, payload := [11, 12], launch := 1 }
  (tState id).modCtx 0 0 fun c => { c with wdog := 500, chans := [(9, { enable := true, pending := true, entry := word (0x80 + 2 ^ 36), queue := [m] })] }

/-- `DispatchAndDeparture`: the pick, the free slot and its next generation; a halted cluster; departures that wait and that do not (R104, R106, R108, R109). -/
theorem test_dispatch :
    let s := tDispatch
    let d := (tState id).modCluster 0 fun c => { c with dbg := { c.dbg with halted := true } }
    let o : Out := { msg := {}, slot := 0, gen := 0, seqs := [], fwd := 0 }
    let q := fun (l : List Out) => (tState id).modCore 0 fun c => { c with outq := l }
    (s.debug (clusterOf 0)).halted = false ∧ (d.debug (clusterOf 0)).halted = true ∧ s.idleSlot 0 = some 1 ∧ 0 = ((s.core 0).lastCtx + 1) % 4 ∧
    s.pickOf 0 0 = some (.chan 9) ∧ ((s.ctx 0 0).chans.get 9 {}).queue.length = 1 ∧ (((s.ctx 0 0).chans.get 9 {}).queue.headD {}).kind ≠ 0x08 ∧
    entryValid ((s.ctx 0 0).chans.get 9 {}).entry = true ∧ (s.ctx 0 0).held = [] ∧ nextGen (s.slot 1).owed (s.slot 1).gen 1024 = some 1 ∧
    ((after (.handlerDispatch 0) s).slot 1).pc = 0x1080 ∧ ((after (.handlerDispatch 0) s).slot 1).xs 16 2 = [11, 12] ∧ ((after (.handlerDispatch 0) s).slot 1).kpath = mix 5 7 ∧
    after (.handlerDispatch 0) d = d ∧ ((q [o]).core 0).outq = [o] ∧ ((after (.messageDeparture 0) (q [o])).core 0).outq = [] ∧
    (let p := { o with seqs := [3] }; ((after (.messageDeparture 0) (q [p, o])).core 0).outq = [p, o]) := by decide +kernel

/-! ### Copy engines -/

/-- A descriptor of rows of `n` bytes from `src` to `dst`, 64 bytes apart, with a CTL byte (R349). -/
def tCopy (src dst n ctl : Nat) : List Byte :=
  toBytes 6 src ++ toBytes 6 dst ++ toBytes 6 0 ++ toBytes 6 0 ++ toBytes 4 0 ++ toBytes 4 0 ++ toBytes 4 64 ++ toBytes 4 0 ++ toBytes 4 0 ++ toBytes 4 64 ++
    toBytes 2 n ++ toBytes 2 1 ++ toBytes 2 1 ++ [0x99, 0xE4, BitVec.ofNat 8 ctl, 0] ++ toBytes 2 0 ++ toBytes 4 0
/-- The state with a descriptor in the operand store at x10. -/
def tCpy (d : List Byte) : State := (tState fun sl => { sl with x := [(5, 3), (6, 0x1000000), (7, 8), (10, 0xF00000000100)] }).nearStore 0 (.operand (operandAddr 0 0x100)) d

/-- `CopyCommandsAreQueued`: a command of each engine, a malformed descriptor, a count that is too large, and an address that is not aligned (R352, R353, R355,
R358). -/
theorem test_copy : Meets (tCpy (tCopy 0x200000 0xF00001000000 64 0)) (let s := tCpy (tCopy 0x200000 0xF00001000000 64 0)
    let d := s.nearBytes 0 (.operand (operandAddr 0 0x100)) 64
    (s.sl.xr 7).toNat % 64 ≠ 0 ∧ (s.sl.xr 10).toNat % 64 = 0 ∧ Unfenced s ∧ s.sl.fetched = [] ∧ s.access 0 .read (s.sl.xr 10) 64 = .ok (.near (.operand (operandAddr 0 0x100))) ∧
    s.nearError (.operand (operandAddr 0 0x100)) 64 = none ∧ malformed d false = false ∧ dGuard d = false ∧ 2 ^ 24 ≤ (s.sl.xr 6).toNat ∧ (s.sl.xr 5).toNat < 2 ^ 24 ∧
    countMalformed d 3 = false ∧ s.sl.kprog.toNat < 3 ∧ endpointOk false (dSrc d) (srcSpan d 0 2) false = true ∧ isNear (dDst d) = true ∧
    endpointOk false (dDst d) (dstSpan d 0 2) false = true ∧ isNear (dArrive d) = false ∧ dArrive d % 8 = 0 ∧ streaming d 3 0 = false ∧ (s.engine 0).queue.length < queueLimit 0 ∧
    (after (.cpy (tK 0 5 10 20)) s).sl.xr 20 = 0xC100000000000000 ∧ ((after (.cpy (tK 0 5 10 20)) s).engine 0).queue.length = 1 ∧
    (after (.cpy (tK 0 6 10 20)) s).sl.kcause = 0xA3 ∧ (after (.cpy (tK 0 5 7 20)) s).sl.kcause = 0xA1) := meets rfl rfl rfl rfl (by unfold Unfenced; decide +kernel)
theorem test_transfer : Meets (tCpy (tCopy 0x200000 0x210000 64 0)) (let s := tCpy (tCopy 0x200000 0x210000 64 0)
    let d := s.nearBytes 0 (.operand (operandAddr 0 0x100)) 64
    malformed d true = false ∧ endpointOk true (dSrc d) (srcSpan d 0 2) false = true ∧ endpointOk true (dDst d) (dstSpan d 0 2) false = true ∧
    (s.engine 512).queue.length < queueLimit 512 ∧ (after (.xfer (tK 0 5 10 20)) s).sl.xr 20 = 0xC200000000000000) := meets rfl rfl rfl rfl (by decide +kernel)
theorem test_copy_malformed : Meets (tCpy (tCopy 0x200000 0xF00001000000 64 0x40)) (let s := tCpy (tCopy 0x200000 0xF00001000000 64 0x40)
    malformed (s.nearBytes 0 (.operand (operandAddr 0 0x100)) 64) false = true ∧ (after (.cpy (tK 0 5 10 20)) s).sl.kcause = 0xA1) := meets rfl rfl rfl rfl (by decide +kernel)

/-- A command of engine 0 that copies rows of 8 bytes from tile 0 to tile 1. -/
def tCmd (row stop : Nat) : Cmd :=
  { id := 0xC100000000000000, vf := 0, asid := 0, launch := 1, core := 0, ctx := 0, desc := tCopy 0xF00001000000 0xF00001001000 8 0, count := 3, start := 0, row := row,
    stop := stop, running := true }
/-- The engine with a command running or in its queue; the engine owns tiles 0 and 1. -/
def tEngine (running : Option Cmd) (queue : List Cmd) (kept : List (Word × Word × Nat)) : State :=
  (tState fun sl => { sl with x := [(5, 0xC100000000000000), (6, 0xC300000000000000)] }).modCluster 0 fun c =>
    { c with owner := [(0, true), (1, true)], engine := { running := running, queue := queue, kept := kept } }

/-- `CopyIdsAreAnswered`: an id of another type; one that has ended, one that is queued and one that runs (R358, R360, R363). -/
theorem test_copy_ids_ended : Meets (tEngine none [] [(0xC100000000000000, 0x2000000000000003, 0)]) (let s := tEngine none [] [(0xC100000000000000, 0x2000000000000003, 0)]
    let id := s.sl.xr 5
    (fld id 56 8 = 0xC1 ∧ fld id 39 9 = 0 ∧ fld id 32 7 = 0 ∧ fld id 48 7 = s.curCtx.vf) ∧ fld (s.sl.xr 6) 56 8 ≠ 0xC1 ∧ fld (s.sl.xr 6) 56 8 ≠ 0xC2 ∧
    (s.engine 0).running = none ∧ ((s.engine 0).queue.find? fun c => c.id == id) = none ∧ (after (.cpyq (tK 0 0 5 20)) s).sl.xr 20 = 0x2000000000000003 ∧
    ((after (.cpyw (tK 0 0 5 20)) s).engine 0).kept = [] ∧ (after (.cpystop (tK 0 0 6 20)) s).sl.kcause = 0xA4) := meets rfl rfl rfl rfl (by decide +kernel)
theorem test_copy_ids_running : Meets (tEngine (some (tCmd 2 0)) [] []) (let s := tEngine (some (tCmd 2 0)) [] []
    (s.engine 0).running = some (tCmd 2 0) ∧ (tCmd 2 0).id = s.sl.xr 5 ∧ (after (.cpyq (tK 0 0 5 20)) s).sl.xr 20 = 0x1000000000000002 ∧ after (.cpyw (tK 0 0 5 20)) s = s ∧
    ((after (.cpystop (tK 0 0 5 20)) s).engine 0).running = some (tCmd 2 1)) := meets rfl rfl rfl rfl (by decide +kernel)
theorem test_copy_ids_queued : Meets (tEngine none [tCmd 0 0] []) (let s := tEngine none [tCmd 0 0] []
    (s.engine 0).running = none ∧ ((s.engine 0).queue.find? fun c => c.id == s.sl.xr 5) = some (tCmd 0 0) ∧ (∀ q ∈ (s.engine 0).kept, q.1 ≠ s.sl.xr 5) ∧
    (after (.cpystop (tK 0 0 5 20)) s).sl.xr 20 = 0x3000000000000000 ∧ ((after (.cpystop (tK 0 0 5 20)) s).engine 0).queue = []) := meets rfl rfl rfl rfl (by decide +kernel)

/-- `EnginesRunCommands`: the start, a row between tiles, the ends, and a chunk that is reported (R347, R350, R357, R359). -/
theorem test_engine_start :
    let s := tEngine none [tCmd 0 0] []
    (s.engine 0).running = none ∧ s.engineHalted 0 = false ∧ roundRobin (s.engine 0).lastVf (queuedVfs (s.engine 0).queue) = some (tCmd 0 0).vf ∧
    ((s.engine 0).queue.find? fun d => d.vf == (tCmd 0 0).vf) = some (tCmd 0 0) ∧ (after (.engineCommandStart 0) s).agenda = [.engineRow 0] ∧
    (let t := tEngine (some (tCmd 0 0)) [] []; (t.engine 0).running ≠ none ∧ after (.engineCommandStart 0) t = t) := by decide +kernel
theorem test_engine_row :
    let s := { tEngine (some (tCmd 0 0)) [] [] with mem := memWriteBytes [] (padAddr 0 0) (List.replicate 8 7) }
    let c := tCmd 0 0
    let r := s.readRuns 0 c {} (sourcePieces c.desc c.row)
    let acc := rowBytes c 0 r.2.2
    (s.engine 0).running = some c ∧ c.left = 0 ∧ c.awaits = none ∧ bit c.id 55 = false ∧ c.stop = 0 ∧ c.row + 1 < c.count ∧ dChunk c.desc = 0 ∧ r.1 = s ∧
    r.2.1.fault = none ∧ r.2.1.held = false ∧ r.2.1.missing = [] ∧ s.partialBytes 0 c (rowBytes c 0 []) = [] ∧
    ((linesOf acc).all fun l => match s.engineAccess 0 c (64 * l) 64 true with | .near a => a == padAddr 0 (64 * l - padVa) | _ => false) = true ∧
    ((after (.engineRow 0) s).engine 0).running.map (fun d => d.row) = some 1 ∧ (after (.engineRow 0) s).load (padAddr 0 4096) 8 = 0x0707070707070707 := by decide +kernel
theorem test_engine_ends :
    let ended := fun (c : Cmd) => ((after (.engineRow 0) (tEngine (some c) [] [])).engine 0).kept.map fun k => k.2.1
    ended (tCmd 1 1) = [0x3000000000000001] ∧ ended (tCmd 1 2) = [0x5000000000000001] ∧ ended (tCmd 3 0) = [0x2000000000000003] ∧
    (let c := { tCmd 3 0 with awaits := some (0, 0) }
     let s := tEngine (some c) [] []
     (s.engine 0).running = some c ∧ c.left = 0 ∧ c.awaits = some (0, 0) ∧ dArrive c.desc = 0 ∧ dAmsg c.desc = false ∧ (after (.chunkArrival 0) s).agenda = [.engineRow 0]) ∧
    (let d := tCopy 0x200000 0x210000 64 0
     dSfmt d = 9 ∧ dDfmt d = 9 ∧ dMx d = false ∧ dsc d 55 1 = 0xE4 ∧ dN d 1 = 1 ∧ dN d 2 = 1 ∧ 63 < dN d 0 ∧ (dDst d : Int) + 2 * dD d 3 + dN d 0 < 2 ^ 48) := by decide +kernel

/-! ### Tensed words, budgets, the hub and names -/

/-- A word at 0x210000 of value 5, last touched at tick 90 of 100, under a law that integrates by 1; its page is swept (R297, R299, R304). -/
def tTensed (alarms : List Alarm) (tense : Nat) : State :=
  let s := (tState id).setDpit 0x21 (2 ^ 63 + 0x21)
  let s := { s with ktick := 100, hub := { s.hub with tensed := [(0x21, none)], vfs := [(0, { law := some [2, 0x7FFFFFFFFFFFFFFF, 1, 0] })], passStart := 50 } }
  (s.modStack (homeOf 0 0x210000) fun u => { u with alarms := alarms }).devWrite 0x210000 (toBytes 8 5 ++ toBytes 8 (90 + tense))
/-- A request for it. -/
def tAsk (op : Nat) (v : Word) : Msg :=
  { kind := 0x34, unit := homeOf 0 0x210000, tag := regTag 0 false 6 0 0, seq := 9, launch := 1, payload := [0x210000, word op, v, 0] }

/-- `WordsAreTouchedAtTheirLaw`: a load, an addition and a setting; an alarm that is due and none; a sweep of a word of device time and of window time. -/
theorem test_tensed_requests :
    let s := tTensed [] 0
    let m := tAsk 1 3
    let media := mediaOfEntry (2 ^ 63 + 0x21) 0x210000
    let low := fun (t : State) => t.devLoad 0x210000 8
    s.holder m = none ∧ s.parks m = false ∧ m.rpay = false ∧ (s.stack m.unit).crossings.length < 256 ∧
    s.findLine m 0x210000 false false true = .at media (2 ^ 63 + 0x21) ∧ s.findLine m 0x210000 false true false = .at media (2 ^ 63 + 0x21) ∧
    s.hub.tensed.find (pageOf 0x210000) = some none ∧ s.load (media + 8) 8 = s.devLoad 0x210008 8 ∧ (s.lawFor 0x210000 90).isSome = true ∧ twMalformed 90 = false ∧
    s.poisoned media 16 = false ∧ twAt m = false ∧ twClock m = false ∧ (s.lawFor 0x210000 90).map (fun l => (l.base, l.kind, l.crossed 18, l.crossed 3)) = some (0, 2, false, false) ∧
    low (after (.tensedRequest m) s) = 18 ∧ s.devLoad 0x210008 4 = 90 ∧ (after (.tensedRequest m) s).devLoad 0x210008 4 = 100 ∧
    low (after (.tensedRequest (tAsk 2 3)) s) = 3 ∧ ((after (.tensedRequest (tAsk 0 0)) s).net.map fun r => r.payload) = [[0, 0, 15, 0]] := by decide +kernel
theorem test_alarms_and_sweep :
    let x : Alarm := { addr := 0x210000, tick := 95, base := 0, shift := 0, win := false }
    let s := tTensed [x] 0
    let u := homeOf 0 0x210000
    firstAlarm ((s.stack u).alarms.filter fun y => s.alarmDue y) = some x ∧ (s.lawFor 0x210000 90).isSome = true ∧
    s.media 0x210000 = some (mediaOfEntry (2 ^ 63 + 0x21) 0x210000) ∧ (x.tick.toNat + 2 ^ 32 - twLast 90) % 2 ^ 32 < 2 ^ 31 ∧ (after (.alarm u) s).devLoad 0x210008 4 = 95 ∧
    firstAlarm (((tTensed [] 0).stack u).alarms.filter fun y => (tTensed [] 0).alarmDue y) = none ∧ s.ktick.toNat < s.hub.passStart + 2 ^ 30 ∧ twWin 90 = false ∧
    (s.stack (s.homeUnit 0x210000)).crossings.length < 256 ∧ twWin (word ((tTensed [] (2 ^ 46)).devLoad 0x210008 8)) = true ∧
    (after (.sweepTouch 0x210000) (tTensed [] 0)).devLoad 0x210000 8 = 15 ∧ (after (.sweepTouch 0x210000) (tTensed [] (2 ^ 46))).devLoad 0x210000 8 = 5 := by decide +kernel

/-- `CrossingsAndBudgets`: the head of a crossing queue; a charge and none; a budget crossing down, with the budget there and not (R309, R310, R381, R382). -/
def tBudget (held : Nat) : State :=
  let s := { tTensed [] 0 with hub := { (tTensed [] 0).hub with klawTable := some [0x40002, 0, 1, 0], vfs := [(0, { bud := word (2 ^ 63 + held * 2 ^ 62 + 0x21000 * 2 ^ 16) })] } }
  (s.modCtx 0 0 fun c => { c with charge := 6 }).modStack (homeOf 0 0x210000) fun u => { u with crossings := [{ chan := 8, payload := [1, 2, 3, 4, 0, 0x210000] }] }
theorem test_crossings :
    let s := tBudget 0
    let u := homeOf 0 0x210000
    let h : Msg := { chan := 8, payload := [1, 2, 3, 4, 0, 0x210000] }
    let m : Msg := { kind := 0, unit := u }
    let b : Msg := { payload := [0, 0, 0] }
    (s.stack u).crossings = [h] ∧ h.rpay = false ∧
    dpitKernel ((s.devWrite 0x210008 (toBytes 8 (withFld (word (s.devLoad 0x210008 8)) 42 1 0).toNat)).dpit (pageOf 0x210000)) = false ∧
    s.ctxOfVf (s.served h.dstCore.toNat) h.srcVf.toNat = some 0 ∧ ((after (.crossing m) s).stack u).crossings = [] ∧ ((after (.crossing m) s).net.map fun q => q.chan) = [8] ∧
    (s.ctx 0 0).charge ≠ 0 ∧ bit (s.vf (s.ctx 0 0).vf).bud 63 = true ∧ ((tState id).ctx 0 0).charge = 0 ∧
    ((after (.budgetChargeReport 0 0) s).net.map fun q => q.payload) = [[0x210000, 1, wordInt (-(6 * 2 ^ 32)), 0]] ∧ s.hub.klawTable = some [0x40002, 0, 1, 0] ∧
    (lawAt [0x40002, 0, 1, 0] (fld (b.payload.getD 2 0) 8 8)).map (fun l => l.down) = some true ∧ bit (s.vf 0).bud 62 = false ∧ bit ((tBudget 1).vf 0).bud 62 = true ∧
    ((after (.budgetCrossing b) s).ctx 0 0).preempted = true ∧ after (.budgetCrossing b) (tBudget 1) = tBudget 1 := by decide +kernel

/-- A hub request of function 0. -/
def tHubAsk (p : List Word) : Msg := { kind := 0x36, unit := 17, tag := regTag 0 false 6 0 0, seq := 9, launch := 1, payload := p }
/-- A hub with a law table, a queue and two launches, one QUEUED, with names. -/
def tHub (law : Option (List Word)) : State :=
  let l : Tab Launch := [(1, { state := 2, live := 1, name := 0x77 }), (2, { state := 0, queue := 3, name := 0x78 })]
  { tState id with hub := { (tState id).hub with launches := l, nametab := 16 + 2 ^ 20, issued := 5, queues := [(3, word (2 ^ 63))], vfs := [(0, { law := law, ctl := word (2 ^ 63), bases := [(2, 9)] })] } }

/-- `HubAnswersRequests`: each request with the state that it needs (R316, R317, R372, R394). -/
theorem test_hub_requests :
    let s := tHub (some [7, 8, 9, 10])
    let ans := fun (s : State) (p : List Word) => (after (.hubRequest (tHubAsk p)) s).net.map fun r => r.payload
    (tHubAsk []).srcChip = s.hub.chipId ∧ s.parks (tHubAsk []) = false ∧ (s.vf 0).law = some [7, 8, 9, 10] ∧ ((tHub none).vf 0).law = none ∧ s.hub.tensed = [] ∧
    s.launchNamed 0x78 = some 2 ∧ s.launchNamed 0x79 = none ∧ (s.launch 2).state = 0 ∧ (s.launch 2).waiting = [] ∧ (s.launch 2).est = none ∧ s.queueOpen 4 0 = false ∧
    s.queueOpen 3 0 = true ∧ (s.newLaunchName 0 0).isSome = true ∧ ans s [1, 0x200] = [[0, 0, 9, 0]] ∧ ans (tHub none) [1, 0] = [[5, 0]] ∧ ans (tHub none) [0, 0, 4, 0] = [[5, 0]] ∧
    ans s [0, 0x100, 4, 0] = [[0, 0]] ∧ ans s [2, 2, 5, 0] = [[0, 0, 14, 0]] ∧ ans s [4, 0x78, 0, 0] = [[0, 0, s.launchStatus 2, 0]] ∧ ans s [4, 0x79, 0, 0] = [[0, 0, word (7 * 2 ^ 60), 0]] ∧
    ((after (.hubRequest (tHubAsk [5, 0x78, 0, 0])) s).launch 2).state = 4 ∧ ans s [3, 4, 0, 0] = [[0xB3, 0, 4, 0]] ∧ (ans s [3, 3, 0, 0]).map (fun p => p.headD 1) = [0] := by decide +kernel

/-- A name table of 2^16 buckets at device address 0x10000000, whose pages lie in HBM, with an entry for the name 0x55. -/
def tTable (state : Nat) : State :=
  let s := { tState id with hub := { (tState id).hub with nametab := 16 + 0x10000 * 4096, issued := 0x98 } }
  let b := (s.buckets 0x55).headD 0
  let s := (s.setDpit (pageOf b) (2 ^ 63 + 0x30)).setDpit 0x20 (2 ^ 63 + 0x20)
  s.devWrite b (toBytes 16 0x55 ++ toBytes 8 0x200040 ++ toBytes 8 (state * 2 ^ 30 + 2 ^ 32))
/-- A request of function 0 and cluster 0 for a name. -/
def tNameAsk (op : Nat) (n : BitVec 128) (args : List Word) : Msg :=
  { kind := 0x38, tag := regTag 0 false 6 0 0, seq := 9, launch := 1, payload := namePayload op 0 0 n args }
/-- The address of the entry. -/
def tEntryAt : Nat := match (tTable 1).lookup 0x55 with | .inr a => a | .inl _ => 0

/-- `NameUnitPerformsRequests`: a status; a new name and a full sequence; a name that is not there; a resolution allowed and not; a rebind that does not match, and a kill. -/
theorem test_name_unit :
    let s := tTable 1
    let ans := fun (m : Msg) => (after (.nameRequest m) s).net.map fun r => (r.kind, r.payload)
    let kill := tNameAsk 3 0x55 [0, 0, 0, 0]
    let attr := s.entryAttr tEntryAt
    let u := s.nameUnit 0x55
    reqName kill = 0x55 ∧ reqPath kill = 0 ∧ s.parks kill = false ∧ (match s.lookup 0x55 with | .inr a => a == tEntryAt | .inl _ => false) = true ∧ (s.stack u).opOn 0x55 = none ∧
    ((after (.nameRequest kill) s).stack u).nameOps.length = 1 ∧ ((after (.nameRequest kill) s).stack u).nameOps.map (fun o => o.owes.length) = [16] ∧
    (s.insertName 0x99 0x200040 0).isSome = true ∧ (match s.lookup 0x99 with | .inl st => st | .inr _ => 0) ≠ 0 ∧ s.reqAllowed kill attr = true ∧
    s.reqAllowed { kill with srcVf := 5 } attr = false ∧ attrClass attr ≠ 4 ∧ s.entryBinding tEntryAt = 0x200040 ∧
    ans (tNameAsk 0 0x55 [0]) = [(0x39, [0, 0, 0x200040, 0, attr, 0])] ∧ ans { tNameAsk 0 0x55 [0] with srcVf := 5 } = [(0x39, [10, 0, 0, 0, 0, 0])] ∧
    ans (tNameAsk 2 0x55 [5, 0x200080, 0, 64]) = [(0x39, [0, 0, 1, 0, 0, 0])] ∧ (ans (tNameAsk 1 0x99 [0x200040, 7])).map (fun r => r.2.headD 9) = [0] := by decide +kernel
theorem test_held_name_request :
    let s := after (.nameRequest (tNameAsk 3 0x55 [0, 0, 0, 0])) (tTable 1)
    let m := tNameAsk 0 0x55 [0]
    ((s.stack (s.nameUnit 0x55)).opOn 0x55).isSome = true ∧ reqOp m ≠ 6 ∧
    (((after (.nameRequest m) s).stack (s.nameUnit 0x55)).nameOps.map fun o => o.held) = [[m]] := by decide +kernel
theorem test_full_name_table : (tState id).nameTable = none ∧ (tState id).insertName 0x99 0x200040 7 = none := by decide +kernel

/-- `ShootDownsAndCommits`: an entry with and without accesses in flight; an operation that waits and one that commits; reservations (R325, R333). -/
theorem test_shoot_downs :
    let named := fun (n : Nat) => (tState id).modCluster 0 fun c => { c with names := [{ name := 0x55, binding := 0, attr := 0, inFlight := n }] }
    let m : Msg := { kind := 0x3A, payload := [0x55, 0, 0, 0] }
    let out := fun (s : State) => (s.cluster 0).names.any fun e => e.name == 0x55 && e.inFlight != 0
    let o : NameOp := { msg := tNameAsk 3 0x55 [], name := 0x55, entry := tEntryAt, owes := [] }
    let op := fun (o : NameOp) => (tTable 2).modStack 5 fun u => { u with nameOps := [o] }
    out (named 0) = false ∧ out (named 1) = true ∧ ((after (.shootDown m) (named 0)).cluster 0).names = [] ∧ (((after (.shootDown m) (named 1)).cluster 0).names.map fun e => e.dead) = [true] ∧
    after (.shootDownDrain 0 5 0x55) (named 1) = named 1 ∧ ((op o).stack 5).opOn 0x55 = some o ∧ ((op o).stack 5).forwarded.any (fun f => f.1 == 0x55) = false ∧ o.held = [] ∧
    reqPath o.msg = 0 ∧ o.msg.srcChip = (op o).hub.chipId ∧ reqOp o.msg = 3 ∧ reqOp (tNameAsk 2 0x55 []) = 2 ∧ ((after (.nameOperationCommit 5 0x55) (op o)).net.map fun r => r.kind) = [0x39] ∧
    attrState ((after (.nameOperationCommit 5 0x55) (op o)).entryAttr tEntryAt) = 0 ∧ (let w := { o with owes := [2] }; after (.nameOperationCommit 5 0x55) (op w) = op w) := by decide +kernel
theorem test_reservations :
    let s := { tState id with hub := { (tState id).hub with slots := [some 0, some 1], issued := 2 * 2 ^ 32 } }
    (tTable 1).hub.issued < (tTable 1).hub.reservedEnd ∧ after .nameBlockReservation (tTable 1) = tTable 1 ∧ s.hub.slots = [some 0, some 1] ∧
    (after .nameBlockReservation s).hub.slots = [some 2, some 1] := by decide +kernel

/-- A name-operation block at 0x200040 (R455): a name, a binding, an expected binding, a creation word, the function and page bits. -/
def tBlock (table busy : Bool) (name : BitVec 128) (creation : Nat) (reserved : Byte) : State :=
  let h := { (tState id).hub with nametab := if table then 16 + 0x800000 else 0, issued := 5, nameblk := 0x200040, namestat := if busy then word (2 ^ 63) else 0 }
  { tHomed with hub := h }.devWrite 0x200040 (toBytes 16 name.toNat ++ toBytes 8 0x200080 ++ toBytes 8 0x2000C0 ++ toBytes 8 creation ++ [0, 0, reserved])

/-- `KernelNameCommands`: NAMETAB writes; commands while BUSY, of a malformed block, without a table, of a serial that no package has, and those that go on. -/
theorem test_kernel_names :
    let s := tBlock true false 0x55 0 0
    let status := fun (s : State) (i : Instr) => fld (after i s).hub.namestat 55 8
    let valid := fun (v : Word) => 16 ≤ fld v 0 5 ∧ fld v 0 5 ≤ 26 ∧ fld v 44 20 = 0 ∧ fld v 5 7 = 0 ∧ (fld v 12 32 * 4096) % 2 ^ (fld v 0 5 + 7) = 0
    valid 0x800010 ∧ ¬ valid 0x801010 ∧ (tState id).nameTable = none ∧ s.nameTable ≠ none ∧ (after (.nametabWrite 0x800010) (tState id)).hub.nametab = 0x800010 ∧
    after (.nametabWrite 0x1000010) s = s ∧ bit s.hub.namestat 63 = false ∧ bit (tBlock true true 0x55 0 0).hub.namestat 63 = true ∧ blockOk s.nameBlock = true ∧
    blockOk (tBlock true false 0x55 0 1).nameBlock = false ∧ creationOk (word (dsc s.nameBlock 32 8)) = true ∧ (word (dsc s.nameBlock 16 8)).toNat % 64 = 0 ∧
    (match s.hubName with | some (u, n) => (u.insertName n 0x200080 (newAttr 0 (blockPage s.nameBlock) 0)).isSome | none => false) = true ∧
    s.chipOfSerial (nameSerial 0x55) = some s.hub.chipId ∧ s.chipOfSerial (nameSerial (0x55 + 2 ^ 100)) = none ∧ status (tBlock true false 0x55 0 1) .namecmdNew = 15 ∧
    status (tBlock false false 0x55 0 0) .namecmdNew = 11 ∧ status (tBlock true false (0x55 + 2 ^ 100) 0 0) .namecmdKill = 9 ∧ (after .namecmdNew s).devLoad 0x200040 16 = 5 ∧
    ((after .namecmdKill s).net.map fun q => q.kind) = [0x38] ∧ ((after .namecmdCas s).net.map fun q => q.payload) = [namePayload 2 0 0 0x55 [0x2000C0, 0x200080, 0, -1, 2, 0]] := by
  decide +kernel

/-- A state with a page table of 1 GiB pages at 0x200000 and a request out at package 7. -/
def tTables : State :=
  (({ tHomed with hub := { tHomed.hub with regions := [(0, 0x200005)] } }.devWrite 0x200008 (toBytes 8 (1 + 2 ^ 6 + 2 ^ 7 + 0x4000 * 65536))).modSlot 0
    fun sl => { sl with far := [{ gen := 0, seq := 9, kind := 0x20, va := 0x200040, ga := word (7 * 2 ^ 44), unit := 0, chip := 7, use := .posted }] })
/-- `TranslationsAndLostPackages`: an invalidation of one page, a walk of a 1 GiB page, a package that goes down with requests out, and its return. -/
theorem test_translations :
    let s := tTables
    tlbFind (s.core 0).tlb 0 0x40000040 = none ∧ s.leafFor 0 0 0x40000040 = .ok (1 + 2 ^ 6 + 2 ^ 7 + 0x4000 * 65536) 2 ∧
    tlbFind ((after (.tableWalk 0 0 0x40000040) s).core 0).tlb 0 0x40000040 = some (1 + 2 ^ 6 + 2 ^ 7 + 0x4000 * 65536, 2) ∧
    ((after (.tlbInvalidation 0 { payload := [0x200000, 0] }) s).core 0).tlb.map (fun e => e.2.2.1) = [0x21, 0x22] ∧ (7 : BitVec 20) ≠ s.hub.chipId ∧
    (after (.peerDownEvent 7 0) s).hub.down = [7] ∧ ((after (.peerDownEvent 7 0) s).net.any fun r => r.payload == [3, 0]) = true ∧
    (after (.peerReturn 7) (after (.peerDownEvent 7 0) s)).hub.down = [] := by decide +kernel

/-! ### Launches, system instructions and trace -/

/-- A clause of a launch that may have an estimator of a kind; queue 3 is open for its function; x20, x21 name an object of a class. -/
def tLaunching (cls : Nat) (est : Option Nat) (pull : Bool) : State :=
  let s := tNamed cls 0x200000 false fun sl => { sl with kprog := 0 }
  { s with hub := { s.hub with launches := [(1, { state := 2, live := 1, est := est })], ests := [(0, { launch := 1, state := 1, pull := pull })], queues := [(3, word (2 ^ 63))] } }.modCur
    fun sl => { sl with x := (24, 3) :: (25, 0xF00000000108) :: sl.x }

/-- `LaunchInstructionsAsk`: each check and each request (R392 to R397). -/
theorem test_launch_instructions : Meets (tLaunching 4 (some 0) true) (let s := tLaunching 4 (some 0) true
    let e := (s.cluster 0).names.headD { name := 0, binding := 0, attr := 0 }
    let c := s.queueCfg 3
    Unfenced s ∧ s.sl.farRoom 1 = true ∧ (s.sl.xr 5).toNat % 8 ≠ 0 ∧ (s.sl.xr 24).toNat = 3 ∧ bit c 63 = true ∧ fld c 56 7 = s.curCtx.vf ∧ bit (s.queueCfg 7) 63 = false ∧
    s.released s.cur 2 = true ∧ (s.sl.xr 25).toNat % 8 = 0 ∧ passes (s.packetOf (s.sl.xr 25)) (fun ws => ws.length % 2 == 0) = true ∧
    s.issuer (s.sl.name 20) = .ok s.hub.chipId ∧ cacheFind (s.cluster 0).names (s.sl.name 20) = some e ∧ hasRight e.attr 0 true s.curCtx.vf = true ∧
    hasRight e.attr 3 true s.curCtx.vf = true ∧ attrClass e.attr = 4 ∧ (s.launch 1).est = some 0 ∧ (s.est 0).pull = true ∧ (s.sl.xr 5).toNat < 8 ∧ 8 ≤ (s.sl.xr 22).toNat ∧
    (after (.launch (tK 0 24 5 6)) s).sl.kcause = 0xB8 ∧ (after (.launch (tK 0 5 0 6)) s).sl.kcause = 0xB3 ∧ ((after (.launch (tK 0 24 0 6)) s).net.map fun m => m.payload.take 2) = [[3, 3]] ∧
    ((after (.launch (tK 0 24 25 6)) s).net.map fun m => m.payload.length) = [20] ∧ ((after (.lstat (tK 0 0 20 6)) s).net.map fun m => m.payload) = [[4, 0x55, 0, 0]] ∧
    ((after (.lkill (tK 0 0 20 6)) s).net.map fun m => m.payload) = [[5, 0x55, 0, 0]] ∧ ((after (.eitem (tK 0 0 0 6)) s).net.map fun m => m.unit) = [32] ∧
    ((after (.econ (tK 0 5 6 0)) s).net.map fun m => m.payload) = [[1, -1, 7, 0]] ∧ ((after (.estat (tK 0 0 5 6)) s).net.map fun m => m.payload) = [[2, 7]] ∧
    (after (.estat (tK 0 0 22 6)) s).sl.kcause = 0xBA) := meets rfl rfl rfl rfl (by unfold Unfenced; decide +kernel)
theorem test_no_estimator : Meets (tLaunching 0 none false) (let s := tLaunching 0 none false
    attrClass ((s.cluster 0).names.headD { name := 0, binding := 0, attr := 0 }).attr ≠ 4 ∧ (s.launch 1).est = none ∧ (after (.eitem (tK 0 0 0 6)) s).sl.kcause = 0xB6 ∧
    (after (.econ (tK 0 5 6 0)) s).sl.kcause = 0xB6 ∧ (after (.lstat (tK 0 0 20 6)) s).sl.kcause = 0xB4) := meets rfl rfl rfl rfl (by decide +kernel)
theorem test_push_estimator : Meets (tLaunching 4 (some 0) false) (let s := tLaunching 4 (some 0) false
    (s.launch 1).est = some 0 ∧ (s.est 0).pull = false ∧ (after (.eitem (tK 0 0 0 6)) s).sl.kcause = 0xB6) := meets rfl rfl rfl rfl (by decide +kernel)

/-- A kernel clause; slot 1 is frozen by its trap 5; page 0x20 has an entry; a launch of queue 3 is QUEUED. -/
def tSystem (priv : Nat) : State :=
  let s := tHomed.modCur fun sl => { sl with kstat := word priv, x := [(5, 0x500001000), (6, 0x600001000), (7, 0x1100), (8, 0x3000), (9, 3), (10, 4), (11, 1024), (12, 0x20),
    (13, 0x8000000000000020), (14, 0x8000000000000021), (15, 0x8000000040000020), (16, 0x20000), (17, 0x10000), (18, 0x100000000), (19, 0x8100000000000021)] }
  let s := s.modSlot 1 fun sl => { sl with phase := .frozen, trapNo := 5, kepc := 0x1080, kprog := 9, clause := { launch := 1, codeBase := 0x1000, codeSize := 0x1000 } }
  { s with hub := { s.hub with launches := s.hub.launches ++ [(2, { state := 0, queue := 3 })] } }

/-- `SystemInstructions`: a slot that may be resumed at its address, at another and outside its code; one that is not frozen by that trap; queues; invalidations; and
indirection entries (R408 to R414, R425). -/
theorem test_system : Meets (tSystem 3) (let s := tSystem 3
    let w := s.sl.xr 5
    s.sl.phase = .running ∧ 3 ≤ s.sl.priv ∧ s.mayActOn w = true ∧ (s.slot (wordSlot w)).frozenBy w = true ∧ (s.slot (wordSlot (s.sl.xr 6))).frozenBy (s.sl.xr 6) = false ∧
    s.mayActOn 0xFF000000 = false ∧ (s.slot 1).clause.holds 0x1080 = true ∧ (s.slot 1).clause.holds (s.sl.xr 7) = true ∧ (s.slot 1).clause.holds (s.sl.xr 8) = false ∧
    (s.slot 1).acked = true ∧ (s.slot 1).fwd = [] ∧ (s.slot 1).clause.regs = [] ∧ 1024 ≤ (s.sl.xr 11).toNat ∧ s.unended 4 = [] ∧ s.unended 3 = [2] ∧ (s.launch 2).state = 0 ∧
    (s.launch 2).waiting = [] ∧ s.sl.fetched = [] ∧ fld (s.sl.xr 16) 19 45 = 0 ∧ fld (s.sl.xr 12) 48 16 = 0 ∧ fld (s.sl.xr 18) 19 45 ≠ 0 ∧ s.through 0 0x20 = [] ∧
    entryOk 0x20 (s.sl.xr 15).toNat = false ∧ entryOk 0x20 (s.sl.xr 13).toNat = true ∧ dpitMoving (s.dpit 0x20) = false ∧ dpitValid (s.dpit 0x20) = true ∧
    sameMedia (s.dpit 0x20) (s.sl.xr 13).toNat = true ∧ sameMedia (s.dpit 0x20) (s.sl.xr 14).toNat = false ∧ dpitPlacement (s.sl.xr 14).toNat = dpitPlacement (s.dpit 0x20) ∧
    dpitPlacement (s.sl.xr 19).toNat ≠ dpitPlacement (s.dpit 0x20) ∧ entryOk 0x20 (s.sl.xr 19).toNat = true) := meets rfl rfl rfl rfl (by decide +kernel)
theorem test_system_results :
    let s := tSystem 3
    let x := fun (i : Instr) => (after i s).sl.xr 20
    ((after (.sresume (tK 0 0 5 20)) s).slot 1).pc = 0x1080 ∧ ((after (.sresume (tK 0 7 5 20)) s).slot 1).kprog = 0 ∧ x (.sresume (tK 0 8 5 20)) = 3 ∧ x (.sresume (tK 0 0 6 20)) = 1 ∧
    ((after (.skill (tK 0 0 5 20)) s).slot 1).phase = .free ∧ x (.sqkill (tK 0 0 11 20)) = -1 ∧ x (.sqkill (tK 0 0 10 20)) = 0 ∧ x (.sqkill (tK 0 0 9 20)) = 1 ∧
    x (.tlbinv (tK 0 18 12 20)) = 1 ∧ ((after (.tlbinv (tK 0 17 12 20)) s).core 0).tlb = [] ∧ x (.dpitset (tK 0 15 12 20)) = 2 ∧ x (.dpitset (tK 0 19 12 20)) = 1 ∧
    x (.dpitset (tK 0 13 12 20)) = 0 ∧ dpitMoving ((after (.dpitset (tK 0 14 12 20)) s).dpit 0x20) = true ∧ (after (.sresume (tK 0 0 5 20)) (tSystem 0)).sl.kcause = 6 ∧
    (after (.sqkill (tK 0 0 9 20)) (tSystem 1)).sl.kcause = 6 ∧ (tSystem 1).sl.priv < 3 ∧ (tSystem 0).sl.priv < 1 ∧
    (let t := s.setDpit 0x20 (2 ^ 63 + 2 ^ 62 + 0x20); dpitMoving (t.dpit 0x20) = true ∧ after (.dpitset (tK 0 13 12 20)) t = t) := by decide +kernel

/-- `TraceInstructions`: a cluster that traces and one that does not; a marked value with each action, and one that is not marked (R435 to R437). -/
def tTracing (ctl dm : Nat) : State := (tState id).modCluster 0 fun c => { c with dbg := { c.dbg with trcCtl := word ctl, dmCtl := word dm, dmVal := 7 } }
theorem test_trace : Meets (tTracing (2 ^ 63) (2 ^ 63 + 0xFF)) (let s := tTracing (2 ^ 63) (2 ^ 63 + 0xFF)
    (s.debug 0).traces s.curCtx.vf = true ∧ traceUnits (s.debug 0).trace + 2 ≤ 512 ∧ (s.debug 0).marked (s.sl.xr 6) = false ∧
    ((after (.trc (tK 0 5 6 0)) s).debug 0).trace.map (fun r => r.drop 2) = [[7, 0]] ∧ ((after (.dmark (tK 0 0 6 0)) s).debug 0).trace.map (fun r => r.drop 2) = [[-1, 0]]) :=
  meets rfl rfl rfl rfl (by decide +kernel)
theorem test_mark_traps : Meets (tTracing 0 (2 ^ 63 + 2 ^ 62 + 0xFF)) (let s := tTracing 0 (2 ^ 63 + 2 ^ 62 + 0xFF)
    (s.debug 0).traces s.curCtx.vf = false ∧ (s.debug 0).marked (s.sl.xr 5) = true ∧ (s.debug 0).marked (s.sl.xr 6) = false ∧ fld (s.debug 0).dmCtl 61 2 = 2 ∧
    (after (.dmark (tK 0 0 5 0)) s).sl.kcause = 0xBD ∧ (after (.trc (tK 0 5 6 0)) s).sl.pc = 0x1044) := meets rfl rfl rfl rfl (by decide +kernel)
theorem test_mark_halts : Meets (tTracing 0 (2 ^ 63 + 2 ^ 61 + 0xFF)) (let s := tTracing 0 (2 ^ 63 + 2 ^ 61 + 0xFF)
    fld (s.debug 0).dmCtl 61 2 = 1 ∧ (s.debug 0).marked (s.sl.xr 5) = true ∧ ((after (.dmark (tK 0 0 5 0)) s).debug 0).halted = true) := meets rfl rfl rfl rfl (by decide +kernel)

/-! ### Estimators, launches, windows and pages -/

/-- An estimator context of launch 1, with 5 positions handed out and 3 accepted. -/
def tEst (f : Est → Est) : State :=
  let l : Tab Launch := [(1, { state := 2, live := 1, est := some 0, node := 512 })]
  let x : Est := { launch := 1, state := 1, items := 100, mul := 1, least := 50, issued := 5, accepted := 3 }
  { tState id with hub := { (tState id).hub with launches := l, ests := [(0, f x)] } }
/-- A request to it. -/
def tEstAsk (p : List Word) : Msg := { kind := 0x3F, unit := 32, tag := regTag 0 false 6 0 0, seq := 9, launch := 1, payload := p }

/-- `EstimatorsAcceptInOrder`: contributions late, unknown, twice, early and due; items, words, a hand-out and a stop (R384 to R391, R395 to R397). -/
theorem test_estimators :
    let s := tEst id
    let early := tEst fun x => { x with window := [(4, 8)] }
    let past := tEst fun x => { x with state := 2 }
    let pull := tEst fun x => { x with pull := true }
    let m := tEstAsk [1, 3, 0x3FF0000000000000, 0]
    let ans := fun (s : State) (p : List Word) => ((after (.estimatorRequest (tEstAsk p)) s).net.map fun r => r.payload).take 1
    m.unit = 32 + 0 ∧ m.srcChip = s.hub.chipId ∧ s.parks m = false ∧ (s.est 0).waiting = [] ∧ (s.est 0).window.find 4 = none ∧ (s.est 0).issued < (s.est 0).accepted + 4096 ∧
    (early.est 0).window.find 3 = none ∧ ans past [1, 3, 0, 0] = [[4, 0]] ∧ ans s [1, 5, 0, 0] = [[6, 0]] ∧ ans s [1, 2, 0, 0] = [[5, 0]] ∧ ans early [1, 4, 0, 0] = [[5, 0]] ∧
    ((after (.estimatorRequest (tEstAsk [1, 4, 8, 0])) s).est 0).window = [(4, 8)] ∧ ((after (.estimatorRequest m) s).est 0).accepted = 4 ∧
    ((after (.estimatorRequest m) s).est 0).mean = 0x3FD0000000000000 ∧ ans pull [0, 0] = [[0, 0, 5, 5]] ∧ ans past [0, 0] = [[0, 0, -1, -1]] ∧ ans s [2, 7] = [[0, 0, (s.est 0).words.getD 7 0, 0]] ∧
    ((after (.estimatorHandout 0) s).net.map fun q => (q.kind, q.payload)) = [(0x0B, [5, 5, 0, 100])] ∧ after (.estimatorHandout 0) pull = pull ∧ (s.est 0).killStop = false ∧
    (after (.estimatorStop 0) { s with net := [{ kind := 0x0B, launch := 1 }, { kind := 0x0B, launch := 2 }] }).net = [{ kind := 0x0B, launch := 2 }] := by decide +kernel

/-- `ItemsArePermuted`: a descriptor of 1,000 items (R383). -/
theorem test_estimator_descriptor :
    estDescOk [1000 + 2 ^ 48, 0x1234567, 77, 1 + 2 ^ 33, 0x3FF0000000000000, 0, 0x200040, 0] = true := by decide +kernel

/-- A packet of one start on channel 9 (R371), with flags, a deadline and a name. -/
def tPacket (flags : Nat) (deadline name : Word) : List Word :=
  [word (1 + flags * 2 ^ 8), deadline, 0x1000, word (0x1000 + 9 * 2 ^ 32), 0x2000, 0, 0x3000, name, 0, 0, 1, 0, 0, 0, 0, 0]
/-- Function 0 with queue 3 of partition 512, a launch of a state in it, and the reserved launch name 0x55. -/
def tLaunches (l : Launch) (f : Vf → Vf) : State :=
  let s := tTable 1
  let b := (s.buckets 0x55).headD 0
  let s := s.devWrite (b + 16) (toBytes 8 0 ++ toBytes 8 (2 ^ 30 + 4))
  let h := { s.hub with launches := [(2, l)], nextLaunch := 3, queues := [(3, word (2 ^ 63 + 512 * 2 ^ 32))], vfs := [(0, f { ctl := word (2 ^ 63) })] }
  { s with ktick := 5000, hub := { h with parts := [(512, { ctxs := [(0, 0)] })] } }

/-- `LaunchesAreDispatchedAndEnd`: enqueues that wait, are refused and are accepted (R371, R372). -/
theorem test_enqueue :
    let s := tLaunches { state := 3 } id
    let stat := fun (q : BitVec 10) (p : List Word) => ((after (.hostEnqueue 0 q p) s).vf 0).enqStat
    let p := tPacket 0 0 0x55
    let z := tPacket 0 0 0
    let began := (s.captureInput 0 0 0 inHost ([word (0 + 3 * 2 ^ 8)] ++ z) 3).setVf 0 { s.vf 0 with packet := z, enqStat := 0 }
    bit (s.vf 0).enqStat 63 = true ∧ s.hub.boot.diverged = false ∧ bit ((tLaunches {} fun v => { v with enqStat := 0 }).vf 0).enqStat 63 = false ∧ s.queueOpen 4 0 = false ∧
    s.queueOpen 3 0 = true ∧ packetOk p = true ∧ packetOk (tPacket 0x40 0 0) = false ∧ pkEstimate p = false ∧ pkName p ≠ 0 ∧ (s.reservedEntry 0x55).map (fun r => r.2) = some 0 ∧
    s.reservedEntry 0x56 = none ∧ (s.queued 3).length < 256 ∧ stat 4 p = word (2 ^ 63 + 0xB3) ∧ stat 3 (tPacket 0x40 0 0) = word (2 ^ 63 + 0xB1) ∧
    stat 3 (tPacket 0 0 0x56) = word (2 ^ 63 + 0xB4) ∧ stat 3 p = 0 ∧ ((after (.hostEnqueue 0 3 p) s).launch 3).name = 0x55 ∧
    ((after (.hostEnqueue 0 3 p) s).net.map fun m => m.kind) = [0x38] ∧ pkName z = 0 ∧ packetOk z = true ∧ pkEstimate z = false ∧
    (began.newLaunchName 0 (launchBinding 3)).isSome = true ∧ stat 3 z = word (2 ^ 63) ∧ ((after (.hostEnqueue 0 3 z) s).launch 3).packet = z := by decide +kernel

/-- The dispatch of a queued launch, a start message, a pre-empted function, expiry, and the end of a launch (R373 to R379). -/
theorem test_dispatcher :
    let q : Launch := { state := 0, queue := 3, packet := tPacket 0 0 0 }
    let r : Launch := { state := 2, queue := 3, node := 512, ctx := 0, starts := 1, prepared := true, packet := tPacket 0 0 0 }
    let d : Launch := { r with started := 1 }
    let x : Launch := { q with packet := tPacket 8 1 0 }
    let s := tLaunches q id
    let late := fun (l : Launch) => ((tLaunches l id).queuedFor 512 0).filter fun e => expired e.2 5000
    late q = [] ∧ late x = [(2, x)] ∧ s.contextFor 512 0 = some 0 ∧ s.contextFor 512 1 = none ∧ s.activeIn 512 0 = none ∧ bit (s.vf 0).ctl 63 = true ∧ bit (s.vf 0).bud 62 = false ∧
    (firstRanked 5000 ((s.queuedFor 512 0).filter fun e => (s.freeEst (s.lowDie 512)).isSome || !pkEstimate e.2.packet)) = some (2, q) ∧
    (∀ e ∈ s.queuedFor 512 0, pkExpire e.2.packet = false) ∧ r.est = none ∧ (tLaunches { r with state := 1, prepared := false } id).activeIn 512 0 = some 2 ∧
    ((after (.launchCompletion 2) (tLaunches { r with state := 1, killing := true } id)).launch 2).state = 4 ∧ (tLaunches r id).activeIn 512 0 = some 2 ∧ r.started < r.starts ∧
    ((after (.dispatchDecision 512 0) (tLaunches r id)).net.map fun m => (m.kind, m.chan, m.payload)) = [(0x08, 9, [0x3000, 0])] ∧
    (let t := tLaunches q fun v => { v with bud := word (2 ^ 62) }; bit (t.vf 0).bud 62 = true ∧ after (.dispatchDecision 512 0) t = t) ∧
    ((after (.launchExpiryScan 512 0) (tLaunches x id)).launch 2).state = 5 ∧ d.live = 0 ∧ d.commands = 0 ∧ (tLaunches d id).estOver d = true ∧ d.started = d.starts ∧
    ((after (.launchCompletion 2) (tLaunches d id)).launch 2).state = 3 ∧ ((after (.launchCompletion 2) (tLaunches { d with killing := true } id)).launch 2).state = 4 ∧
    (let t := tLaunches r id; after (.launchCompletion 2) t = t) := by decide +kernel

/-- `ContextsAreSavedAndWindowsClose`: a context with a message queued and no slot bound; one that is not pre-empted; a window that closes with a message parked, and one with
a slot that still runs (R119 to R122). -/
theorem test_context_save :
    let s := (tDispatch.modSlot 0 fun sl => { sl with phase := .free }).modCtx 0 0 fun c => { c with preempted := true }
    (s.ctx 0 0).preempted = true ∧ (s.ctx 0 0).saved = false ∧ s.ctxIdle 0 0 = true ∧ ((after (.contextSave 0 0) s).ctx 0 0).savedMsgs.length = 1 ∧
    (((after (.contextSave 0 0) s).ctx 0 0).chans.get 9 {}).pending = true ∧ (((after (.contextSave 0 0) s).ctx 0 0).chans.get 9 {}).queue = [] ∧
    after (.contextSave 0 0) tDispatch = tDispatch := by decide +kernel
theorem test_window_close :
    let m : Msg := { kind := 0, launch := 1, chan := 9 }
    let s := { tState id with slots := [], hub := { (tState id).hub with launches := [(1, { state := 2, repro := true, parked := [m] })] } }
    let u := { s with slots := (tState fun sl => { sl with phase := .frozen }).slots }
    s.windowReady 1 = true ∧ ((after (.deliveryWindowClose 1) s).launch 1).window = 1 ∧ u.windowReady 1 = false ∧ after (.deliveryWindowClose 1) u = u := by decide +kernel

/-- A page move of page 0x20 to frame 0x40 of which some homes have taken the notice. -/
def tMoving (taken : List Nat) : State :=
  { tHomed with hub := { tHomed.hub with moves := [(0x20, { entry := 2 ^ 63 + 0x40, homes := List.range 16, taken := taken })] } }

/-- `PagesMoveAndAreScrubbed`: the begin of a move, a page that moves, notices, the copy of a line with poison, heat, and scrubbed atoms (R227 to R229, R232 to R237). -/
theorem test_pages :
    let s := tHomed
    let m := tMoving (List.range 15)
    dpitValid (s.dpit 0x20) = true ∧ dpitMoving (s.dpit 0x20) = false ∧ dpitMoving ((after (.pageMove 0x20 (2 ^ 63 + 0x40)) s).dpit 0x20) = true ∧ dpitValid (s.dpit 0x30) = false ∧
    ((after (.pageMove 0x20 (2 ^ 63 + 0x40)) s).agenda.length) = 16 ∧ after (.pageMove 0x30 0) s = s ∧ s.hub.moves.find 0x20 = none ∧ (m.hub.moves.find 0x20).isSome = true ∧
    (after (.moveBeginNotice 0x20 15) m).agenda = [.moveCopy 0x20] ∧ (after (.moveBeginNotice 0x20 3) m).agenda = [] ∧ after (.moveCopy 0x20) m = m ∧
    (∀ h ∈ List.range 16, h ∈ (((tMoving (List.range 16)).hub.moves.find 0x20).getD { entry := 0, homes := [] }).taken) ∧ Memory.wf s.mem = true ∧
    ({ s with poison := [tMedia] }.copyLine tMedia (tMedia + 64)).poison = [tMedia, tMedia + 64] ∧ hotEnabled s.hub.tracker.ctl = false ∧
    ((after (.heatWriteback 3) (s.modStack 3 fun u => { u with heat := [(0x20, 5)] })).stack 3).heat = [] ∧ after (.patrolScrub 9 0) s = s ∧
    ((after (.patrolScrub 9 1) s).stack 0).corrected.get 0 0 = 1 ∧ 288 ∉ s.poison ∧ (after (.patrolScrub 9 2) s).hub.kmcLost = 1 := by decide +kernel
theorem test_tracker :
    let e := 2 ^ 63 + 2 ^ 60 + 0x50
    let h := { (tState id).hub with tracker := { ctl := 0x21, hbm := 0x200000, queue := [0x30] } }
    let s := (({ tHomed with hub := h }.setDpit 0x30 e).devWrite 0x200000 (toBytes 8 (2 ^ 63 + 0x77)))
    let c := s.setFrame 0x200000 0 0x77
    hotEnabled s.hub.tracker.ctl = true ∧ 0 < hotLimit s.hub.tracker.ctl ∧ s.dpit 0x30 = e ∧ dpitValid e = true ∧ dpitMoving e = false ∧ dpitTier e = 1 ∧ dpitPinned e = false ∧
    hotPromote s.hub.tracker.ctl ≤ s.heatOf 0x30 ∧ s.hbmFrame 0 = some 0 ∧ withFld (s.freeFrame 0x200000 0) 63 1 0 = 0x77 ∧ c.dpit 0x30 = e ∧
    (after .trackerPeriod s).hub.tracker.queue = [] ∧ ((after .trackerPeriod s).hub.moves.find 0x30).map (fun m => dpitFrame m.entry) = some 0x77 := by decide +kernel

/-! ### Debug, windows, partitions, the kernel's registers and the platform -/

/-- `DebugModulesHaltAndTrace`: halting, resuming, stepping, a trigger line, the loss table, a sample, and segments (R431 to R433, R439 to R441). -/
theorem test_debug :
    let s := tState id
    let h := after (.debugHaltreq 0) s
    let d := s.modCluster 0 fun c => { c with dbg := { c.dbg with trig := 0x100, trcCtl := word (3 * 2 ^ 62), issued := [(0, 5)], stalled := [(0, 6)], loss := [(0, { valid := true })] } }
    (s.debug 0).halted = false ∧ (h.debug 0).halted = true ∧ bit (h.debug 0).stat 63 = true ∧ after (.debugHaltreq 0) h = h ∧ bit ((after (.debugResume 0) s).debug 0).ctl 62 = true ∧ after (.debugStep 0 0 0) s = s ∧
    ((after (.debugResume 0) h).slot 0).skipBreak = true ∧ ((after (.debugStep 0 0 0) h).debug 0).stepping = some 0 ∧ bit (d.debug 0).trig (8 + 0 % 8) = true ∧
    ((after (.triggerLinePulse 0) d).debug 0).halted = true ∧ ((after (.triggerLinePulse 1) d).debug 0).halted = false ∧ ((after (.lossTableClear 0) d).debug 0).loss = [] ∧
    (d.debug 0).samples = true ∧ (s.debug 0).samples = false ∧ traceUnits (d.debug 0).trace + 5 ≤ 512 ∧
    ((after (.traceSample 0) d).debug 0).trace.map (fun r => r.getD 2 0) = [0x600000005] ∧ ((after (.traceSample 0) d).debug 0).issued = [] := by decide +kernel
theorem test_segments :
    let r : List Word := [0x0101, 500, 1, 2]
    let t := fun (cfg : Nat) (rs : List (List Word)) (staged : List Segment) => { tState id with ktick := 600, hub := { (tState id).hub with
      trace := { cfg := word (cfg + 6 * 2 ^ 48), records := rs, staged := staged, sending := if staged.isEmpty then [] else [1] } } }
    let g : Segment := { replay := false, seq := 0, first := 0, last := 0, body := [] }
    let open_ := t (2 ^ 63) [r] []
    let closed := t 0 [r] []
    open_.hub.trace.records = [r] ∧ open_.hub.trace.full = false ∧ open_.ktick.toNat < (r.getD 1 0).toNat + 2 ^ 20 ∧ bit open_.hub.trace.cfg 63 = true ∧
    after .traceSegmentSeal open_ = open_ ∧ bit closed.hub.trace.cfg 63 = false ∧ traceUnits closed.hub.trace.records ≤ 4088 ∧ closed.hub.trace.staged.length < closed.hub.trace.slots ∧
    (after .traceSegmentSeal closed).hub.trace.staged.map (fun x => x.first) = [500] ∧ closed.hub.boot.diverged = false ∧ bit closed.hub.trace.cfg 62 = false ∧
    after .storageCompletion closed = closed ∧ (t (2 ^ 62) [] [g]).hub.trace.staged = [g] ∧ (after .storageCompletion (t (2 ^ 62) [] [g])).hub.trace.staged = [] := by decide +kernel

/-- A window of page 0x20's elements, of codes 0, to which this chip and chip 7 contribute. -/
def tWindow (repro : Bool) (rounds : List Round) : State :=
  let w : Window := { home := 0, id := 2, base := 0x200000, len := 0x1000, code := 0, repro := repro, status := 0x200800, members := [0, 7], rounds := rounds }
  { tHomed with hub := { tHomed.hub with windows := [w] } }

/-- `FabricWindowsCombine`: contributions refused, of a free window and of a round; a withdrawal; declarations (R273 to R276, R424). -/
theorem test_fabric_windows :
    let s := tWindow false []
    let r := tWindow true []
    let m := { tReq 0x31 [0x200040, 0, 5, 0] with srcChip := 7 }
    let w := { m with payload := [0x200040, 1, 5, 0] }
    (s.homedWindow 2).isSome = true ∧ s.homedWindow 3 = none ∧ (s.homedWindow 2).map (fun w => (w.code, w.repro, w.gone, w.index 7, w.members.contains 9)) = some (0, false, [], 1, false) ∧
    fld (m.payload.getD 1 0) 0 5 = 0 ∧ fld (w.payload.getD 1 0) 0 5 ≠ 0 ∧ s.poisoned tMedia (redSize 0) = false ∧
    (r.homedWindow 2).map (fun w => w.complete { addr := 0x200040, parts := [(1, m)], held := [] }) = some false ∧
    (s.findLine { m with srcChip := 0 } 0x200040 false true true) = .at tMedia (2 ^ 63 + 0x20) ∧
    ((after (.fabricCombine 2 m) r).homedWindow 2).map (fun w => w.rounds.length) = some 1 ∧ (after (.fabricCombine 2 w) s).mem = s.mem ∧
    ((after (.contributorWithdrawal 2 7) s).homedWindow 2).map (fun w => w.gone) = some [7] ∧ (after (.contributorWithdrawal 2 7) s).devLoad 0x200800 1 = 2 ∧
    (after (.contributorWithdrawal 2 7) s).devLoad 0x200840 1 = 2 ∧ after (.contributorWithdrawal 2 9) s = s ∧ (tReq 0 []).srcChip.toNat ∈ [0, 7] := by decide +kernel
theorem test_window_of_another_chip :
    let m := { tReq 0x31 [0x200040, 0, 5, 0] with srcChip := 7 }
    let s := (tWindow false []).modStack m.unit fun u => { u with access := [(0, word (2 ^ 63 + 2 ^ 62 + 2 ^ 61 + 2 ^ 59))] }
    s.findLine m 0x200040 false true true = .at tMedia (2 ^ 63 + 0x20) ∧ (after (.fabricCombine 2 m) s).load tMedia (redSize 0) = redApply 0 0 5 := by decide +kernel
/-- A declaration block at 0x200100 with `n` contributors, whose list stands at 0x200200: this chip, and a chip. -/
def tDeclare (s : State) (n chip : Nat) (busy : Bool) : State :=
  let b := toBytes 8 0x200000 ++ toBytes 8 0x1000 ++ [0, 0] ++ toBytes 2 n ++ toBytes 4 0 ++ toBytes 8 0x200800 ++ toBytes 8 0x200200 ++ List.replicate 24 0
  ({ s with hub := { s.hub with winblk := 0x200100, winstat := if busy then word (2 ^ 63) else 0 } }.devWrite 0x200100 b).devWrite 0x200200 (toBytes 4 0 ++ toBytes 4 chip)
theorem test_declarations :
    let r := fun (s : State) (i : Instr) => fld (after i s).hub.winstat 60 4
    let s := tDeclare tHomed 1 0 false
    let known := fun (c : Nat) => c = s.hub.chipId.toNat ∨ s.chipDown c = false
    bit s.hub.winstat 63 = false ∧ s.homedWindow 2 = none ∧ (s.declared 2).map (fun x => x.members) = some [0] ∧ known 0 ∧ known 7 ∧ s.chipDown 0xC0000 = true ∧
    r (tDeclare tHomed 2 0xC0000 false) (.wincmdDeclare 2) = 3 ∧ r (tDeclare tHomed 0 0 false) (.wincmdDeclare 2) = 2 ∧
    r { s with hub := { s.hub with windows := List.replicate 64 { id := 5, home := 0 } } } (.wincmdDeclare 2) = 4 := by decide +kernel
theorem test_redeclarations :
    let r := fun (s : State) (i : Instr) => fld (after i s).hub.winstat 60 4
    let s := tWindow false []
    let t := tWindow true [{ addr := 0x200040, parts := [(1, {})] }]
    let b := { s with hub := { s.hub with winstat := word (2 ^ 63) } }
    bit b.hub.winstat 63 = true ∧ after (.wincmdDeclare 2) b = b ∧ r s (.wincmdDeclare 2) = 1 ∧ r s (.wincmdRemove 3) = 1 ∧ (after (.wincmdRemove 2) s).hub.windows = [] ∧
    s.hub.windows.all (fun w => !w.redeclare && w.rounds.isEmpty) = true ∧ bit (after (.wincmdRedeclare 2) t).hub.winstat 63 = true ∧
    ((after (.wincmdRedeclare 2) t).homedWindow 2).map (fun w => w.redeclare) = some true := by decide +kernel

/-- Partitions of two clusters with one function, and cores of the second whose contexts have save areas. -/
def tParts (parts : Tab Part) : State :=
  let s := tState fun sl => { sl with phase := .free }
  let s := (List.range 8).foldl (fun (s : State) i => s.modCtx (8 + i) 0 fun c => { c with saveBase := 0x400000 }) s
  { s with hub := { s.hub with parts := parts } }
/-- A partition command for a node, with context 0, a function and the node that is kept. -/
def tCmdWord (node f keep : Nat) : Word := word (node * 2 ^ 32 + f * 2 ^ 50 + keep * 2 ^ 16)

/-- `PartitionsChange`: each command with each result, and the reset of a function (R415 to R418, R426). -/
theorem test_partitions :
    let half : Part := { ctxs := [(0, 5)] }
    let s := tParts [(512, half)]
    let both := tParts [(512, half), (513, half)]
    let whole := tParts [(256, half)]
    let r := fun (s : State) (i : Instr) => fld (after i s).hub.pstat 60 4
    s.hub.ops = [] ∧ s.hub.begun = false ∧ bit s.hub.pstat 63 = false ∧ s.nodeCores 513 = [8, 9, 10, 11, 12, 13, 14, 15] ∧ (∀ k ∈ s.nodeCores 513, (s.ctx k 0).saveBase ≠ 0) ∧
    (∀ e ∈ s.hub.parts, e.1 = 513 ∨ nodesMeet e.1 513 = false) ∧ s.hub.parts.find 513 = none ∧ r s (.pcmdAssign (tCmdWord 0 5 0)) = 2 ∧ r s (.pcmdAssign (tCmdWord 256 5 0)) = 3 ∧
    (s.ctx 0 0).saveBase = 0 ∧ ((after (.pcmdAssign (tCmdWord 513 6 0)) s).ctx 9 0).vf = 6 ∧ r s (.pcmdRelease (tCmdWord 513 0 0)) = 2 ∧ s.activeIn 512 0 = none ∧
    (after (.pcmdRelease (tCmdWord 512 0 0)) s).hub.parts.find 512 = none ∧ r s (.pcmdMerge (tCmdWord 256 0 0)) = 2 ∧
    (after (.pcmdMerge (tCmdWord 256 0 0)) both).hub.parts.find 256 = some half ∧ r whole (.pcmdShrink (tCmdWord 257 0 512)) = 2 ∧ whole.shrinkRefused (tCmdWord 256 0 512) = none ∧
    (∀ k ∈ whole.removed (tCmdWord 256 0 512), ∀ j < 4, (whole.slot (4 * k + j)).phase = .free) ∧
    (after (.pcmdShrink (tCmdWord 256 0 512)) whole).hub.parts.find 512 = some half := by decide +kernel
theorem test_partition_results :
    let s := tParts [(512, { ctxs := [(0, 5)] })]
    let busy := { s with hub := { s.hub with pstat := word (2 ^ 63) } }
    let fused := { s with hub := { s.hub with fused := [1], harvest := 1 } }
    let active := { s with hub := { s.hub with launches := [(1, { state := 2, node := 512, ctx := 0 })] } }
    let r := fun (s : State) (i : Instr) => fld (after i s).hub.pstat 60 4
    bit busy.hub.pstat 63 = true ∧ after (.pcmdAssign (tCmdWord 513 6 0)) busy = busy ∧ fused.nodeCores 513 = [] ∧ r fused (.pcmdAssign (tCmdWord 513 6 0)) = 4 ∧
    r s (.pcmdRelease (word (512 * 2 ^ 32 + 2 ^ 58))) = 3 ∧ active.activeIn 512 0 ≠ none ∧ r active (.pcmdRelease (tCmdWord 512 0 0)) = 1 ∧
    (let run := (tParts [(256, { ctxs := [(0, 5)] })]).modSlot 36 fun sl => { sl with phase := .running }
     36 = 4 * 9 + 0 ∧ 9 ∈ run.removed (tCmdWord 256 0 512) ∧ bit (after (.pcmdShrink (tCmdWord 256 0 512)) run).hub.pstat 63 = true) ∧
    s.unendedOf 1 = [] ∧ bit (s.vf 1).ctl 62 = false ∧
    (let t := s.modVf 1 fun v => { v with law := some [], eqTail := 4 }; ((after (.vfReset 1) t).vf 1).law = none ∧ ((after (.vfReset 1) t).vf 1).eqTail = 0) ∧
    (let t := s.modVf 1 fun v => { v with ctl := word (2 ^ 62) }; after (.vfReset 1) t = t) := by decide +kernel

/-- `KernelRegistersTakeEffect`: a record in the ring and one that is lost, maps that rise and do not, and KLAW (R421, R423, R429). -/
theorem test_kernel_registers :
    let m : McRecord := { kind := 0x0102, unitType := 3, unit := 5, addr := 0x77, detail := 9 }
    let s := { tHomed with hub := { tHomed.hub with kmc := word (8 + 0x200 * 4096), kmcTail := 3, smap := 0x200400 } }
    let map := (s.devWrite 0x200400 (toBytes 6 5)).devWrite 0x200410 (toBytes 6 9)
    8 ≤ fld s.hub.kmc 0 12 ∧ fld s.hub.kmc 0 12 ≤ 16 ∧ ringFull s.hub.kmcHead s.hub.kmcTail 256 = false ∧ (after (.machineCheckRecord m) s).hub.kmcTail = 4 ∧
    (after (.machineCheckRecord m) s).devLoad 0x200060 8 = 0x0000000500030102 ∧ fld tHomed.hub.kmc 0 12 < 8 ∧ (after (.machineCheckRecord m) tHomed).hub.kmcLost = 1 ∧
    (∀ i < 1, map.devLoad (devOf map.hub.smap + 16 * i) 6 < map.devLoad (devOf map.hub.smap + 16 * (i + 1)) 6) ∧ (after (.smapnWrite 2) map).hub.smapn = 2 ∧
    s.devLoad 0x200400 6 = s.devLoad 0x200410 6 ∧ (after (.smapnWrite 2) s).hub.smapn = 0 ∧ chipOf (withFld 0x200001 0 5 0) = s.hub.chipId ∧
    (after (.mgmtRegisterWrite 0x860 0x800010) s).hub.nametab = 0x800010 ∧ after (.mgmtRegisterWrite 0x861 5) s = s ∧ (after (.klawWrite 0) s).hub.klawTable = none := by decide +kernel

/-- A management frame of a type with a sequence and a body, for the serial 0 (R450). -/
def tFrame (type seq : Nat) (body : List Byte) : List Byte :=
  toBytes 4 0x4D474B4C ++ toBytes 2 1 ++ toBytes 2 type ++ toBytes 8 seq ++ toBytes 6 0 ++ toBytes 2 0 ++ toBytes 4 body.length ++ List.replicate 36 0 ++ body ++ List.replicate 64 0

/-- `PackageResetsAndFrames`: a reset with the CXL tier and the name counter kept; frames that are not accepted, and an attestation request. Whether a signature is good
is a constant of the model without a value, so a frame shows all of its acceptance but that. -/
theorem test_package_reset :
    let s := { tState id with mem := [⟨5, 7⟩, ⟨2 ^ 40 + 5, 8⟩], hub := { (tState id).hub with slots := [some 0, some 1], issued := 77 } }
    let t := after .packageReset s
    t.slots = [] ∧ t.mem = [⟨2 ^ 40 + 5, 8⟩] ∧ t.hub.issued = 2 * 2 ^ 32 ∧ t.hub.slots = [some 2, some 1] ∧ t.hub.trip = false ∧
    (after .packageReset { s with hub := { s.hub with trip := true, off := true } }).hub.trip = true ∧ ({ copyB := some (3, [1]) } : Boot).config = [1] ∧
    (({ copyB := some (3, [1]) } : Boot).store 4 [2]).copyA = some (4, [2]) ∧ s.hub.boot.diverged = false ∧ t.hub.launches = [] := by decide +kernel
theorem test_frames :
    let s := tState id
    let nonce : List Byte := List.replicate 32 9
    frameIs 1 (tFrame 1 5 [1]) = true ∧ dsc (tFrame 1 5 [1]) 16 6 = s.hub.boot.serial.toNat ∧ s.hub.boot.sequence.toNat < (frameSeq (tFrame 1 5 [1])).toNat ∧
    (frameBody (tFrame 1 5 [1])).getD 0 0 = 1 ∧ s.accepts 1 (tFrame 2 5 [1]) = false ∧ s.accepts 2 (tFrame 1 5 [1]) = false ∧ frameIs 3 (tFrame 3 5 nonce) = true ∧
    (frameBody (tFrame 3 5 nonce)).length = 32 ∧ (frameBody (tFrame 3 5 [1])).length ≠ 32 ∧ (frameBody (tFrame 2 5 (List.replicate 512 4))).length = 512 ∧
    (after (.mgmtResetCommand (tFrame 2 5 [1])) s).hub.boot.rejected = 1 ∧ (after (.mgmtAttestationRequest (tFrame 3 5 nonce)) s).hub.boot.replies.length = 1 ∧
    ((s.attestation nonce).drop 104).take 32 = nonce ∧ (after (.mgmtResetCommand (tFrame 1 5 [1])) { s with hub := { s.hub with boot := { diverged := true } } }).hub.boot.diverged = true := by
  decide +kernel

/-- `PlatformEvents`: entropy, a package that is too hot, and lost ports (R452 to R454). Whether an image is genuine, and the temperature at which the clock falls, are constants
without a value. -/
theorem test_platform :
    let s := tState id
    s.hub.boot.booted = false ∧ s.hub.boot.fetchAt.toNat ≤ s.ktick.toNat ∧ (after .entropyHealthFailure s).hub.entropyBad = true ∧ (after .entropyHealthFailure s).hub.kmcLost = 1 ∧
    (after .entropySourceRecovery (after .entropyHealthFailure s)).hub.entropyBad = false ∧ tripTemp < tripTemp + 1 ∧ (after (.powerSample 0 (tripTemp + 1)) s).hub.off = true ∧
    powerLimit < powerLimit + 1 ∧ (after (.powerSample (powerLimit + 1) 0) s).hub.mhz = 3500 ∧ s.hub.coolFor < 99 ∧ (after (.linkRetryExhausted 17) s).hub.lostPorts = [1] ∧
    (let t := { s with hub := { s.hub with boot := { booted := true } } }; after (.bootImageFetch []) t = t) := by decide +kernel

/-! ### Steps -/

/-- A line with a word at the slot's address, and no breakpoint. -/
def tLine (w : BitVec 32) : State := tState fun sl => { sl with line := some (placedLine 0x1040 0 w) }

/-- `StepRunsDecoded`, `SlotsTakeTurns`: the slot that is next, its word, a word that is none, and one that a management core does not execute; a watchdog, an
event, the end of a cycle, and a slot that stalls or may not issue (R95, R99, R404). -/
theorem test_steps :
    let s := tLine 0x00730293
    let l := placedLine 0x1040 0 0x00730293
    s.hub.off = false ∧ s.watchdogFirst = none ∧ s.nextSlot = some 0 ∧ (match s.takeWord 0 with | .inr w => w | .inl _ => 0) = 0x00730293 ∧
    (match decode 0x00730293 with | .ok i => i == .baseAlu (.opImm .addi 5 6 7) | .refused _ => false) = true ∧ coreOf 0 < 4096 ∧ (s.slot 0).line = some l ∧
    l.va = (s.slot 0).lineVa ∧ l.asid = s.asid 0 ∧ l.poisoned = false ∧ (s.slot 0).fetchCause = none ∧ s.breakpoint 0 = none ∧ l.wordAt 0x1040 = 0x00730293 ∧
    mgmtWord 0x0044040B = false ∧ mgmtWord 0x00730293 = true ∧ (match decode 0 with | .ok _ => false | .refused _ => true) = true ∧ (s.debug 0).samples = false ∧
    (match step s with | .next t => (t.slot 0).xr 5 | _ => 0) = 6 ∧ (match step s with | .next t => t.coreNext | _ => 0) = 1 ∧
    (match step (tLine 0) with | .next t => (t.slot 0).phase | _ => .free) = .frozen ∧ (s.slots.map fun (e : Nat × Slot) => e.1).Pairwise (fun a b => a < b) := by
  decide +kernel
theorem test_cycle :
    let s := tLine 0x00730293
    let w := { s with agenda := [.watchdog 0] }.modSlot 0 fun sl => { sl with kwdog := 5, cycles := 5 }
    let u := { s with coreNext := 8192, eventsLeft := 2, agenda := [.debugHaltreq 0] }
    let f := tState fun sl => { sl with phase := .frozen }
    (match step w with | .next t => (t.slot 0).kcause | _ => 0) = 0x11 ∧ (match (tState fun sl => { sl with fetching := true }).takeWord 0 with | .inl _ => true | .inr _ => false) = true ∧
    u.watchdogFirst = none ∧ u.nextSlot = none ∧ u.nextEvent = some ({ u with agenda := [] }, some (.debugHaltreq 0)) ∧
    (match step u with | .next t => (t.debug 0).halted && t.eventsLeft == 1 | _ => false) = true ∧ f.nextSlot = none ∧ f.mayIssue 0 = false ∧ f.eventsLeft = 0 ∧
    (match step f with | .next t => t.eventsLeft | _ => 0) = 1 ∧
    (let b := (tLine 0x00108293).modSlot 0 fun sl => { sl with xm := [(1, .empty)] }
     b.stalls 0 = true ∧ b.nextSlot = none ∧ b.slots.length = 1) := by decide +kernel

/-- `PlacedWordRunsFirst`, `StepKeepsInv`, `ResetInv`: `addi x5, x0, 7` placed after reset. -/
theorem test_placed_word :
    (match decode 0x00700293 with | .ok i => i == .baseAlu (.opImm .addi 5 0 7) | .refused _ => false) = true ∧
    (match step (State.reset.withFetchWord 32 0x00700293) with | .next t => (t.slot 0).xr 5 | _ => 0) = 7 ∧ decodeTableWord 32 0x00700293 = some (.baseAlu (.opImm .addi 5 0 7)) := by
  decide +kernel
theorem test_inv : Inv State.reset ∧ ∃ t, Goes State.reset t := by
  refine ⟨⟨by decide, .inr (by decide), ?_⟩, _, rfl⟩
  intro cl k h
  simp [State.reset, State.debug, State.cluster, Tab.get] at h

/-- `CommonChecksComeInOrder`: an unaligned group, a prefix, privilege, an empty source that traps and one that stalls, a marked one, and an empty destination (R73). -/
theorem test_common_checks :
    let s := tState fun sl => { sl with xm := [(5, .empty), (6, .marked 0x60 0x99), (8, .faulty)] }
    let p := tState fun sl => { sl with kstat := 8 }
    let b := tState fun sl => { sl with wait := .blocked .store 1 [] }
    let body : Res State := .ok (tState id).complete
    (b.sl.blocked = true ∧ b.run { word := 0 } body = b) ∧ (s.run { word := 0, groups := [(3, 2)] } body).sl.kcause = 1 ∧ (p.run { word := 0 } body).sl.kcause = 2 ∧
    (s.run { word := 0, priv := 3 } body).sl.kcause = 6 ∧ s.sl.mark false 5 = .empty ∧ s.sl.mark false 6 = .marked 0x60 0x99 ∧ s.sl.mark false 7 = .full ∧
    (s.run { word := 0, srcs := [⟨false, 7, 1, false, 1⟩, ⟨false, 5, 1, true, 1⟩] } body).sl.kcause = 3 ∧ s.run { word := 0, srcs := [⟨false, 5, 1, false, 1⟩] } body = s ∧
    s.sl.mark false 8 = .faulty ∧ s.sl.mark false 9 = .full ∧ (s.run { word := 0, srcs := [⟨false, 8, 2, false, 2⟩] } body).sl.kcause = 5 ∧
    (s.run { word := 0, srcs := [⟨false, 8, 2, false, 2⟩] } body).sl.kaddr = 0x88 ∧ (s.sl.setX 8 1).mark false 8 = .full ∧
    (s.run { word := 0, srcs := [⟨false, 6, 1, false, 1⟩] } body).sl.kcause = 0x60 ∧ (s.run { word := 0, dsts := [⟨false, 7, 1, 0⟩, ⟨false, 5, 1, 0⟩] } body).sl.kcause = 4 ∧
    s.sl.blocked = false ∧ p.sl.pp = true ∧ s.sl.pp = false := by decide +kernel

/-! ### Clauses at the edges of their ranges -/

/-- `FarLoadsAndStores`: a management core's far store; `EnvironmentWordsTrap`: a near load whose latency runs. -/
def tMgmt : State :=
  { tState id with cur := 16384, slots := [(16384, { tSlot with kstat := 3 })], cores := [(4096, tCore)] }
theorem test_management_store : Meets tMgmt (let s := tMgmt
    s.isMgmt = true ∧ s.sl.phase = .running ∧ Unfenced s ∧ s.sl.farRoom 1 = true ∧ s.sl.nearFills = [] ∧ leafTensed (tLeaf 0x20 0).toNat = false ∧
    s.access s.cur .write (s.sl.xr 11) 8 = .ok (.far 0x200040 (homeOf 0 0x200040) 0 (tLeaf 0x20 0).toNat) ∧
    ((after (.baseStore .sd 11 5 0) s).net.map fun m => (m.kind, m.rstat, tagMgmt m.tag)) = [(0x21, 0, true)] ∧
    ((after (.baseStore .sd 22 5 0) (s.modCur fun sl => { sl with x := [(22, 0x220000)] })).net.map fun m => m.rstat) = [1]) :=
  meets rfl rfl rfl rfl (by unfold Unfenced; decide +kernel)

/-- `NearVectorAndPostedAccesses`: a fill whose time has come, and one whose time has not; the latencies of R83. -/
theorem test_near_latency :
    let b := tSlot.fillLater false 20 7 1
    let c := tSlot.fillLater true 20 7 3
    tSlot.nearFills = [] ∧ b.mark false 20 = .empty ∧ (b.tick false).xr 20 = 7 ∧ (b.tick false).mark false 20 = .full ∧ (b.tick false).nearFills = [] ∧
    (c.tick false).nearFills = [⟨true, 20, 7, 2⟩] ∧ (c.tick false).vmark 20 = .empty ∧ nearLatency 0 (.operand 0) = 3 ∧ nearLatency 0 (.pad 0 0) = 6 ∧
    nearLatency 0 (.pad 0 128) = 10 ∧ nearLatency 4095 (.pad 0 896) = 6 := by decide +kernel

/-- `MatrixStepsAccumulate`: an A tile with an uncorrectable word. -/
theorem test_step_meets_error :
    let s := { tStep 0 true 0 with nearBad := [operandAddr 0 0x108] }
    (s.nearError (.operand (operandAddr 0 0x100)) (tileStride 0x11000)).isSome = true ∧ (s.core 0).badArray = false ∧ (s.slot 0).kprog.toNat < 1 ∧
    ((after (.mmaStep 0) s).slot 0).kcause = 0x5B ∧ ((after (.mmaStep 0) s).slot 0).kaddr = 0xF00000000100 ∧ s.nearWeak = [] := by decide +kernel

/-- `SendsQueueOneMessage`: a reply through a channel tag whose word names a function that no context of its core has, and one that has one; a
reply word above bit 58. -/
theorem test_reply_targets :
    let s := tSend 0
    let none' : Word := word (2 ^ 30 + 5 * 2 ^ 52)
    let mine : Word := word (2 ^ 30)
    s.replyTarget none' = .trap 0x40 none' ∧ s.replyTarget mine = .ok 0 ∧ tagKind (mine.setWidth 32) ≠ 0 ∧ fld mine 59 5 = 0 ∧
    (after (.reply (tK 0 5 25 0)) (s.modCur fun sl => { sl with x := [(25, none')] })).sl.kcause = 0x40 ∧
    ((after (.reply (tK 0 5 25 0)) (s.modCur fun sl => { sl with x := [(25, mine)] })).core 0).outq.map (fun o => o.msg.ctx) = [0] ∧
    s.replyTarget (s.sl.xr 26) = .ok 0 ∧ (after (.reply (tK 0 5 26 0)) s).sl.kcause = 0x43 := by decide +kernel

/-- `SuspensionWritesTheRecord`: a message of the clause that has not left. -/
theorem test_suspension_waits_for_messages :
    let s := (tEntries tSuspending).modCore 0 fun c => { c with outq := [{ msg := { key := 0x77 }, slot := 0, gen := 0, seqs := [3], fwd := 0 }] }
    (tEntries tSuspending).outWaits 0 ((tEntries tSuspending).slot 0).kpath = false ∧ s.outWaits (coreOf 0) (s.slot 0).kpath = true ∧
    after (.suspensionCommit 0) s = s := by decide +kernel

/-- `FencesAndOwnership`, `PendingFencesHoldTheNextAccess`, `BarrierInstructionsAskTheObject`: a full fence under a release of a wider and of its own scope;
a near load that is not filled; the store of a sequentially consistent access that is not performed; `barinv` with a store out. -/
theorem test_fence_edges : Meets (tState fun sl => { sl with fence := some (2, 3) }) (let s := tState fun sl => { sl with fence := some (2, 3) }
    s.waitSet s.cur 2 = [] ∧ s.sl.readsFilled = true ∧ s.sl.fence = some (2, 3) ∧ (after (.fen (tK 0 11 0 0)) s).sl.fence = some (2, 3) ∧
    (after (.fen (tK 0 15 0 0)) s).sl.fence = none ∧
    (let n := s.modCur fun sl => { sl with fence := none, nearFills := [⟨false, 20, 0, 2⟩] }
     n.sl.nearFills ≠ [] ∧ after (.fen (tK 0 11 0 0)) n = n) ∧
    (let c := s.modCur fun sl => { sl with fence := some (4, 0), fwd := [{ addr := 128, bytes := [1] }] }
     c.sl.fence = some (4, 0) ∧ c.fenceReady false = false ∧ (s.modCur fun sl => { sl with fence := some (4, 0) }).fenceReady false = true)) :=
  meets rfl rfl rfl rfl (by decide +kernel)
theorem test_barinv_waits : Meets ((tNamed 1 0x220000 false).modCur fun sl => { sl with fwd := [{ addr := 128, bytes := [1] }] })
    (let s := (tNamed 1 0x220000 false).modCur fun sl => { sl with fwd := [{ addr := 128, bytes := [1] }] }
     s.released s.cur 2 = false ∧ (tNamed 1 0x220000 false).released 0 2 = true ∧ after (.barinv (tK 0 0 20 0)) s = s ∧
     ((after (.barinv (tK 0 0 20 0)) (tNamed 1 0x220000 false)).net.map fun m => m.kind) = [0x32]) := meets rfl rfl rfl rfl (by decide +kernel)

/-- `NameInstructions`: a new name where the counter is exhausted. -/
theorem test_exhausted_names : Meets (tNames.modCluster 0 fun c => { c with nameLeft := 0 })
    (let s := tNames.modCluster 0 fun c => { c with nameLeft := 0 }
     let s := { s with hub := { s.hub with issued := 2 ^ 80, slots := [some (2 ^ 48 - 1), none] } }
     (s.cluster 0).nameLeft = 0 ∧ s.hub.canIssue = false ∧ s.hub.exhausted = true ∧ s.bindingTarget (s.sl.xr 11) = .ok (0x200040, 0, 65472) ∧
     ((after (.nmnew (tK 0 0 11 6)) s).net.map fun m => reqArg m 2) = [1] ∧ (after (.nmnew (tK 0 0 11 6)) s).sl.kseq = 4) := meets rfl rfl rfl rfl (by decide +kernel)

/-- `GroupMemberIsRead`: no word with a corrected error is left. -/
theorem test_group_corrects : (tGroup 0xF00000000100).nearWeak = [] ∧
    (after (.grp (tK 0 5 5 20)) { tGroup 0xF00000000100 with nearWeak := [operandAddr 0 0x120] }).nearWeak = [] := by decide +kernel

/-- `HomeReadsAndWrites`, `HomeAdmitsOwnersAndTableEntries`, `HomesWatch`: no weak atom; a request on behalf of another chip, and the management
path; a prefetch of a page of the CXL tier. -/
theorem test_home_edges :
    let s := tHomed
    let m := tReq 0x20 [0x200040, 8]
    let b := { m with behalf := some 7 }
    let c := s.setDpit 0x20 (2 ^ 63 + 2 ^ 60 + 0x20)
    let p := { tReq 0x24 [0x200040, 2] with unit := homeOf 0 0x200040 }
    let media := mediaOfEntry (2 ^ 63 + 2 ^ 60 + 0x20) 0x200040
    s.weak = [] ∧ tagPath m.tag = false ∧ b.behalf.getD b.srcChip ≠ s.hub.chipId ∧ s.findLine b 0x200040 false true false = .refused 2 false ∧
    s.findLine b 0x200040 true true false = .at tMedia (2 ^ 63 + 0x20) ∧ s.findLine m 0x300040 true true false = .refused 2 true ∧
    c.findLine p 0x200040 false true false = .at media (2 ^ 63 + 2 ^ 60 + 0x20) ∧ 2 ^ 40 ≤ media ∧ c.holder p = none ∧
    (after (.prefetchRequest p) c).hub.tierBuf = [media, media + 64] := by decide +kernel

/-- `RepliesFillAndComplete`: every kind of reply ends a request; the hub's and a name unit's answers complete their instruction. -/
theorem test_reply_kinds :
    let s := tOut (.fillX 6 8 1 false) .none
    let h := tOut .blocking (.blocked (.hub 1 6) 1 [])
    let n := tOut .blocking (.blocked (.name 4 6 0x55 []) 1 [])
    let m := tAnswer 0 42
    let kinds : List (Msg → Instr) := [.readReply, .writeAcknowledgement, .nearMemoryReply, .tensedReply, .hubReply, .nameReply, .queryReply]
    kinds.all (fun i => (after (i m) s).sl.xr 6 == 42 && (after (i m) s).sl.far.isEmpty) = true ∧
    ((s.slot 0).far.map fun f => (f.gen == (s.slot 0).gen, f.name, f.launch)) = [(true, none, 0)] ∧ s.parks { m with launch := 0, window := 0 } = false ∧
    (h.slot 0).wait = .blocked (.hub 1 6) 1 [] ∧ (after (.hubReply m) h).sl.xr 6 = 42 ∧ (after (.hubReply m) h).sl.pc = 0x1044 ∧
    (n.slot 0).wait = .blocked (.name 4 6 0x55 []) 1 [] ∧ (after (.nameReply m) n).sl.xr 6 = 42 ∧ (after (.nameReply m) n).sl.pc = 0x1044 := by decide +kernel

/-- `HandlerMessagesQueueAtTheirChannel`, `ClauseMessagesTakeEffect`: a message of a launch that the context's present one has followed. -/
theorem test_outlasted_message :
    let s := { tState id with hub := { (tState id).hub with launches := [(1, { state := 2, live := 1 }), (7, { state := 3, node := 512 })] } }
    let m : Msg := { kind := 0, chan := 9, launch := 7, payload := [1, 2] }
    (s.ctx 0 0).launch ≠ 0 ∧ m.launch ≠ 0 ∧ m.launch ≠ (s.ctx 0 0).launch ∧ m.forVf = none ∧ m.rpay = false ∧ s.outlasted 0 0 (s.ctx 0 0) m = true ∧
    ((after (.handlerMessage m) s).ctx 0 0).chans = [] ∧ fld ((after (.handlerMessage m) s).ctx 0 0).ctxErr 16 16 = 1 := by decide +kernel

/-- `FetchPortDeliversLines`, `WatchdogEndsTheClause`, `DispatchAndDeparture`: what else their states hold; a watchdog with a store out; a departure that
waits for a near load. -/
theorem test_dispatch_edges :
    let s := tState fun sl => { sl with cycles := 100, kwdog := 100, far := [{ gen := 0, seq := 9, kind := 0x21, va := 0, ga := 0, unit := 0, chip := 0, use := .posted }] }
    let o : Out := { msg := {}, slot := 0, gen := 0, seqs := [], fwd := 0 }
    let q := fun (l : List Out) => (tState id).modCore 0 fun c => { c with outq := l }
    (tFetching 0x200044).weak = [] ∧ ({ unit := homeOf 0 0x200040 } : Msg).behalf = none ∧ (∀ f ∈ (s.slot 0).far, f.kind ≠ 0x32) ∧ (s.slot 0).clause.regs = [] ∧
    coreOf 0 < 4096 ∧ (after (.watchdog 0) s).sl.phase = .free ∧ s.hub.heldReports = [] ∧ (∀ j < 4, (tDispatch.ctx 0 j).preempted = false) ∧
    (let p := { o with near := 2 }; ((after (.messageDeparture 0) (q [p, o])).core 0).outq = [p, o]) := by decide +kernel

/-- `CopyCommandsAreQueued`, `EnginesRunCommands`: no corrected word; a command whose rows are done though it is asked to stop; a chunk that is not acknowledged. -/
theorem test_engine_edges :
    (tCpy (tCopy 0x200000 0xF00001000000 64 0)).nearWeak = [] ∧
    (((after (.engineRow 0) (tEngine (some (tCmd 3 1)) [] [])).engine 0).kept.map fun k => k.2.1) = [0x2000000000000003] ∧
    (tCmd 3 1).count ≤ (tCmd 3 1).row ∧ (tCmd 1 2).row < (tCmd 1 2).count ∧ (tCmd 3 0).acked = none ∧ (tEngine none [] []).engineHalted 0 = false := by decide +kernel

/-- `WordsAreTouchedAtTheirLaw`: the page is still TENSED; a sweep address that is none. -/
theorem test_sweep_edges :
    let s := tTensed [] 0
    s.weak = [] ∧ s.stillTensed (pageOf 0x210000) none = true ∧ (0x210000 : Word) ≠ findPages ∧ s.hub.tensed.find (pageOf (devOf 0x210000)) = some none ∧
    (after (.sweepTouch 0x210000) s).timers = [(100 + 2 ^ 18, .sweepTouch 0x210010)] := by decide +kernel

/-- `NameUnitPerformsRequests`, `ShootDownsAndCommits`: a new name without a value; a table without room; the number that a shoot-down carries and its
acknowledgement returns; an entry that is dead and through which no access is out. -/
theorem test_shoot_down_numbers :
    let s := (tTable 1).modStack ((tTable 1).nameUnit 0x55) fun u => { u with nameSeq := 6 }
    let t := after (.nameRequest (tNameAsk 3 0x55 [0, 0, 0, 0])) s
    let named := fun (n : Nat) (d : Bool) => (tState id).modCluster 0 fun c =>
      { c with names := [{ name := 0x54, binding := 0, attr := 0 }, { name := 0x55, binding := 0, attr := 0, inFlight := n, dead := d, op := 6 }] }
    let m : Msg := { kind := 0x3A, unit := 5, payload := [0x55, 0, 6, 0] }
    ((after (.nameRequest (tNameAsk 1 0x99 [0, 0, 1])) s).net.map fun r => r.payload) = [[12, 0, 0, 0, 0, 0]] ∧
    ((after (.nameRequest (tNameAsk 1 0x99 [0, 7])) (tState id)).net.map fun r => r.payload) = [[11, 0, 0, 0, 0, 0]] ∧
    reqArg (tNameAsk 1 0x99 [0, 0, 1]) 2 = 1 ∧ t.net.all (fun r => r.kind == 0x3A && r.payload == [0x55, 0, 6, 0]) = true ∧ (t.stack (s.nameUnit 0x55)).nameSeq = 7 ∧
    ((after (.shootDown m) (named 0 false)).net.map fun r => (r.kind, r.unit, r.payload)) = [(0x3B, 5, [0x55, 0, 6, 0])] ∧
    (((after (.shootDown m) (named 0 false)).cluster 0).names.map fun e => e.name) = [0x54] ∧
    (((after (.shootDown m) (named 2 false)).cluster 0).names.map fun e => (e.dead, e.op)) = [(false, 0), (true, 6)] ∧
    ((named 0 true).cluster 0).names.any (fun e => e.name == 0x55 && e.dead && e.inFlight != 0) = false ∧
    (((named 0 true).cluster 0).names.find? (fun e => e.name == 0x55 && e.dead)).map (fun d => d.op) = some 6 ∧
    ((after (.shootDownDrain 0 5 0x55) (named 0 true)).net.map fun r => r.payload) = [[0x55, 0, 6, 0]] ∧
    after (.shootDownDrain 0 5 0x55) (named 1 true) = named 1 true ∧ after (.shootDownDrain 0 5 0x55) (named 0 false) = named 0 false := by decide +kernel

/-- `KernelNameCommands`, `TranslationsAndLostPackages`: NAMECMD holds its operation; a table; a request of each kind that is answered when its package goes down. -/
theorem test_name_command_register :
    let s := tBlock true false 0x55 0 0
    s.nameTable ≠ none ∧ ({ s with hub := { s.hub with namecmd := word (2 ^ 60) } }).hubName.isSome = true ∧ (after .namecmdKill s).hub.namecmd = word (3 * 2 ^ 60) ∧
    (after .namecmdNew (tBlock false false 0x55 0 0)).hub.namecmd = word (2 ^ 60) ∧ bit (after .namecmdKill s).hub.namestat 63 = true ∧
    ((tTables.slot 0).far.map fun f => (f.chip, f.kind)) = [(7, 0x20)] ∧ coreOf 0 < Config.firstMgmtCore := by decide +kernel

/-- `SystemInstructions`: a clause that is killed while a store is out; an invalidation while a fetched line is due, which drops it. -/
theorem test_system_edges :
    let s := (tSystem 3).modSlot 1 fun sl => { sl with far := [{ gen := 0, seq := 9, kind := 0x21, va := 0, ga := 0, unit := 0, chip := 0, use := .posted }] }
    let f := (tSystem 3).modSlot 1 fun sl => { sl with fetchFar := some 7 }
    (s.slot 1).barrierOut = false ∧ ((after (.skill (tK 0 0 5 20)) s).slot 1).phase = .free ∧ (f.through 0x30000 0).isEmpty = false ∧
    ((after (.tlbinv (tK 0 21 12 20)) (f.modCur fun sl => { sl with x := (21, 0x30000) :: sl.x })).slot 1).fetchDropped = true := by decide +kernel

/-- `EstimatorsAcceptInOrder`: after exhaustion, a stop and a kill, a position that came, one that was handed out and one that was not. -/
theorem test_estimator_ends :
    let e := fun (st : Nat) => tEst fun x => { x with state := st }
    let ans := fun (s : State) (n : Word) => ((after (.estimatorRequest (tEstAsk [1, n, 0, 0])) s).net.map fun r => r.payload).take 1
    ans (e 3) 5 = [[6, 0]] ∧ ans (e 3) 2 = [[5, 0]] ∧ ans (e 2) 7 = [[4, 0]] ∧ ans (e 4) 2 = [[5, 0]] ∧ ans (e 4) 3 = [[4, 0]] ∧
    ((after (.estimatorRequest (tEstAsk [0, 0])) (e 3)).net.map fun r => r.payload) = [[0, 0, -1, -1]] ∧ after (.estimatorHandout 0) (e 3) = e 3 ∧
    (e 3).itemsGone 1 = false ∧ (e 2).itemsGone 1 = true := by decide +kernel

/-- `PagesMoveAndAreScrubbed`: a block of a stack's reserve, one that is none and a map that is full; a page's copy that keeps a HINT; a tracker between periods. -/
theorem test_reserve_moves :
    let s := tHomed
    let page := reservePages + 3 * 2 ^ 24 + (reserveBlock + 5)
    let m := { tMoving (List.range 16) with mem := (tMoving (List.range 16)).mem }.setDpit 0x20 (2 ^ 63 + 2 ^ 62 + 2 * 2 ^ 28 + 0x20)
    (page - reservePages) / 2 ^ 24 = 3 ∧ (s.stack 3).reserveMap.length < 32 ∧ ((after (.pageMove page 0x77) s).stack 3).reserveMap = [(reserveBlock + 5, 0x77)] ∧
    (0x20 < reservePages) ∧ s.weak = [] ∧ s.hub.tracker.period = none ∧
    (m.hub.moves.find 0x20).map (fun v => (v.after, v.waiter, v.tracked, dpitHint (v.final (2 ^ 63 + 2 ^ 62 + 2 * 2 ^ 28 + 0x20)))) = some (none, none, false, 2) := by decide +kernel

/-- `FabricWindowsCombine`: a redeclaration that names an unknown member withdraws the window; WINCMD holds its operation. -/
theorem test_redeclare_unknown :
    let s := tDeclare (tWindow false []) 2 0xC0000 false
    let x := tDeclare tHomed 1 0 false
    s.holder (tReq 0x31 [0x200040, 0, 5, 0]) = none ∧ s.weak = [] ∧ (s.homedWindow 2).isSome = true ∧ (s.declared 2).map (fun x => x.members) = some [0, 0xC0000] ∧
    (after (.wincmdRedeclare 2) s).hub.windows = [] ∧ fld (after (.wincmdRedeclare 2) s).hub.winstat 60 4 = 3 ∧ (after (.wincmdRedeclare 2) s).hub.wincmd = word (2 * 2 ^ 60 + 2 * 2 ^ 54) ∧
    x.hub.windows.length < 64 ∧ x.homedWindow 2 = none ∧ (x.declared 2).map (fun x => x.members) = some [0] ∧ ((tDeclare (tWindow false []) 1 0 false).declared 2).isSome = true := by decide +kernel

/-- `FabricWindowsCombine`: a list of contributors at package 7 is asked for, and the window is declared once it has come. -/
def tFarList : State := (tDeclare tHomed 1 0 false).devWrite 0x200120 (toBytes 8 (7 * 2 ^ 44 + 0x200200))
theorem test_far_contributors :
    let s := tFarList
    s.homedWindow 2 = none ∧ s.hub.reads = [] ∧ (s.windowBlock 2).map (fun b => (chipOf b.2.1, b.2.2)) = some (7, 1) ∧ s.hub.chipId = 0 ∧ s.chipDown 7 = false ∧
    bit (after (.wincmdDeclare 2) s).hub.winstat 63 = true := by decide +kernel
theorem test_far_contributors_come :
    let u := after (.wincmdDeclare 2) tFarList
    let line := 2 * 2 ^ 64 + 7 * 2 ^ 44 + 0x200200
    fld (u.tableLineCame line 0 (toBytes 64 7)).hub.winstat 60 4 = 0 ∧ bit (u.tableLineCame line 0 (toBytes 64 7)).hub.winstat 63 = false ∧
    fld (u.tableLineCame line 1 []).hub.winstat 60 4 = 2 := by decide +kernel

/-- `KernelRegistersTakeEffect`: a machine-check ring at package 7 gets its record by a write request. -/
theorem test_far_ring :
    let s := { tHomed with hub := { tHomed.hub with kmc := word (7 * 2 ^ 44 + 0x200008), kmcTail := 3 } }
    let u := after (.machineCheckRecord { kind := 0x0102, unitType := 3, unit := 5, addr := 0x40, detail := 9 }) s
    ringFull s.hub.kmcHead s.hub.kmcTail 256 = false ∧ u.hub.kmcTail = 4 ∧
    (u.fabricOut.map fun m => (m.dstChip, m.payload.take 3)) = [(7, [word (7 * 2 ^ 44 + 0x200060), 32, 0x0000000500030102])] := by decide +kernel

/-- `PartitionsChange`: latches after MERGE; a reset while nothing of the function is out. -/
theorem test_merge_and_reset :
    let half : Part := { ctxs := [(0, 5)] }
    let b := (tParts [(512, half), (513, half)]).modCtx 9 0 fun c => { c with bl := [(0, { state := .valid })] }
    let s := tParts [(512, half)]
    9 ∈ b.nodeCores 256 ∧ ((after (.pcmdMerge (tCmdWord 256 0 0)) b).ctx 9 0).bl = [] ∧ ((after (.pcmdMerge (tCmdWord 256 0 0)) b).ctx 9 0).saveBase = 0x400000 ∧
    s.hub.opWait = none ∧ s.slots.all (fun (e : Nat × Slot) => e.2.far.isEmpty && e.2.fetchFar.isNone) = true ∧ s.clusters.all (fun (e : Nat × Cluster) => e.2.engine.running.isNone) = true := by decide +kernel

/-- `KernelRegistersTakeEffect`: a serial map at another package and one of too many entries; writes while the kernel's law table is read; registers that are read back. -/
theorem test_registers_and_reads :
    let s := tHomed
    let far := { s with hub := { s.hub with smap := word (7 * 2 ^ 44 + 0x1000) } }
    s.hub.reads = [] ∧ chipOf far.hub.smap ≠ s.hub.chipId ∧ far.chipDown (chipOf far.hub.smap).toNat = false ∧ far.hub.smap.toNat % 4096 = 0 ∧
    ((after (.smapnWrite 2) far).fabricOut.map fun m => (m.kind, m.dstChip, m.payload)) = [(0x20, 7, [word (7 * 2 ^ 44 + 0x1000), 64])] ∧
    ((after (.smapnWrite 2) far).hub.reads.map fun r => r.what == .map) = [true] := by decide +kernel
theorem test_registers_held :
    let s := tHomed
    let law := after (.klawWrite (word (7 * 2 ^ 44 + 0x2001))) s
    786432 < fld 786433 0 20 ∧ (after (.smapnWrite 786433) s).hub.smapn = 0 ∧ s.lawReading = false ∧ law.lawReading = true ∧
    (after (.mgmtRegisterWrite 0x830 5) law).hub.heldWrites = [(0x830, 5)] ∧ (after (.mgmtRegisterWrite 0x830 5) law).hub.kmc = 0 ∧ s.registerRead 0x811 = 0 ∧
    (after (.mgmtRegisterWrite 0x810 0x123456) s).registerRead 0x810 = 0x123000 := by decide +kernel

/-- `PackageResetsAndFrames`: the poison of both tiers is gone (R232). -/
theorem test_reset_poison :
    (after .packageReset { tState id with poison := [0x40, 2 ^ 40 + 64] }).poison = [] ∧ (tState id).hub.boot.diverged = false := by decide +kernel

end
end

section
/-!
HANDLER_DISPATCH and MESSAGE_DEPARTURE (06_messages.md R104, R106, R108, R109): what a dispatch of a channel and a departure do,
operation by operation, and the obligation assembled from it.
-/
namespace Sys2Proof.Machine

/-! ### The two events -/

theorem exec_handlerDispatch (slot : Nat) (s : State) : exec (.handlerDispatch slot) s = .next (s.dispatch slot) := rfl
theorem exec_messageDeparture (core : Nat) (s : State) : exec (.messageDeparture core) s = .next (s.depart core) := rfl

/-! ### What a dispatch passes over -/

/-- Aging changes the age, the boost and the place among the aged of a channel only (R109). -/
theorem ageChans_get_frame (pick : Pick) (ready : List Nat) (j : Nat) (d : Chan) : ∀ (t : Tab Chan) (stamp : Nat),
    (ageChans pick ready stamp t).1.get j d = { t.get j d with
      age := ((ageChans pick ready stamp t).1.get j d).age, boost := ((ageChans pick ready stamp t).1.get j d).boost,
      aged := ((ageChans pick ready stamp t).1.get j d).aged } := by
  intro t; induction t with
  | nil => intro stamp; rfl
  | cons e t ih =>
    obtain ⟨i, ch⟩ := e
    intro stamp
    by_cases hj : j = i
    · subst hj; unfold ageChans; split
      · simp [Tab.get]
      · split <;> simp [Tab.get]
    · unfold ageChans; split
      · simpa [Tab.get, hj] using ih stamp
      · split
        · simpa [Tab.get, hj] using ih _
        · simpa [Tab.get, hj] using ih stamp

@[simp] theorem Ctx.aging_queue (x : Ctx) (pick : Pick) (ready : List Nat) (j : Nat) (d : Chan) :
    ((x.aging pick ready).chans.get j d).queue = (x.chans.get j d).queue := by simp only [Ctx.aging]; rw [ageChans_get_frame]
@[simp] theorem Ctx.aging_entry (x : Ctx) (pick : Pick) (ready : List Nat) (j : Nat) (d : Chan) :
    ((x.aging pick ready).chans.get j d).entry = (x.chans.get j d).entry := by simp only [Ctx.aging]; rw [ageChans_get_frame]

/-! ### The slot and the choice -/

theorem State.saveIdle_of_none_preempted (s : State) (core : Nat) (h : ∀ j < 4, (s.ctx core j).preempted = false) : s.saveIdle core = s := by
  rw [State.saveIdle, if_neg]
  simpa using h

/-- The slot that binds is one of the core's four. -/
theorem State.coreOf_idleSlot {s : State} {core k : Nat} (h : s.idleSlot core = some k) : coreOf k = core := by
  have hk := List.mem_of_find?_eq_some h
  simp only [List.mem_cons, List.not_mem_nil, or_false] at hk
  unfold coreOf
  omega

/-- A reproducible context dispatches from its list: what it picks is no channel (R122). -/
theorem State.repro_of_pickOf_chan {s : State} {core c i : Nat} (h : s.pickOf core c = some (.chan i)) : (s.ctx core c).repro = false := by
  cases hr : (s.ctx core c).repro with
  | false => rfl
  | true =>
    simp only [State.pickOf, hr, if_true, State.listReady] at h
    split at h
    · exact nomatch h
    · simp at h

@[simp] theorem State.wake_mem (s : State) (core : Nat) : (s.wake core).mem = s.mem := by unfold State.wake; split <;> rfl
@[simp] theorem State.slot_wake (s : State) (core j : Nat) : (s.wake core).slot j = s.slot j := by unfold State.wake; split <;> rfl
@[simp] theorem State.ctx_wake (s : State) (core i j : Nat) : (s.wake core).ctx i j = s.ctx i j := by unfold State.wake; split <;> rfl

/-- The first context in turn dispatches what it picks, where no context waits to be saved and the cluster runs. -/
theorem State.dispatch_next (s : State) (slot k : Nat) (p : Pick) (hd : (s.debug (clusterOf (coreOf slot))).halted = false)
    (hs : ∀ j < 4, (s.ctx (coreOf slot) j).preempted = false) (hk : s.idleSlot (coreOf slot) = some k)
    (hp : s.pickOf (coreOf slot) (((s.core (coreOf slot)).lastCtx + 1) % 4) = some p) :
    s.dispatch slot = (s.dispatchItem k (((s.core (coreOf slot)).lastCtx + 1) % 4) p).wake (coreOf slot) := by
  simp [State.dispatch, hd, State.saveIdle_of_none_preempted s _ hs, hk, hp]

theorem State.dispatch_halted (s : State) (slot : Nat) (h : (s.debug (clusterOf (coreOf slot))).halted = true) : s.dispatch slot = s := by
  rw [State.dispatch, if_pos h]

@[simp] theorem State.ctx_setLastCtx (s : State) (core c i j : Nat) : (s.modCore core fun x => { x with lastCtx := c }).ctx i j = s.ctx i j := by
  by_cases hi : i = core
  · subst hi; simp only [State.ctx, State.core_modCore]
  · simp only [State.ctx, State.core_modCore_other _ _ _ _ hi]

/-- Two updates of a context that agree on the context it is are one update. -/
theorem State.modCtx_congr {s : State} {core c : Nat} {f g : Ctx → Ctx} (h : f (s.ctx core c) = g (s.ctx core c)) :
    s.modCtx core c f = s.modCtx core c g := by rw [State.modCtx, State.modCtx, h]

/-! ### A channel gives up its oldest message -/

/-- The context once channel `i` has been chosen: the channel has lost its oldest message, and is pending while it has more (R108). -/
def Ctx.takeOldest (x : Ctx) (i : Nat) : Ctx :=
  let rest := (x.chans.get i {}).queue.drop 1
  { x with lastChan := i, chans := x.chans.set i { x.chans.get i {} with queue := rest, pending := !rest.isEmpty } }

/-- The state once channel `i` of a context has been chosen: the context has had its turn, its other items have aged, and the channel has
lost its oldest message (R108, R109). -/
def State.chanTaken (s : State) (core c i : Nat) : State :=
  let ready := (s.readyChans core c).map fun e => e.1
  ((s.modCore core fun x => { x with lastCtx := c }).modCtx core c fun x => x.aging (.chan i) ready).modCtx core c fun x => x.takeOldest i

theorem Ctx.takeOldest_queue (x : Ctx) (i : Nat) : ((x.takeOldest i).chans.get i {}).queue = (x.chans.get i {}).queue.drop 1 := by
  rw [Ctx.takeOldest, Tab.get_set_same]
theorem Ctx.takeOldest_pending (x : Ctx) (i : Nat) :
    ((x.takeOldest i).chans.get i {}).pending = !((x.chans.get i {}).queue.drop 1).isEmpty := by rw [Ctx.takeOldest, Tab.get_set_same]
theorem Ctx.takeOldest_entry (x : Ctx) (i : Nat) : ((x.takeOldest i).chans.get i {}).entry = (x.chans.get i {}).entry := by
  rw [Ctx.takeOldest, Tab.get_set_same]

@[simp] theorem State.chanTaken_mem (s : State) (core c i : Nat) : (s.chanTaken core c i).mem = s.mem := rfl
@[simp] theorem State.slot_chanTaken (s : State) (core c i j : Nat) : (s.chanTaken core c i).slot j = s.slot j := rfl
theorem State.ctx_chanTaken (s : State) (core c i : Nat) :
    (s.chanTaken core c i).ctx core c = ((s.ctx core c).aging (.chan i) ((s.readyChans core c).map fun e => e.1)).takeOldest i := by
  simp only [State.chanTaken, State.ctx_modCtx, State.ctx_setLastCtx]

theorem State.chanTaken_entry (s : State) (core c i : Nat) :
    (((s.chanTaken core c i).ctx core c).chans.get i {}).entry = ((s.ctx core c).chans.get i {}).entry := by
  rw [State.ctx_chanTaken, Ctx.takeOldest_entry, Ctx.aging_entry]
theorem State.chanTaken_queue (s : State) (core c i : Nat) :
    (((s.chanTaken core c i).ctx core c).chans.get i {}).queue = ((s.ctx core c).chans.get i {}).queue.drop 1 := by
  rw [State.ctx_chanTaken, Ctx.takeOldest_queue, Ctx.aging_queue]
theorem State.chanTaken_pending (s : State) (core c i : Nat) :
    (((s.chanTaken core c i).ctx core c).chans.get i {}).pending = !(((s.ctx core c).chans.get i {}).queue.drop 1).isEmpty := by
  rw [State.ctx_chanTaken, Ctx.takeOldest_pending, Ctx.aging_queue]
@[simp] theorem State.chanTaken_wdog (s : State) (core c i : Nat) : ((s.chanTaken core c i).ctx core c).wdog = (s.ctx core c).wdog := by
  rw [State.ctx_chanTaken]; rfl
@[simp] theorem State.chanTaken_launch (s : State) (core c i : Nat) : ((s.chanTaken core c i).ctx core c).launch = (s.ctx core c).launch := by
  rw [State.ctx_chanTaken]; rfl
@[simp] theorem State.chanTaken_codeBase (s : State) (core c i : Nat) :
    ((s.chanTaken core c i).ctx core c).codeBase = (s.ctx core c).codeBase := by rw [State.ctx_chanTaken]; rfl

/-- A context that is not reproducible and holds no request in the network binds the oldest message of the channel that it picks. -/
theorem State.dispatchItem_chan (s : State) (k c i : Nat) (hr : (s.ctx (coreOf k) c).repro = false) (hh : (s.ctx (coreOf k) c).held = []) :
    s.dispatchItem k c (.chan i) = (s.chanTaken (coreOf k) c i).bindChannel k c i ((s.ctx (coreOf k) c).chans.get i {}).queue.head? := by
  have haged : ∀ ready, ((s.ctx (coreOf k) c).aging (.chan i) ready).held = [] := fun _ => hh
  simp only [State.dispatchItem, State.ctx_setLastCtx, hr, Bool.false_eq_true, if_false, State.ctx_modCtx, haged, List.length_nil, State.takeIn,
    Ctx.aging_queue, State.chanTaken]
  refine congrArg (fun t => State.bindChannel t k c i _) (State.modCtx_congr ?_)
  simp only [State.ctx_modCtx, State.ctx_setLastCtx, Ctx.aging_queue, Ctx.takeOldest]

/-! ### The clause that a message starts -/

/-- A slot that can bind takes the clause under its next generation (R103). -/
theorem State.bindSlot_of_nextGen (s : State) (k g : Nat) (b : Start) (h : nextGen (s.slot k).owed (s.slot k).gen 1024 = some g) :
    s.bindSlot k b = s.setSlot k ((s.slot k).bound g (s.ctx (coreOf k) b.clause.ctx).wdog s.stamp b) := by
  simp only [State.bindSlot, h]

/-- A clause that starts has each word of its payload in the register from x16 up that it is for. -/
theorem Slot.xr_bound_payload (sl : Slot) (g : Nat) (wd : Word) (now : BitVec 32) (b : Start) (j : Nat) (h : j < b.high.length) (h12 : j < 12) :
    (sl.bound g wd now b).xr (16 + j) = b.high.getD j 0 := by
  have hj : j < (b.high.take 12).length := by simp; omega
  simp only [Slot.bound]
  rw [Slot.xr_setXs, if_pos (by omega)]
  simp [List.getD, h12]

theorem Slot.xmark_setXs_of_full (ws : List Word) : ∀ (sl : Slot) (r : Nat), (∀ j, sl.xmark j = .full) → ∀ j, (sl.setXs r ws).xmark j = .full := by
  induction ws with
  | nil => intro sl r h j; exact h j
  | cons w t ih =>
    intro sl r h j
    refine ih _ _ (fun i => ?_) j
    rw [Slot.xmark_setX, h i, ite_self]

/-- Every register of a clause that starts is full (R20). -/
theorem Slot.xmark_bound (sl : Slot) (g : Nat) (wd : Word) (now : BitVec 32) (b : Start) (r : Nat) : (sl.bound g wd now b).xmark r = .full :=
  Slot.xmark_setXs_of_full _ _ _ (Slot.xmark_setXs_of_full _ _ _ fun j => by simp [Slot.xmark, Tab.get]) r

section
variable (sl : Slot)
@[simp] theorem Slot.setXs_phase (r : Nat) (ws : List Word) : (sl.setXs r ws).phase = sl.phase := by rw [Slot.setXs_frame]
@[simp] theorem Slot.setXs_gen (r : Nat) (ws : List Word) : (sl.setXs r ws).gen = sl.gen := by rw [Slot.setXs_frame]
@[simp] theorem Slot.setXs_pc (r : Nat) (ws : List Word) : (sl.setXs r ws).pc = sl.pc := by rw [Slot.setXs_frame]
@[simp] theorem Slot.setXs_kpath (r : Nat) (ws : List Word) : (sl.setXs r ws).kpath = sl.kpath := by rw [Slot.setXs_frame]
@[simp] theorem Slot.setXs_kseq (r : Nat) (ws : List Word) : (sl.setXs r ws).kseq = sl.kseq := by rw [Slot.setXs_frame]
@[simp] theorem Slot.setXs_cycles (r : Nat) (ws : List Word) : (sl.setXs r ws).cycles = sl.cycles := by rw [Slot.setXs_frame]
@[simp] theorem Slot.setXs_kwdog (r : Nat) (ws : List Word) : (sl.setXs r ws).kwdog = sl.kwdog := by rw [Slot.setXs_frame]
@[simp] theorem Slot.setXs_clause (r : Nat) (ws : List Word) : (sl.setXs r ws).clause = sl.clause := by rw [Slot.setXs_frame]

variable (g : Nat) (wd : Word) (now : BitVec 32) (b : Start)
@[simp] theorem Slot.bound_phase : (sl.bound g wd now b).phase = .running := by simp only [Slot.bound, Slot.setXs_phase]
@[simp] theorem Slot.bound_gen : (sl.bound g wd now b).gen = g := by simp only [Slot.bound, Slot.setXs_gen]
@[simp] theorem Slot.bound_pc : (sl.bound g wd now b).pc = b.pc := by simp only [Slot.bound, Slot.setXs_pc]
@[simp] theorem Slot.bound_kpath : (sl.bound g wd now b).kpath = b.digest := by simp only [Slot.bound, Slot.setXs_kpath]
@[simp] theorem Slot.bound_kseq : (sl.bound g wd now b).kseq = b.seq := by simp only [Slot.bound, Slot.setXs_kseq]
@[simp] theorem Slot.bound_cycles : (sl.bound g wd now b).cycles = 0 := by simp only [Slot.bound, Slot.setXs_cycles]
@[simp] theorem Slot.bound_kwdog : (sl.bound g wd now b).kwdog = wd := by simp only [Slot.bound, Slot.setXs_kwdog]
@[simp] theorem Slot.bound_clause : (sl.bound g wd now b).clause = { b.clause with bound := now } := by simp only [Slot.bound, Slot.setXs_clause]
end

/-- The clause that a message of a channel starts (R106, R109): at the handler's address, with the digest of the message, sequence 0 and the payload. -/
def State.messageStart (s : State) (core c i : Nat) (m : Msg) : Start :=
  let x := s.ctx core c
  let entry := (x.chans.get i {}).entry
  { clause := { ctx := c, launch := x.launch, chan := BitVec.ofNat 8 i, prio := fld entry 32 3, homed := true, header := msgHeader m,
                codeBase := x.codeBase, codeSize := x.codeSize, account := s.accountOf m },
    pc := x.codeBase + word (fld entry 0 32), digest := mix m.key m.seq.toNat, seq := 0,
    kstat := startKstat 0 false false x.repro false (i == 255), low := [], high := m.payload }

@[simp] theorem State.messageStart_ctx (s : State) (core c i : Nat) (m : Msg) : (s.messageStart core c i m).clause.ctx = c := rfl

/-- The state before a message of a channel is bound: a ONESHOT channel is disabled (R106), and the launch has a clause more. -/
def State.channelEntered (s : State) (core c i : Nat) : State :=
  let x := s.ctx core c
  let t := if bit (x.chans.get i {}).entry 38 then
      s.modCtx core c fun y => { y with chans := y.chans.set i { y.chans.get i {} with enable := false, seen := false } }
    else s
  t.modLaunch x.launch fun l => { l with live := l.live + 1 }

/-- A message that is no launch start, on a channel with a VALID entry, binds its clause. -/
theorem State.bindChannel_message (s : State) (k c i : Nat) (m : Msg) (hm : m.kind ≠ 0x08)
    (hv : entryValid (((s.ctx (coreOf k) c).chans.get i {}).entry) = true) :
    s.bindChannel k c i (some m) = (s.channelEntered (coreOf k) c i).bindSlot k (s.messageStart (coreOf k) c i m) := by
  have hstart : (m.kind == 0x08) = false := by simpa using hm
  simp only [State.bindChannel, hstart, hv, Bool.false_eq_true, if_false, Bool.not_true, State.channelEntered, State.messageStart, Bool.false_and]
  split <;> rfl

@[simp] theorem State.channelEntered_mem (s : State) (core c i : Nat) : (s.channelEntered core c i).mem = s.mem := by
  simp only [State.channelEntered]; split <;> rfl
@[simp] theorem State.slot_channelEntered (s : State) (core c i j : Nat) : (s.channelEntered core c i).slot j = s.slot j := by
  simp only [State.channelEntered]; split <;> rfl
@[simp] theorem State.channelEntered_wdog (s : State) (core c i : Nat) : ((s.channelEntered core c i).ctx core c).wdog = (s.ctx core c).wdog := by
  simp only [State.channelEntered]; split <;> simp only [State.ctx_modLaunch, State.ctx_modCtx]
theorem State.channelEntered_queue (s : State) (core c i : Nat) :
    (((s.channelEntered core c i).ctx core c).chans.get i {}).queue = ((s.ctx core c).chans.get i {}).queue := by
  simp only [State.channelEntered]; split <;> simp only [State.ctx_modLaunch, State.ctx_modCtx, Tab.get_set_same]
theorem State.channelEntered_pending (s : State) (core c i : Nat) :
    (((s.channelEntered core c i).ctx core c).chans.get i {}).pending = ((s.ctx core c).chans.get i {}).pending := by
  simp only [State.channelEntered]; split <;> simp only [State.ctx_modLaunch, State.ctx_modCtx, Tab.get_set_same]

/-! ### Departures (R104) -/

/-- A message in an outbound queue waits for an answer, a forwarding entry or a near load. -/
def Out.waits (o : Out) : Prop := o.seqs ≠ [] ∨ o.fwd ≠ 0 ∨ o.near ≠ 0

/-- A message that waits for nothing leaves, unless one of its clause is ahead. -/
theorem departures_cons_of_free (ahead : List Word) (o : Out) (t : List Out) (h : ¬ o.waits) (ha : o.msg.key ∉ ahead) :
    departures ahead (o :: t) = (o.msg :: (departures ahead t).1, (departures ahead t).2) := by
  simp only [Out.waits, not_or, Classical.not_not] at h
  obtain ⟨hs, hf, hn⟩ := h
  simp [departures, hs, hf, hn, ha]

/-- A message that waits stays, and is ahead of those behind it. -/
theorem departures_cons_of_waits (ahead : List Word) (o : Out) (t : List Out) (h : o.waits) :
    departures ahead (o :: t) = ((departures (o.msg.key :: ahead) t).1, o :: (departures (o.msg.key :: ahead) t).2) := by
  rw [departures, if_neg]
  rcases h with h | h | h <;> simp [h]

/-- A message stays where one of its clause is ahead of it. -/
theorem departures_cons_of_ahead (ahead : List Word) (o : Out) (t : List Out) (h : o.msg.key ∈ ahead) :
    departures ahead (o :: t) = ((departures (o.msg.key :: ahead) t).1, o :: (departures (o.msg.key :: ahead) t).2) := by
  rw [departures, if_neg]
  simp [h]

/-- Steps that each only add events to come only add events to come. -/
theorem State.foldl_agenda_frame {f : State → Nat → State} (h : ∀ s k, f s k = { s with agenda := (f s k).agenda }) :
    ∀ (l : List Nat) (s : State), l.foldl f s = { s with agenda := (l.foldl f s).agenda } := by
  intro l; induction l with
  | nil => intro s; rfl
  | cons k t ih => intro s; rw [List.foldl_cons, ih, h s k]

/-- A departure routes the messages that may leave and keeps the others; beyond that it only adds events to come. -/
theorem State.depart_frame (s : State) (core : Nat) :
    s.depart core = { ((departures [] (s.core core).outq).1.foldl (fun s m => s.route { m with stamp := s.stamp })
      (s.modCore core fun c => { c with outq := (departures [] (s.core core).outq).2 })) with agenda := (s.depart core).agenda } := by
  unfold State.depart
  dsimp only
  split
  · rfl
  · exact State.foldl_agenda_frame (fun s k => by split <;> rfl) _ _

/-- A departure at which no message may leave changes the queue only. -/
theorem State.depart_none (s : State) (core : Nat) (h : (departures [] (s.core core).outq).1 = []) :
    s.depart core = s.modCore core fun c => { c with outq := (departures [] (s.core core).outq).2 } := by
  simp only [State.depart, h, List.foldl_nil, List.isEmpty_nil, if_true]

/-! ### The obligation -/

/-- A dispatch that picks a channel takes its oldest message, and binds the clause of that message to the slot (R106, R108, R109). -/
theorem State.dispatch_message (s : State) (slot k c i g : Nat) (m : Msg) (rest : List Msg) (hd : (s.debug (clusterOf (coreOf slot))).halted = false)
    (hs : ∀ j < 4, (s.ctx (coreOf slot) j).preempted = false) (hk : s.idleSlot (coreOf slot) = some k)
    (hc : c = ((s.core (coreOf slot)).lastCtx + 1) % 4) (hp : s.pickOf (coreOf slot) c = some (.chan i))
    (hq : ((s.ctx (coreOf slot) c).chans.get i {}).queue = m :: rest) (hm : m.kind ≠ 0x08)
    (hv : entryValid ((s.ctx (coreOf slot) c).chans.get i {}).entry = true) (hh : (s.ctx (coreOf slot) c).held = [])
    (hg : nextGen (s.slot k).owed (s.slot k).gen 1024 = some g) :
    let u := s.chanTaken (coreOf slot) c i
    let v := u.channelEntered (coreOf slot) c i
    s.dispatch slot =
      (v.setSlot k ((s.slot k).bound g (s.ctx (coreOf slot) c).wdog v.stamp (u.messageStart (coreOf slot) c i m))).wake (coreOf slot) := by
  subst hc
  have hcore := State.coreOf_idleSlot hk
  have hr := State.repro_of_pickOf_chan hp
  rw [State.dispatch_next s slot k _ hd hs hk hp]
  rw [← hcore] at hq hv hh hr ⊢
  rw [State.dispatchItem_chan _ _ _ _ hr hh, hq, List.head?_cons, State.bindChannel_message _ _ _ _ _ hm (by rwa [State.chanTaken_entry]),
    State.bindSlot_of_nextGen _ _ g _ (by simpa using hg)]
  simp only [State.slot_channelEntered, State.slot_chanTaken, State.messageStart_ctx, State.channelEntered_wdog, State.chanTaken_wdog]

end Sys2Proof.Machine

section
open Sys2Proof Sys2Proof.Machine

/-- Settles O10: a dispatch is `State.dispatch_message`, read field by field; a departure goes by the cases of `departures`. -/
theorem dispatchAndDeparture : Obligations.DispatchAndDeparture := by
  unfold Obligations.DispatchAndDeparture
  intro s slot k c i g m rest o p core x ch
  simp only [exec_handlerDispatch, exec_messageDeparture, Host.Outcome.next.injEq, exists_eq_left']
  refine ⟨fun hd => State.dispatch_halted s slot hd, fun hd hs hk hc hp hq hm hv hh hg => ?_, fun hq hseq hf hn => ?_, fun hq hw hkey => ?_⟩
  · rw [State.dispatch_message s slot k c i g m rest hd hs hk hc hp hq hm hv hh hg]
    refine ⟨by simp, fun j hj => by simp [State.slot_setSlot_other _ _ _ _ hj], ?_⟩
    simp only [State.slot_wake, State.slot_setSlot, State.ctx_wake, State.ctx_setSlot, Slot.bound_phase, Slot.bound_gen, Slot.bound_pc,
      Slot.bound_kpath, Slot.bound_kseq, Slot.bound_cycles, Slot.bound_kwdog, Slot.bound_clause, State.messageStart, State.chanTaken_codeBase,
      State.chanTaken_entry, State.chanTaken_launch, State.channelEntered_queue, State.channelEntered_pending, State.chanTaken_queue,
      State.chanTaken_pending, core, x, ch, true_and]
    have hrest : ((s.ctx (coreOf slot) c).chans.get i {}).queue.drop 1 = rest := congrArg (List.drop 1) hq
    exact ⟨fun j hj h12 => Slot.xr_bound_payload _ _ _ _ _ j hj h12, fun r => Slot.xmark_bound .., hrest, by rw [hrest]⟩
  · have hfree : ¬ o.waits := by simp [Out.waits, hseq, hf, hn]
    have hall : departures [] (s.core core).outq = ([o.msg], []) := by
      rw [hq, departures_cons_of_free _ _ _ hfree (by simp)]; rfl
    have hframe := State.depart_frame s core
    rw [hall] at hframe
    exact hframe
  · have hstay : departures [] (s.core core).outq = ([], [o, p]) := by
      rw [hq, departures_cons_of_waits _ _ _ hw, departures_cons_of_ahead _ _ _ (by simp [hkey])]; rfl
    rw [State.depart_none s core (by rw [hstay])]
    exact ⟨rfl, rfl, by rw [State.core_modCore, hstay]⟩
end
end

section
/-!
The common checks in the order of R73 (04_encoding.md): what each step answers where the steps before it pass, and the obligation
assembled from it.
-/
namespace Sys2Proof.Machine

/-! ### Step 6: one source, in the order empty, marked, faulty -/

/-- A group of which no register is marked has no first marked one. -/
theorem Slot.firstMarked_eq_none_of_unmarked (sl : Slot) (vec : Bool) : ∀ (n r : Nat),
    (∀ i < n, ∀ c a, sl.mark vec (r + i) ≠ .marked c a) → sl.firstMarked vec r n = none := by
  intro n; induction n with
  | zero => intros; rfl
  | succ n ih =>
    intro r h
    have hrest : sl.firstMarked vec (r + 1) n = none := ih _ fun i hi c a => by
      simpa [Nat.add_assoc, Nat.add_comm 1] using h (i + 1) (by omega) c a
    cases hm : sl.mark vec r with
    | marked c a => exact absurd hm (by simpa using h 0 (by omega) c a)
    | full | empty | faulty => rw [Slot.firstMarked, hm]; exact hrest

theorem Slot.firstFaulty_eq_some (sl : Slot) (vec : Bool) : ∀ (n r i : Nat), i < n → sl.mark vec (r + i) = .faulty →
    (∀ j < i, sl.mark vec (r + j) = .full) → sl.firstFaulty vec r n = some (r + i) := by
  intro n; induction n with
  | zero => intro r i hi; omega
  | succ n ih =>
    intro r i hi h hb
    cases i with
    | zero => rw [Slot.firstFaulty, if_pos (by simpa using h)]; rfl
    | succ i =>
      have h0 : sl.mark vec r = .full := by simpa using hb 0 (by omega)
      rw [Slot.firstFaulty, h0, if_neg (by simp), ih (r + 1) i (by omega)]
      · simp [Nat.add_assoc, Nat.add_comm 1]
      · simpa [Nat.add_assoc, Nat.add_comm 1] using h
      · intro j hj; simpa [Nat.add_assoc, Nat.add_comm 1] using hb (j + 1) (by omega)

theorem Slot.checkSrc_empty (sl : Slot) (x : Src) (i : Nat) (hi : i < x.count) (he : sl.mark x.vec (x.reg + i) = .empty)
    (hb : ∀ j < i, sl.mark x.vec (x.reg + j) ≠ .empty) :
    sl.checkSrc x = if x.trap then .trap 0x03 (regId x.vec (x.reg + i) x.field) else .stall := by
  rw [Slot.checkSrc, Slot.firstEmpty_eq_some _ _ _ _ i hi he hb]

theorem Slot.checkSrc_marked (sl : Slot) (x : Src) (i c : Nat) (a : Word) (hi : i < x.count) (hm : sl.mark x.vec (x.reg + i) = .marked c a)
    (hne : ∀ j < x.count, sl.mark x.vec (x.reg + j) ≠ .empty) (hb : ∀ j < i, sl.mark x.vec (x.reg + j) = .full) :
    sl.checkSrc x = .trap c a := by
  rw [Slot.checkSrc, Slot.firstEmpty_eq_none _ _ _ _ hne, Slot.firstMarked_eq_some _ _ c a _ _ i hi hm hb]

theorem Slot.checkSrc_faulty (sl : Slot) (x : Src) (i : Nat) (hi : i < x.count) (hf : sl.mark x.vec (x.reg + i) = .faulty)
    (hb : ∀ j < x.count, j ≠ i → sl.mark x.vec (x.reg + j) = .full) :
    sl.checkSrc x = .trap 0x05 (regId x.vec (x.reg + i) x.field) := by
  have hmark : ∀ j < x.count, sl.mark x.vec (x.reg + j) = .faulty ∨ sl.mark x.vec (x.reg + j) = .full := fun j hj => by
    by_cases hji : j = i
    · exact .inl (hji ▸ hf)
    · exact .inr (hb j hj hji)
  have hempty : sl.firstEmpty x.vec x.reg x.count = none :=
    Slot.firstEmpty_eq_none _ _ _ _ fun j hj => by rcases hmark j hj with h | h <;> simp [h]
  have hmarked : sl.firstMarked x.vec x.reg x.count = none :=
    Slot.firstMarked_eq_none_of_unmarked _ _ _ _ fun j hj c a => by rcases hmark j hj with h | h <;> simp [h]
  rw [Slot.checkSrc, hempty, hmarked, Slot.firstFaulty_eq_some _ _ _ _ i hi hf fun j hj => hb j (by omega) (by omega)]

/-- Sources after full ones: the next one answers, and what follows is looked at only where it passes. -/
theorem Slot.checkSrcs_at (sl : Slot) (before later : List Src) (x : Src)
    (h : ∀ y ∈ before, ∀ i < y.count, sl.mark y.vec (y.reg + i) = .full) :
    sl.checkSrcs (before ++ x :: later) = (sl.checkSrc x).bind fun _ => sl.checkSrcs later :=
  Slot.checkSrcs_append _ _ _ h

/-! ### Step 7: the first empty member of a destination -/

theorem Slot.checkDsts_empty (sl : Slot) (before later : List Dst) (d : Dst) (i : Nat)
    (h : ∀ e ∈ before, ∀ j < e.count, sl.mark e.vec (e.reg + j) ≠ .empty) (hi : i < d.count) (he : sl.mark d.vec (d.reg + i) = .empty)
    (hb : ∀ j < i, sl.mark d.vec (d.reg + j) ≠ .empty) :
    sl.checkDsts (before ++ d :: later) = .trap 0x04 (regId d.vec (d.reg + i) d.field) := by
  rw [Slot.checkDsts_append _ _ _ h, Slot.checkDsts, Slot.firstEmpty_eq_some _ _ _ _ i hi he hb]

/-! ### Steps 3 to 5, and what is left after them -/

section
variable (sl : Slot) (n : Need)

theorem Slot.check_of_unaligned (h : ¬ ∀ g ∈ n.groups, g.1 % g.2 = 0) : sl.check n = .trap 0x01 (n.word.setWidth 64) := by
  have hg : groupsAligned n.groups = false := by rwa [← Bool.not_eq_true, groupsAligned_iff]
  rw [Slot.check, require_neg hg, Res.bind_trap]

theorem Slot.check_of_pp (ha : ∀ g ∈ n.groups, g.1 % g.2 = 0) (h : ¬ (n.format = true ∨ sl.pp = false)) :
    sl.check n = .trap 0x02 (n.word.setWidth 64) := by
  rw [Slot.check, require_pos ((groupsAligned_iff _).2 ha), Res.bind_ok, require_neg (by simpa using h), Res.bind_trap]

theorem Slot.check_of_privilege (ha : ∀ g ∈ n.groups, g.1 % g.2 = 0) (hp : n.format = true ∨ sl.pp = false) (h : sl.priv < n.priv) :
    sl.check n = .trap 0x06 (n.word.setWidth 64) := by
  rw [Slot.check, require_pos ((groupsAligned_iff _).2 ha), Res.bind_ok, require_pos (by simpa using hp), Res.bind_ok,
    require_neg (by simpa using h), Res.bind_trap]

/-- Past steps 3 to 5 the operands decide. -/
theorem Slot.check_operands (ha : ∀ g ∈ n.groups, g.1 % g.2 = 0) (hp : n.format = true ∨ sl.pp = false) (hv : n.priv ≤ sl.priv) :
    sl.check n = (sl.checkSrcs n.srcs).bind fun _ => sl.checkDsts n.dsts := by
  rw [Slot.check, require_pos ((groupsAligned_iff _).2 ha), Res.bind_ok, require_pos (by simpa using hp), Res.bind_ok,
    require_pos (by simpa using hv), Res.bind_ok]

end

/-! ### Running an instruction whose checks stop it -/

theorem State.run_of_check_trap (s : State) (n : Need) (body : Res State) (hb : s.sl.blocked = false) {c : Nat} {a : Word}
    (h : s.sl.check n = .trap c a) : s.run n body = s.raise c a := by
  rw [State.run, hb, h]; rfl

theorem State.run_of_check_stall (s : State) (n : Need) (body : Res State) (hb : s.sl.blocked = false) (h : s.sl.check n = .stall) :
    s.run n body = s := by
  rw [State.run, hb, h]; rfl

end Sys2Proof.Machine

section
open Sys2Proof Sys2Proof.Machine

/-- Settles O26: each clause is the answer of one step of `Slot.check`, of which the steps before pass. -/
theorem commonChecksComeInOrder : Obligations.CommonChecksComeInOrder := by
  unfold Obligations.CommonChecksComeInOrder
  intro s n body o out w aligned prefixed clear
  have traps {c : Nat} {a : Word} (hb : o.blocked = false) (hc : c ≠ 0x50) (h : o.check n = .trap c a) : out = s.trap c a :=
    (s.run_of_check_trap n body hb h).trans (s.raise_of_ne a hc)
  refine ⟨s.run_of_blocked n body, fun hb => ⟨fun ha => ?_, fun ha hp => ?_, fun ha hp hv => ?_, ?_, ?_⟩, fun hr => ?_⟩
  · exact traps hb (by decide) (o.check_of_unaligned n ha)
  · exact traps hb (by decide) (o.check_of_pp n ha hp)
  · exact traps hb (by decide) (o.check_of_privilege n ha hp hv)
  · intro ha hp hv before x later hsrcs hclear i hi
    have hcheck : o.check n = ((o.checkSrc x).bind fun _ => o.checkSrcs later).bind fun _ => o.checkDsts n.dsts := by
      rw [o.check_operands n ha hp hv, hsrcs, o.checkSrcs_at before later x hclear]
    refine ⟨fun he hfirst => ?_, fun c a hm hne hfirst => ?_, fun hf hothers => ?_⟩
    · rw [o.checkSrc_empty x i hi he hfirst] at hcheck
      split
      · next ht => exact traps hb (by decide) (by simpa [ht] using hcheck)
      · next ht => exact s.run_of_check_stall n body hb (by simpa [ht] using hcheck)
    · rw [o.checkSrc_marked x i c a hi hm hne hfirst] at hcheck
      exact s.run_of_check_trap n body hb hcheck
    · rw [o.checkSrc_faulty x i hi hf hothers] at hcheck
      exact traps hb (by decide) hcheck
  · intro ha hp hv hclear before d later hdsts hbefore i hi he hfirst
    refine traps hb (by decide) ?_
    rw [o.check_operands n ha hp hv, o.checkSrcs_full _ hclear, Res.bind_ok, hdsts, o.checkDsts_empty before later d i hbefore hi he hfirst]
  · have hrun : out = s.settle body := s.run_of_ready n body hr
    refine ⟨fun t ht => ?_, fun c a ht => ?_, fun ht => ?_⟩
    · rw [hrun, ht, State.settle_ok]
    · rw [hrun, ht, State.settle_trap]
      exact ⟨rfl, s.raise_of_ne a⟩
    · rw [hrun, ht, State.settle_stall]
end
end

section
/-!
Registers (04_encoding.md R65) and the frame of an instruction that writes them (R66, 05_scalar.md R82, R87): what completing leaves of a
slot, the frame of every register instruction from it, and the obligation assembled from both.
-/
namespace Sys2Proof.Machine

/-! ### The status register -/

theorem Slot.complete_kstat (sl : Slot) : sl.complete.kstat = (sl.setPP false).kstat := by simp [Slot.complete]

/-- Completing clears PP, bit 3, and leaves every other bit of the status register (R66). -/
theorem Slot.bit_kstat_complete (sl : Slot) (i : Nat) (h : i ≠ 3) : bit sl.complete.kstat i = bit sl.kstat i := by
  rw [Slot.complete_kstat]
  exact bit_withFld_other _ _ _ _ _ (by omega)

/-- Flags that accrue change bits [20:16] only (R82). -/
theorem Slot.bit_kstat_raise (sl : Slot) (f : BitVec 5) (i : Nat) (h : i < 16 ∨ 21 ≤ i) : bit (sl.raise f).kstat i = bit sl.kstat i :=
  bit_or_shift_other _ _ _ _ h

@[simp] theorem Slot.setVs_kstat (sl : Slot) (r : Nat) (vs : List VWord) : (sl.setVs r vs).kstat = sl.kstat := by rw [Slot.setVs_frame]

@[simp] theorem Slot.flags_setX (sl : Slot) (r : Nat) (w : Word) : (sl.setX r w).flags = sl.flags := by simp [Slot.flags]
@[simp] theorem Slot.flags_setVs (sl : Slot) (r : Nat) (vs : List VWord) : (sl.setVs r vs).flags = sl.flags := by simp [Slot.flags]

/-! ### Frames of a slot -/

/-- A write of an x register changes the x registers and their marks only. -/
theorem Slot.setX_frame (sl : Slot) (r : Nat) (w : Word) : sl.setX r w = { sl with x := (sl.setX r w).x, xm := (sl.setX r w).xm } := by
  unfold Slot.setX; split <;> rfl

@[simp] theorem Slot.setVs_x (sl : Slot) (r : Nat) (vs : List VWord) : (sl.setVs r vs).x = sl.x := by rw [Slot.setVs_frame]
@[simp] theorem Slot.setVs_xm (sl : Slot) (r : Nat) (vs : List VWord) : (sl.setVs r vs).xm = sl.xm := by rw [Slot.setVs_frame]
@[simp] theorem Slot.xr_setVs (sl : Slot) (r j : Nat) (vs : List VWord) : (sl.setVs r vs).xr j = sl.xr j := by simp [Slot.xr]
@[simp] theorem Slot.xmark_setVs (sl : Slot) (r j : Nat) (vs : List VWord) : (sl.setVs r vs).xmark j = sl.xmark j := by simp [Slot.xmark]

/-- A slot with what completing changes taken from another: the status register, the loop counts, the program counter, and what was kept for
the instruction. -/
def Slot.completedAs (sl t : Slot) : Slot :=
  { sl with kstat := t.kstat, kloop0 := t.kloop0, kloop1 := t.kloop1, pc := t.pc, wait := t.wait, skipBreak := t.skipBreak,
            resolved := t.resolved, fetched := t.fetched, heldTiles := t.heldTiles }

/-- Completing changes nothing else (R66, R87). -/
theorem Slot.complete_frame (sl : Slot) : sl.complete = sl.completedAs sl.complete := by
  unfold Slot.complete
  rw [Slot.loopEnd_frame]
  rfl

/-! ### The frame of a register instruction -/

/-- What a register instruction does to a slot before it completes: it writes at most a group of registers, and accrues flags. -/
structure Slot.WritesOnly (sl g : Slot) (vec : Bool) (reg count : Nat) : Prop where
  xs : ∀ r, (vec = true ∨ r < reg ∨ reg + count ≤ r) → g.xr r = sl.xr r ∧ g.xmark r = sl.xmark r
  vs : ∀ r, (vec = false ∨ r < reg ∨ reg + count ≤ r) → g.vr r = sl.vr r ∧ g.vmark r = sl.vmark r
  bits : ∀ i, (i < 16 ∨ 21 ≤ i) → bit g.kstat i = bit sl.kstat i
  frame : g = { sl with x := g.x, xm := g.xm, v := g.v, vm := g.vm, kstat := g.kstat }

theorem Slot.writesOnly_self (sl : Slot) : sl.WritesOnly sl false 0 0 :=
  ⟨fun _ _ => ⟨rfl, rfl⟩, fun _ _ => ⟨rfl, rfl⟩, fun _ _ => rfl, rfl⟩

theorem Slot.writesOnly_setX (sl : Slot) (r : Nat) (w : Word) : sl.WritesOnly (sl.setX r w) false r 1 where
  xs j hj := by
    have hne : j ≠ r := by simp only [Bool.false_eq_true, false_or] at hj; omega
    exact ⟨Slot.xr_setX_other _ _ _ _ hne, by rw [Slot.xmark_setX, if_neg hne]⟩
  vs j _ := ⟨Slot.vr_setX .., Slot.vmark_setX ..⟩
  bits i _ := by rw [Slot.setX_kstat]
  frame := by rw [Slot.setX_v, Slot.setX_vm, Slot.setX_kstat]; exact Slot.setX_frame ..

theorem Slot.writesOnly_setVs (sl : Slot) (r : Nat) (vs : List VWord) : sl.WritesOnly (sl.setVs r vs) true r vs.length where
  xs j _ := ⟨Slot.xr_setVs .., Slot.xmark_setVs ..⟩
  vs j hj := by
    have hout : ¬ (r ≤ j ∧ j < r + vs.length) := by simp only [Bool.true_eq_false, false_or] at hj; omega
    rw [Slot.vr_setVs, Slot.vmark_setVs, if_neg hout, if_neg hout]
    exact ⟨rfl, rfl⟩
  bits i _ := by rw [Slot.setVs_kstat]
  frame := by rw [Slot.setVs_x, Slot.setVs_xm, Slot.setVs_kstat]; exact Slot.setVs_frame ..

/-- Flags that accrue are among what a register instruction may change. -/
theorem Slot.WritesOnly.of_raise {sl g : Slot} {vec : Bool} {reg count : Nat} {f : BitVec 5} (h : (sl.raise f).WritesOnly g vec reg count) :
    sl.WritesOnly g vec reg count where
  xs r hr := by simpa using h.xs r hr
  vs r hr := by simpa using h.vs r hr
  bits i hi := (h.bits i hi).trans (sl.bit_kstat_raise f i hi)
  frame := h.frame

/-- An instruction that writes registers and flags of its slot and completes changes nothing else. -/
theorem State.onlyRegisters_of_writesOnly (s : State) (f : Slot → Slot) {vec : Bool} {reg count : Nat}
    (h : Slot.WritesOnly s.sl (f s.sl) vec reg count) : OnlyRegisters s (s.modCur fun sl => (f sl).complete) vec reg count := by
  refine ⟨rfl, fun k hk => State.slot_modCur_other _ _ _ hk, ?_⟩
  rw [State.sl_modCur]
  refine ⟨fun r hr => ?_, fun r hr => ?_, fun i h3 hi => ?_, ?_⟩
  · rw [Slot.xr_complete, Slot.xmark_complete]; exact h.xs r hr
  · rw [Slot.vr_complete, Slot.vmark_complete]; exact h.vs r hr
  · rw [Slot.bit_kstat_complete _ i h3]; exact h.bits i hi
  · calc
      (f s.sl).complete = (f s.sl).completedAs (f s.sl).complete := Slot.complete_frame _
      _ = Slot.completedAs _ (f s.sl).complete := congrArg (fun q => q.completedAs (f s.sl).complete) h.frame
      _ = _ := by rw [Slot.completedAs, Slot.complete_x, Slot.complete_xm, Slot.complete_v, Slot.complete_vm]

end Sys2Proof.Machine

section
open Sys2Proof Sys2Proof.Machine

theorem registersReadWhatWasWritten : Claim.RegistersReadWhatWasWritten := by
  unfold Claim.RegistersReadWhatWasWritten
  intro sl r w v
  refine ⟨rfl, rfl, rfl, fun hr => ⟨sl.xr_setX_same r w hr, ?_⟩, fun j hj => ⟨sl.xr_setX_other r j w hj, ?_⟩,
    fun j => ⟨sl.vr_setX r j w, sl.vmark_setX r j w⟩, ?_, ?_, fun j hj => ⟨?_, ?_⟩,
    fun j => ⟨sl.xr_setV r j v, sl.xmark_setV r j v⟩, sl.setX_frame r w, rfl⟩
  · rw [Slot.xmark_setX, if_pos rfl]
  · rw [Slot.xmark_setX, if_neg hj]
  · rw [Slot.vr_setV, if_pos rfl]
  · rw [Slot.vmark_setV, if_pos rfl]
  · rw [Slot.vr_setV, if_neg hj]
  · rw [Slot.vmark_setV, if_neg hj]

theorem registerInstructionsChangeNothingElse : Claim.RegisterInstructionsChangeNothingElse := by
  unfold Claim.RegisterInstructionsChangeNothingElse
  intro s rd v vs f a b c
  have ha : a.sl = (s.sl.setX rd v).complete := State.sl_modCur ..
  have hb : b.sl = ((s.sl.raise f).setX rd v).complete := State.sl_modCur ..
  have hc : c.sl = ((s.sl.raise f).setVs rd vs).complete := State.sl_modCur ..
  refine ⟨s.onlyRegisters_of_writesOnly id s.sl.writesOnly_self, ?_,
    s.onlyRegisters_of_writesOnly (·.setX rd v) (s.sl.writesOnly_setX rd v), ?_, fun h => ?_,
    s.onlyRegisters_of_writesOnly (fun sl => (sl.raise f).setX rd v) ((s.sl.raise f).writesOnly_setX rd v).of_raise, ?_, fun h => ?_,
    s.onlyRegisters_of_writesOnly (fun sl => (sl.raise f).setVs rd vs) ((s.sl.raise f).writesOnly_setVs rd vs).of_raise, ?_, fun i hi => ?_,
    rfl, rfl, rfl⟩
  · exact (congrArg Slot.flags (State.sl_modCur s Slot.complete)).trans (Slot.flags_complete _)
  · rw [ha, Slot.flags_complete, Slot.flags_setX]
  · rw [ha]; simp [Slot.xmark_setX, h]
  · rw [hb, Slot.flags_complete, Slot.flags_setX, Slot.flags_raise]
  · rw [hb]; simp [Slot.xmark_setX, h]
  · rw [hc, Slot.flags_complete, Slot.flags_setVs, Slot.flags_raise]
  · rw [hc]; simp [Slot.vr_setVs, Slot.vmark_setVs, hi]

/-- Settles O27: reads after writes are the laws of `setX` and `setV`; the frame is that of completing after a write of one group. -/
theorem registersHoldTheirValues : Obligations.RegistersHoldTheirValues :=
  ⟨registersReadWhatWasWritten, registerInstructionsChangeNothingElse⟩
end
end

section
/-!
Steps (04_encoding.md R73, 05_scalar.md R93, R95, R99): which of its parts a step is, what an instruction's word runs as, what a word placed
after reset finds, and the obligation assembled from them.
-/
namespace Sys2Proof.Machine

/-! ### What a step is -/

section
variable {s : State} (hoff : s.hub.off = false)
include hoff

theorem step_of_watchdog {k : Nat} {rest : List Instr} (h : s.watchdogFirst = some (k, rest)) :
    step s = finish State.polls (exec (.watchdog k) { s with agenda := rest }) := by
  simp [step, State.advance, hoff, h]

theorem step_of_nextSlot (hw : s.watchdogFirst = none) {k : Nat} (h : s.nextSlot = some k) :
    step s = finish State.polls (s.issueAt k) := by
  simp [step, State.advance, hoff, hw, h]

theorem step_of_event (hw : s.watchdogFirst = none) (hn : s.nextSlot = none) (hleft : 0 < s.eventsLeft) (he : s.nextEvent.isSome = true) :
    step s = finish State.after s.happen := by
  simp [step, State.advance, hoff, hw, hn, hleft, he]

theorem step_of_no_event (hw : s.watchdogFirst = none) (hn : s.nextSlot = none) (h : s.eventsLeft = 0 ∨ s.nextEvent = none) :
    step s = .next s.tick := by
  rcases h with h | h <;> simp [step, State.advance, hoff, hw, hn, h]

end

theorem State.watchdogFirst_cons {s : State} {k : Nat} {rest : List Instr} (h : s.agenda = .watchdog k :: rest) :
    s.watchdogFirst = some (k, rest) := by
  rw [State.watchdogFirst, h]

theorem State.happen_of_nextEvent {s t : State} {e : Instr} (h : s.nextEvent = some (t, some e)) : s.happen = exec e t := by
  rw [State.happen, h]

theorem State.issueAt_of_word {s : State} {k : Nat} {w : BitVec 32} (h : s.takeWord k = .inr w) :
    s.issueAt k = exec (instrAt k w) ((s.issuing k).countIssue (coreOf k) false) := by
  rw [State.issueAt, h]

theorem State.issueAt_of_no_word {s t : State} {k : Nat} (h : s.takeWord k = .inl t) : s.issueAt k = .next t := by
  rw [State.issueAt, h]

/-- A cluster that takes no samples counts nothing. -/
theorem State.countIssue_of_no_samples (s : State) (core : Nat) (b : Bool) (h : (s.debug (clusterOf core)).samples = false) :
    s.countIssue core b = s := by
  rw [State.countIssue]
  simp [h]

/-! ### What a word runs as (R60, R404) -/

theorem instrAt_of_decode {k : Nat} {w : BitVec 32} {i : Instr} (hd : decode w = .ok i) (ha : coreOf k < 4096 ∨ mgmtWord w = true) :
    instrAt k w = i := by
  have hc : ¬ (Config.firstMgmtCore ≤ coreOf k ∧ mgmtWord w = false) := by
    rintro ⟨hcore, hm⟩
    rcases ha with ha | ha
    · exact absurd hcore (Nat.not_le.2 ha)
    · rw [hm] at ha; exact nomatch ha
  rw [instrAt, if_neg (by simpa using hc), hd]

theorem instrAt_of_refused {k : Nat} {w : BitVec 32} (h : (∃ r, decode w = .refused r) ∨ ¬ (coreOf k < 4096 ∨ mgmtWord w = true)) :
    instrAt k w = .illegalEncoding w := by
  rcases h with ⟨r, hr⟩ | ha
  · rw [instrAt, hr]; split <;> rfl
  · obtain ⟨hcore, hm⟩ := not_or.1 ha
    have hc : Config.firstMgmtCore ≤ coreOf k := Nat.not_lt.1 hcore
    rw [instrAt, if_pos (by simp [hc, hm])]

/-! ### The word that a slot takes (R93) -/

/-- A slot whose line holds its instruction takes the word from it, where nothing stops the fetch. -/
theorem State.takeWord_of_line (s : State) (k : Nat) (l : Line) (hl : (s.slot k).line = some l) (hva : l.va = (s.slot k).lineVa)
    (hasid : l.asid = s.asid k) (hp : l.poisoned = false) (hc : (s.slot k).fetchCause = none) (hb : s.breakpoint k = none) :
    s.takeWord k = .inr (l.wordAt (s.slot k).pc) := by
  have hholds : (s.slot k).holdsLine (s.asid k) = true := by simp [Slot.holdsLine, hl, hva, hasid]
  simp [State.takeWord, hc, hholds, hl, hb, hp]

/-- The word at an address in a line is its 32 bits there. -/
theorem Line.wordAt_toNat (l : Line) (pc : Word) : (l.wordAt pc).toNat = l.data.toNat / 2 ^ (8 * (pc.toNat % 64)) % 2 ^ 32 := by
  rw [Line.wordAt, BitVec.toNat_ofNat, bitsOf, Nat.mod_mod]

/-! ### A word placed after reset (log 25) -/

/-- What placing a word after reset gives: slot 0 stands at it, and its core's turn comes to it; all else is as after reset. -/
def placedAfterReset (w : BitVec 32) : State :=
  { State.reset with slots := [(0, ({} : Slot).placed 0 w)], cores := [(0, { lastSlot := 3 })] }

theorem State.withFetchWord_reset (w : BitVec 32) : State.reset.withFetchWord 32 w.toNat = placedAfterReset w := by
  have hw : BitVec.ofNat 32 (w.toNat % 2 ^ 32) = w := by rw [Nat.mod_eq_of_lt w.isLt, BitVec.ofNat_toNat, BitVec.setWidth_eq]
  conv => rhs; rw [← hw]
  rfl

/-- A word at the first address of a placed line is the word placed. -/
theorem placedLine_wordAt_zero (asid : Nat) (w : BitVec 32) : (placedLine 0 asid w).wordAt 0 = w := by
  apply BitVec.eq_of_toNat_eq
  rw [Line.wordAt_toNat]
  have hdata : (placedLine 0 asid w).data.toNat = w.toNat := by
    change (w.setWidth 512 <<< 0).toNat = w.toNat
    rw [BitVec.shiftLeft_zero, BitVec.toNat_setWidth_of_le (by decide)]
  rw [hdata]
  simpa using w.isLt

theorem takeWord_placedAfterReset (w : BitVec 32) : (placedAfterReset w).takeWord 0 = .inr w := by
  rw [State.takeWord_of_line (placedAfterReset w) 0 (placedLine 0 0 w) rfl rfl rfl rfl rfl rfl]
  exact congrArg Sum.inr (placedLine_wordAt_zero 0 w)

/-- Where one slot alone is listed, its core is the one that may have a slot to issue. -/
theorem State.nextSlot_of_one_slot (s : State) (k : Nat) (sl : Slot) (h : s.slots = [(k, sl)]) (hc : s.coreNext ≤ coreOf k) :
    s.nextSlot = s.readySlot (coreOf k) := by
  have hcores : (s.slots.map fun (e : Nat × Slot) => coreOf e.1).eraseReps = [coreOf k] := by rw [h]; rfl
  rw [State.nextSlot, hcores]
  simp [hc, State.firstReady]

/-- Of the slots of core 0 only the placed one may issue: it is next, unless it stalls. -/
theorem nextSlot_placedAfterReset (w : BitVec 32) :
    (placedAfterReset w).nextSlot = if (placedAfterReset w).stalls 0 then none else some 0 := by
  have hfree : ∀ k ∈ [1, 2, 3], (placedAfterReset w).mayIssue k = false := by simp [State.mayIssue, placedAfterReset, State.slot, Tab.get]
  have hplaced : (placedAfterReset w).mayIssue 0 = true := rfl
  have hlast : ((placedAfterReset w).core 0).lastSlot = 3 := rfl
  rw [State.nextSlot_of_one_slot _ 0 _ rfl (Nat.zero_le _), State.readySlot, show coreOf 0 = 0 from rfl, hlast]
  cases h : (placedAfterReset w).stalls 0 <;> simp [hplaced, h, hfree]

/-- After reset no cluster takes samples. -/
theorem samples_issuing_placedAfterReset (w : BitVec 32) (cl : Nat) : (((placedAfterReset w).issuing 0).debug cl).samples = false := by
  have hdebug : ((placedAfterReset w).issuing 0).debug cl = {} := rfl
  rw [hdebug]
  decide

end Sys2Proof.Machine

section
open Sys2Proof Sys2Proof.Machine

theorem stepRunsDecoded : Claim.StepRunsDecoded := by
  unfold Claim.StepRunsDecoded
  intro s k hoff u runs idle
  refine ⟨fun rest hr t ht => ?_, fun hw hn => ⟨fun w htake => ⟨fun i hd ha t ht => ?_, fun hx t ht => ?_⟩, fun t htake => ?_⟩,
    fun ⟨hw, hn⟩ hleft t e he v hv => ?_, fun ⟨hw, hn⟩ h => step_of_no_event hoff hw hn h, (s.issuing k).countIssue_of_no_samples (coreOf k) false,
    s.takeWord_of_line k, Line.wordAt_toNat⟩
  · rw [step_of_watchdog hoff (State.watchdogFirst_cons hr), ht, finish]
  · rw [step_of_nextSlot hoff hw hn, State.issueAt_of_word htake, instrAt_of_decode hd ha, ht, finish]
  · rw [step_of_nextSlot hoff hw hn, State.issueAt_of_word htake, instrAt_of_refused hx, ht, finish]
  · rw [step_of_nextSlot hoff hw hn, State.issueAt_of_no_word htake, finish]
  · rw [step_of_event hoff hw hn hleft (by rw [he]; rfl), State.happen_of_nextEvent he, hv, finish]

theorem placedWordRunsFirst : Claim.PlacedWordRunsFirst := by
  unfold Claim.PlacedWordRunsFirst
  intro w i hd s
  have hs : s = placedAfterReset w := State.withFetchWord_reset w
  have hnext := nextSlot_placedAfterReset w
  rw [hs]
  refine ⟨fun hgo t ht => ?_, fun hstall => ?_⟩
  · rw [step_of_nextSlot rfl rfl (by rw [hnext, hgo]; rfl), State.issueAt_of_word (takeWord_placedAfterReset w),
      instrAt_of_decode hd (.inl (by decide)), State.countIssue_of_no_samples _ _ _ (samples_issuing_placedAfterReset w _), ht, finish]
  · exact step_of_no_event rfl rfl (by rw [hnext, hstall]; rfl) (.inl rfl)

/-- Settles O59: a step is one of its four parts, and the placed word is the one that slot 0 takes. -/
theorem stepsRunInstructions : Obligations.StepsRunInstructions := ⟨stepRunsDecoded, placedWordRunsFirst⟩
end
end

section
/-!
Far requests (06_messages.md R103, R118, 11_memory_access.md R199 to R202): what a reply tag names, how a request is counted, and the
obligation assembled from both.
-/
namespace Sys2Proof.Machine

/-! ### What a reply tag names (R103) -/

section
variable (gen : Nat) (vec : Bool) (reg slot core : Nat)

/-- The fields of a register tag fit its 32 bits, so none runs into the next. -/
theorem regTag_toNat : (regTag gen vec reg slot core).toNat =
    2 * 2 ^ 30 + gen % 1024 * 2 ^ 20 + vec.toNat * 2 ^ 19 + reg % 32 * 2 ^ 14 + slot % 4 * 2 ^ 12 + core % 4096 := by
  have hv := Bool.toNat_le vec
  rw [regTag, BitVec.toNat_ofNat, Nat.mod_eq_of_lt (by omega)]

@[simp] theorem tagKind_regTag : tagKind (regTag gen vec reg slot core) = 2 := by
  have hv := Bool.toNat_le vec
  rw [tagKind, bitsOf, regTag_toNat]; omega

@[simp] theorem tagGen_regTag : tagGen (regTag gen vec reg slot core) = gen % 1024 := by
  have hv := Bool.toNat_le vec
  rw [tagGen, bitsOf, regTag_toNat]; omega

@[simp] theorem tagReg_regTag : tagReg (regTag gen vec reg slot core) = reg % 32 := by
  have hv := Bool.toNat_le vec
  rw [tagReg, bitsOf, regTag_toNat]; omega

@[simp] theorem tagSlot_regTag : tagSlot (regTag gen vec reg slot core) = slot % 4 := by
  have hv := Bool.toNat_le vec
  rw [tagSlot, bitsOf, regTag_toNat]; omega

@[simp] theorem tagCore_regTag : tagCore (regTag gen vec reg slot core) = core % 4096 := by
  have hv := Bool.toNat_le vec
  rw [tagCore, bitsOf, regTag_toNat]; omega
end

/-! ### How a request is counted (R200) -/

/-- A request to a home of this chip counts in `kreql` where the home is a stack on the core's own die, else in `kreqx`. -/
theorem State.core_countReq_own (s : State) (core unit : Nat) :
    let c := s.core core
    let d := (s.countReq core unit s.hub.chipId).core core
    if unitDie unit = some (core / 1024) then d.kreql = c.kreql + 1 ∧ d.kreqx = c.kreqx
    else d.kreqx = c.kreqx + 1 ∧ d.kreql = c.kreql := by
  have hl : s.isLocal core unit s.hub.chipId = true ↔ unitDie unit = some (core / 1024) := by simp [State.isLocal]
  intro c d
  by_cases h : unitDie unit = some (core / 1024)
  · simp [d, c, State.countReq, hl.2 h, h]
  · simp [d, c, State.countReq, mt hl.1 h, h]

@[simp] theorem State.countReq_hub (s : State) (core unit : Nat) (chip : BitVec 20) : (s.countReq core unit chip).hub = s.hub := by
  unfold State.countReq; split <;> rfl
@[simp] theorem State.countReq_net (s : State) (core unit : Nat) (chip : BitVec 20) : (s.countReq core unit chip).net = s.net := by
  unfold State.countReq; split <;> rfl
theorem State.countReq_setSlot (s : State) (k : Nat) (sl : Slot) (core unit : Nat) (chip : BitVec 20) :
    (s.setSlot k sl).countReq core unit chip = (s.countReq core unit chip).setSlot k sl := by
  have hl : (s.setSlot k sl).isLocal core unit chip = s.isLocal core unit chip := rfl
  unfold State.countReq
  rw [hl]
  cases s.isLocal core unit chip <;> rfl
@[simp] theorem State.route_cores (s : State) (m : Msg) : (s.route m).cores = s.cores := by rw [State.route_frame]

/-- A slot made from another by a change of its requests differs from it in them only. -/
theorem Slot.requestsOnly {x sl : Slot} {far : List Far} {kseq : Word} {owed : Tab Nat} (h : x = { sl with far := far, kseq := kseq, owed := owed }) :
    x = { sl with far := x.far, kseq := x.kseq, owed := x.owed } := by
  subst h; rfl

/-! ### The request (R199 to R202) -/

section
variable (s : State) (k kind unit : Nat) (chip : BitVec 20) (va ga : Word) (use : FarUse) (units : Nat) (p : List Word) (name : Option (BitVec 128))

/-- The register that the reply tag of a request names: the destination of a fill, else 0. -/
def FarUse.reg : FarUse → Nat
  | .fillX rd _ _ _ => rd
  | .fillV rd => rd
  | _ => 0

/-- Whether it names a `v` register. -/
def FarUse.isV : FarUse → Bool
  | .fillV _ => true
  | _ => false

/-- The message of a far request of a compute core. -/
def State.farMsg : Msg :=
  { s.clauseMsg k with
    dstChip := chip, kind := BitVec.ofNat 8 kind, units := BitVec.ofNat 3 units, unit := unit,
    tag := regTag (s.slot k).gen use.isV use.reg (k % 4) (coreOf k), rstat := 0, payload := p }

/-- The reply tag of a far request names its slot, the slot's generation and the destination (R103). -/
theorem State.tag_farMsg :
    let t := (s.farMsg k kind unit chip use units p).tag
    tagKind t = 2 ∧ tagSlot t = k % 4 ∧ tagCore t = coreOf k % 4096 ∧ tagGen t = (s.slot k).gen % 1024 ∧ tagReg t = use.reg % 32 := by
  intro t
  have ht : t = regTag (s.slot k).gen use.isV use.reg (k % 4) (coreOf k) := rfl
  rw [ht]
  exact ⟨tagKind_regTag .., (tagSlot_regTag ..).trans (Nat.mod_mod ..), tagCore_regTag .., tagGen_regTag .., tagReg_regTag ..⟩

/-- A far request to a home of this chip puts its message on the chip's network. -/
theorem State.sendFar_net_own (hc : chip = s.hub.chipId) (hk : coreOf k < 4096) :
    (s.sendFar k kind unit chip va ga use units p name).net = s.net ++ [s.farMsg k kind unit chip use units p] := by
  have hm : ¬ Config.firstMgmtCore ≤ coreOf k := Nat.not_le.2 hk
  unfold State.sendFar
  dsimp only
  rw [if_neg hm, State.route_local _ _ (by simpa using hc)]
  simp only [State.countReq_net, State.setSlot_net]
  cases use <;> rfl

/-- Of the cores a far request changes what its count changes. -/
theorem State.sendFar_cores :
    (s.sendFar k kind unit chip va ga use units p name).cores = (s.countReq (coreOf k) unit chip).cores := by
  unfold State.sendFar
  dsimp only
  rw [State.route_cores, State.countReq_setSlot, State.setSlot_cores]
end

end Sys2Proof.Machine

section
open Sys2Proof Sys2Proof.Machine

/-- Settles O4: the message is `State.sendFar_net_own`, its slot `State.sendFar_slots`, and its count `State.core_countReq_own`. -/
theorem farRequestLeavesOnce : Obligations.FarRequestLeavesOnce := by
  unfold Obligations.FarRequestLeavesOnce
  intro s k kind unit chip va ga use units p name sl t reg hc hk
  have hslots := s.sendFar_slots k kind unit chip va ga use units p name
  have hsame : t.slot k = _ := (congrArg (fun x : Tab Slot => x.get k {}) hslots).trans (Tab.get_set_same ..)
  have hother (j : Nat) (hj : j ≠ k) : t.slot j = s.slot j :=
    (congrArg (fun x : Tab Slot => x.get j {}) hslots).trans (Tab.get_set_other _ _ _ _ _ hj)
  have hcore : t.core (k / 4) = (s.countReq (k / 4) unit chip).core (k / 4) :=
    congrArg (fun x : Tab Core => x.get (k / 4) {}) (s.sendFar_cores k kind unit chip va ga use units p name)
  refine ⟨⟨s.farMsg k kind unit chip use units p, ?_, rfl, rfl, rfl, rfl, rfl, rfl, rfl, ?_⟩,
    ⟨_, congrArg Slot.far hsame, rfl, rfl, rfl, rfl, rfl, rfl⟩, congrArg Slot.kseq hsame, ?_, ?_, hother, ?_, ?_⟩
  · exact s.sendFar_net_own k kind unit chip va ga use units p name hc hk
  · exact s.tag_farMsg k kind unit chip use units p
  · exact (congrArg (fun x : Slot => x.owed.get sl.gen 0) hsame).trans (Tab.get_set_same ..)
  · exact Slot.requestsOnly (x := t.slot k) (sl := s.slot k) hsame
  · change (s.sendFar k kind unit chip va ga use units p name).mem = s.mem
    rw [State.sendFar_frame]
  · rw [hcore, hc]
    exact s.core_countReq_own (k / 4) unit
end
end

section
/-!
Sends, replies and the bits of channels (06_messages.md R105, R124 to R128, R134): the checks of a send one by one, what each instruction
does where they pass, and the obligation assembled from them.
-/
namespace Sys2Proof.Machine

/-! ### The checks of a send in their order (R134) -/

section
variable (s : State) (k : KOps) (d : Word) (b : Bool)

theorem State.sendChecks_of_descriptor (h : descOk d k.w b = false) : s.sendChecks k d b = .trap 0x44 d := by
  rw [State.sendChecks, require_neg h, Res.bind_trap]

theorem State.sendChecks_of_channel (hd : descOk d k.w b = true) (h : 241 ≤ fld d 32 8) :
    s.sendChecks k d b = .trap 0x41 (word (fld d 32 8)) := by
  have hc : decide (descChan d < 241) = false := decide_eq_false (Nat.not_lt.2 h)
  rw [State.sendChecks, require_pos hd, Res.bind_ok, require_neg hc, Res.bind_trap, descChan]

theorem State.sendChecks_of_route (hd : descOk d k.w b = true) (hc : fld d 32 8 < 241) (h : s.routeOf d = none) :
    s.sendChecks k d b = .trap 0x40 d := by
  rw [State.sendChecks, require_pos hd, Res.bind_ok, descChan, require_pos (decide_eq_true hc), Res.bind_ok, h]
end

/-! ### `send`, `sendr` and `reply` (R125, R126) -/

section
variable {s : State} {k : KOps}

/-- A send whose checks raise a cause traps with it. -/
theorem exec_send_of_trap (hr : Ready s [x1 k, x2 k (groupSize k.w)] [] [(k.rs2.toNat, groupSize k.w)]) {c : Nat} {a : Word} (hc : c ≠ 0x50)
    (h : s.sendChecks k (s.sl.xr k.rs1.toNat) false = .trap c a) : exec (.send k) s = .next (s.trap c a) := by
  change execSend k s = _
  rw [execSend, State.run_of_ready _ _ _ hr, h, Res.bind_trap, State.settle_trap, State.raise_of_ne _ _ hc]

/-- A send that asks for no record reply queues its message and completes, once the queue has room. -/
theorem exec_send_of_room (hr : Ready s [x1 k, x2 k (groupSize k.w)] [] [(k.rs2.toNat, groupSize k.w)]) (hu : Unfenced s)
    {r : BitVec 20 × Nat × Nat} {p : List Word} (h : s.sendChecks k (s.sl.xr k.rs1.toNat) false = .ok (r, p))
    (hk : descRkind (s.sl.xr k.rs1.toNat) ≠ 3) (ho : s.outRoom s.curCore = true) :
    let d := s.sl.xr k.rs1.toNat
    let tag := if descRkind d = 1 then chanTag (descRchan d) s.curCore else 0
    exec (.send k) s = .next (((s.queueOut (s.handlerMsg d r tag p) (some (sendScope k))).bufRead k d).modCur
      fun sl => Slot.complete { sl with kseq := sl.kseq + 1 }) := by
  change execSend k s = _
  rw [execSend, State.run_of_ready _ _ _ hr, h, Res.bind_ok]
  simp only [State.ordered_unfenced _ _ _ hu, stallUnless_pos ho, Res.bind_ok, if_neg hk, State.unlessFault, State.settle_ok]

/-- A send stalls while the outbound queue is full (R104). -/
theorem exec_send_of_full (hr : Ready s [x1 k, x2 k (groupSize k.w)] [] [(k.rs2.toNat, groupSize k.w)]) (hu : Unfenced s)
    {r : BitVec 20 × Nat × Nat} {p : List Word} (h : s.sendChecks k (s.sl.xr k.rs1.toNat) false = .ok (r, p))
    (ho : s.outRoom s.curCore = false) : exec (.send k) s = .next s := by
  change execSend k s = _
  rw [execSend, State.run_of_ready _ _ _ hr, h, Res.bind_ok]
  simp only [State.ordered_unfenced _ _ _ hu, stallUnless_neg ho, Res.bind_stall, State.settle_stall]

/-- A `sendr` queues its message, leaves its destination group empty and records what it asks for. -/
theorem exec_sendr_of_room (hr : Ready s [x1 k, x2 k (groupSize k.w)] [⟨descVreply (s.sl.xr k.rs1.toNat), k.rd.toNat, groupSize k.w, 0⟩]
      [(k.rs2.toNat, groupSize k.w), (k.rd.toNat, groupSize k.w)]) (hu : Unfenced s)
    {r : BitVec 20 × Nat × Nat} {p : List Word} (h : s.sendChecks k (s.sl.xr k.rs1.toNat) true = .ok (r, p)) (ho : s.outRoom s.curCore = true) :
    let n := groupSize k.w
    let d := s.sl.xr k.rs1.toNat
    exec (.sendr k) s = .next (((s.queueOut (s.handlerMsg d r (regTag s.sl.gen (descVreply d) k.rd.toNat (s.cur % 4) s.curCore) p)
      (some 2)).bufRead k d).modCur
      fun sl => Slot.complete { sl.emptyRegs (descVreply d) k.rd.toNat n with
        kseq := sl.kseq + 1, owed := sl.owed.set sl.gen (sl.owed.get sl.gen 0 + 1),
        asks := sl.asks ++ [{ gen := sl.gen, ctx := sl.clause.ctx, vec := descVreply d, reg := k.rd.toNat, count := n, desc := d }] }) := by
  change execSendr k s = _
  rw [execSendr, State.run_of_ready _ _ _ hr, h, Res.bind_ok]
  simp only [State.ordered_unfenced _ _ _ hu, stallUnless_pos ho, Res.bind_ok, State.settle_ok]

/-- A reply whose target raises a cause traps with it. -/
theorem exec_reply_of_trap (hr : Ready s [x1 k, x2 k (groupSize k.w)] [] [(k.rs2.toNat, groupSize k.w)]) {c : Nat} {a : Word} (hc : c ≠ 0x50)
    (h : s.replyTarget (s.sl.xr k.rs1.toNat) = .trap c a) : exec (.reply k) s = .next (s.trap c a) := by
  change execReply k s = _
  rw [execReply, State.run_of_ready _ _ _ hr, h, Res.bind_trap, State.settle_trap, State.raise_of_ne _ _ hc]

/-- A reply word that names no target, or whose reserved bits are not clear, raises 0x43. -/
theorem exec_reply_of_word (hr : Ready s [x1 k, x2 k (groupSize k.w)] [] [(k.rs2.toNat, groupSize k.w)]) {c : Nat}
    (h : s.replyTarget (s.sl.xr k.rs1.toNat) = .ok c)
    (hw : tagKind ((s.sl.xr k.rs1.toNat).setWidth 32) = 0 ∨ fld (s.sl.xr k.rs1.toNat) 59 5 ≠ 0) :
    exec (.reply k) s = .next (s.trap 0x43 (s.sl.xr k.rs1.toNat)) := by
  have hb : (tagKind ((s.sl.xr k.rs1.toNat).setWidth 32) != 0 && fld (s.sl.xr k.rs1.toNat) 59 5 == 0) = false := by
    rcases hw with hw | hw <;> simp [hw]
  change execReply k s = _
  rw [execReply, State.run_of_ready _ _ _ hr, h, Res.bind_ok, require_neg hb, Res.bind_trap, State.settle_trap,
    State.raise_of_ne _ _ (by decide)]

/-- The message of a `reply` with a payload, whose target is a context of this chip or another chip (R126). -/
def State.replyMsg (s : State) (d : Word) (c : Nat) (p : List Word) : Msg :=
  let tag : BitVec 32 := d.setWidth 32
  let chip := BitVec.ofNat 20 (fld d 32 20)
  { s.clauseMsg s.cur with
    dstChip := chip, dstCore := tag.setWidth 12, chan := if tagKind tag = 1 then BitVec.ofNat 8 (tagChan tag) else 0,
    kind := if tagKind tag = 1 then 0x00 else if tagKind tag = 2 then 0x01 else 0x02, units := BitVec.ofNat 3 (p.length / 2),
    rpay := tagKind tag == 3, tag := if tagKind tag = 1 then 0 else tag, payload := p, unit := s.curCore,
    ctx := if chip = s.hub.chipId then BitVec.ofNat 2 c else BitVec.ofNat 2 s.sl.clause.ctx, forVf := some (BitVec.ofNat 7 (fld d 52 7)) }

theorem exec_reply_of_room (hr : Ready s [x1 k, x2 k (groupSize k.w)] [] [(k.rs2.toNat, groupSize k.w)]) (hu : Unfenced s) {c : Nat}
    (h : s.replyTarget (s.sl.xr k.rs1.toNat) = .ok c) (ht : tagKind ((s.sl.xr k.rs1.toNat).setWidth 32) ≠ 0)
    (hz : fld (s.sl.xr k.rs1.toNat) 59 5 = 0) {q : List Word} (hq : s.payloadOf k 0 = .ok q) (ho : s.outRoom s.curCore = true) :
    exec (.reply k) s = .next ((s.queueOut (s.replyMsg (s.sl.xr k.rs1.toNat) c q) (some (sendScope k))).modCur
      fun sl => Slot.complete { sl with kseq := sl.kseq + 1 }) := by
  have hb : (tagKind ((s.sl.xr k.rs1.toNat).setWidth 32) != 0 && fld (s.sl.xr k.rs1.toNat) 59 5 == 0) = true := by simp [ht, hz]
  change execReply k s = _
  rw [execReply, State.run_of_ready _ _ _ hr, h, Res.bind_ok, require_pos hb, Res.bind_ok, hq, Res.bind_ok, State.ordered_unfenced _ _ _ hu,
    stallUnless_pos ho, Res.bind_ok, State.settle_ok]
  rfl
end

/-! ### The bits of channels (R105, R127, R128) -/

/-- The channels that may be named are those outside 242 to 252. -/
theorem not_chanReserved_iff (i : Nat) : (!chanReserved i) = true ↔ i < 242 ∨ 252 < i := by
  simp only [chanReserved, Bool.not_and, Bool.or_eq_true, Bool.not_eq_true', decide_eq_false_iff_not, Nat.not_le]

section
variable (s : State) (k : KOps) (f : Chan → Chan)

/-- A core that is looked at has at most an event more. -/
theorem State.wake_frame (core : Nat) : s.wake core = { s with agenda := (s.wake core).agenda } := by
  unfold State.wake; split <;> rfl

/-- The state in which an instruction has changed the bits of its channel and completed. -/
def State.chanDone : State := (s.setChan k f).complete

/-- A changed channel is the only thing that changes but the instruction's completion. -/
theorem State.chanDone_spec :
    let i := s.chanOf k
    let c := s.sl.clause.ctx
    let chan := fun (u : State) (j : Nat) => (u.ctx s.curCore c).chans.get j {}
    let u := s.chanDone k f
    chan u i = f (chan s i) ∧ (∀ j, j ≠ i → chan u j = chan s j) ∧ u.sl = s.sl.complete ∧ (∀ j, j ≠ s.cur → u.slot j = s.slot j) ∧
      u.mem = s.mem ∧ u.hub = s.hub ∧ u.net = s.net := by
  intro i c chan u
  have hu : u = ((s.modCtx s.curCore c fun x => { x with chans := x.chans.set i (f (x.chans.get i {})) }).wake s.curCore).modSlot s.cur
      Slot.complete := by
    change ((s.setChan k f).modSlot (s.setChan k f).cur Slot.complete) = _
    rw [State.setChan, State.wake_frame]
    rfl
  rw [hu]
  refine ⟨?_, fun j hj => ?_, ?_, fun j hj => ?_, ?_, ?_, ?_⟩
  · simp [chan, Tab.get_set_same]
  · simp [chan, Tab.get_set_other _ _ _ _ _ hj]
  · rw [State.wake_frame]; exact State.slot_modSlot ..
  · rw [State.slot_modSlot_other _ _ _ _ hj, State.slot_wake]; rfl
  · rw [State.modSlot_mem, State.wake_mem]; rfl
  · rw [State.modSlot_hub, State.wake_frame]; rfl
  · rw [State.modSlot_net, State.wake_frame]; rfl

/-- An instruction that has one check of its own takes effect where it passes, and traps where it does not. -/
theorem State.run_require_of_ready (n : Need) (p : Bool) (c : Nat) (a : Word) (t : State) (hr : Ready s n.srcs n.dsts n.groups n.format n.priv)
    (hc : c ≠ 0x50) : s.run n ((require p c a).bind fun _ => .ok t) = if p = true then t else s.trap c a := by
  rw [State.run_of_ready _ _ _ hr]
  cases p
  · exact s.raise_of_ne a hc
  · rfl

variable {s k} (hr : Ready s [x1 k] [])
include hr

theorem exec_hen : exec (.hen k) s = .next (if (!chanReserved (s.chanOf k)) = true then s.chanDone k fun x => { x with enable := true }
    else s.trap 0x41 (word (s.chanOf k))) :=
  congrArg Host.Outcome.next (s.run_require_of_ready _ _ _ _ _ hr (by decide))

theorem exec_hdis : exec (.hdis k) s = .next (if (!chanReserved (s.chanOf k)) = true then s.chanDone k fun x => { x with enable := false }
    else s.trap 0x41 (word (s.chanOf k))) :=
  congrArg Host.Outcome.next (s.run_require_of_ready _ _ _ _ _ hr (by decide))

theorem exec_hclr : exec (.hclr k) s = .next (if (!chanReserved (s.chanOf k)) = true then s.chanDone k fun x => { x with pending := false }
    else s.trap 0x41 (word (s.chanOf k))) :=
  congrArg Host.Outcome.next (s.run_require_of_ready _ _ _ _ _ hr (by decide))

theorem exec_hpend : exec (.hpend k) s = .next (if decide (s.chanOf k < 240) = true then s.chanDone k fun x => { x with pending := true }
    else s.trap 0x41 (word (s.chanOf k))) :=
  congrArg Host.Outcome.next (s.run_require_of_ready _ _ _ _ _ hr (by decide))
end

theorem exec_hhdr {s : State} {k : KOps} (hr : Ready s [] [toX k 4] [(k.rd.toNat, 4)]) :
    exec (.hhdr k) s = .next (s.modCur fun sl => (sl.setXs k.rd.toNat (sl.clause.header.take 4)).complete) := by
  change execHhdr k s = _
  rw [execHhdr, State.run_of_ready _ _ _ hr, State.settle_ok]

end Sys2Proof.Machine

section
open Sys2Proof Sys2Proof.Machine

theorem sendsQueueOneMessage : Claim.SendsQueueOneMessage := by
  unfold Claim.SendsQueueOneMessage
  intro s k r p n d count hu
  refine ⟨fun hr => ⟨fun hd => ?_, fun hd hc => ?_, fun hd hc h => ?_, fun h hk ho => exec_send_of_room hr hu h hk ho,
    fun h ho => exec_send_of_full hr hu h ho, fun a h => exec_reply_of_trap hr (by decide) h,
    fun c h => ⟨fun hw => exec_reply_of_word hr h hw, fun q ht hz hq ho => ?_⟩⟩, fun hr h ho => exec_sendr_of_room hr hu h ho⟩
  · exact exec_send_of_trap hr (by decide) (s.sendChecks_of_descriptor k d _ hd)
  · exact exec_send_of_trap hr (by decide) (s.sendChecks_of_channel k d _ hd hc)
  · exact exec_send_of_trap hr (by decide) (s.sendChecks_of_route k d _ hd hc h)
  · refine ⟨s.replyMsg d c q, rfl, BitVec.setWidth_setWidth_of_le (l := 32) d (by decide), rfl, rfl, fun hc => if_pos hc, ?_⟩
    exact exec_reply_of_room hr hu h ht hz hq ho

theorem channelBits : Claim.ChannelBits := by
  unfold Claim.ChannelBits
  intro s k i c chan sets bad
  have free (h : i < 242 ∨ 252 < i) : (!chanReserved (s.chanOf k)) = true := (not_chanReserved_iff _).2 h
  have reserved (h : 242 ≤ i ∧ i ≤ 252) : ¬ (!chanReserved (s.chanOf k)) = true := fun hn => by
    have := (not_chanReserved_iff _).1 hn
    change i < 242 ∨ 252 < i at this
    omega
  refine ⟨fun hr => ⟨fun h => ⟨?_, ?_, ?_⟩, fun h => ⟨?_, ?_, ?_⟩, fun h => ?_, fun h => ?_⟩, exec_hhdr⟩
  · exact ⟨_, (exec_hen hr).trans (congrArg _ (if_pos (free h))), s.chanDone_spec k _⟩
  · exact ⟨_, (exec_hdis hr).trans (congrArg _ (if_pos (free h))), s.chanDone_spec k _⟩
  · exact ⟨_, (exec_hclr hr).trans (congrArg _ (if_pos (free h))), s.chanDone_spec k _⟩
  · exact (exec_hen hr).trans (congrArg _ (if_neg (reserved h)))
  · exact (exec_hdis hr).trans (congrArg _ (if_neg (reserved h)))
  · exact (exec_hclr hr).trans (congrArg _ (if_neg (reserved h)))
  · exact ⟨_, (exec_hpend hr).trans (congrArg _ (if_pos (decide_eq_true h))), s.chanDone_spec k _⟩
  · exact (exec_hpend hr).trans (congrArg _ (if_neg fun hd => Nat.not_lt.2 h (of_decide_eq_true hd)))

/-- Settles O44: each clause is what one instruction does where its checks pass, or the first check that fails. -/
theorem sendsAndChannels : Obligations.SendsAndChannels := ⟨sendsQueueOneMessage, channelBits⟩
end
end

section
/-!
Replies at their slot (06_messages.md R103, 11_memory_access.md R199, R202): what the answer to a far request changes, what each kind of
request makes of it, what a trap leaves at its slot, and the obligation assembled from them.
-/
namespace Sys2Proof.Machine

/-! ### A trap at a slot (05_scalar.md R97) -/

/-- Where a message of the slot's report goes changes neither its phase nor what it recorded. -/
theorem State.sendReport_slot (s : State) (k cause : Nat) (b : Bool) (p : List Word) :
    ∃ r, (s.sendReport k cause b p).slot k = { s.slot k with ringReport := r } := by
  have ring (t : State) (ht : t.slot k = s.slot k) : ∃ r, (t.reportToRing k p).slot k = { s.slot k with ringReport := r } := by
    rw [State.reportToRing_slot]
    split
    · exact ⟨_, by rw [ht]⟩
    · exact ⟨(s.slot k).ringReport, ht⟩
  unfold State.sendReport
  dsimp only
  split
  · exact ⟨(s.slot k).ringReport, rfl⟩
  · refine ring _ ?_
    split <;> rfl

/-- A slot that takes a trap is frozen with its cause and address. -/
theorem State.trapAt_slot (s : State) (k cause : Nat) (a : Word) (b : Bool) :
    ((s.trapAt k cause a b).slot k).phase = .frozen ∧ ((s.trapAt k cause a b).slot k).kcause = word cause ∧
      ((s.trapAt k cause a b).slot k).kaddr = a := by
  have hsl : (s.freezeAt k cause a).slot k =
      { (s.slot k).frozenWith cause a with clause := { ((s.slot k).frozenWith cause a).clause with account := none } } := by
    have hwake (t : State) (core c : Nat) : (t.wakeSave core c).slot k = t.slot k := by unfold State.wakeSave; split <;> rfl
    rw [State.freezeAt, hwake, State.traceRecord_frame]
    change ((State.setSlot _ k _).boundary k).slot k = _
    rw [State.boundary_slot, if_pos rfl, State.slot_setSlot]
  obtain ⟨r, hr⟩ := (s.freezeAt k cause a).sendReport_slot k cause b (((s.slot k).frozenWith cause a).report k)
  rw [State.trapAt, hr, hsl]
  exact ⟨rfl, rfl, rfl⟩

/-! ### A request is answered -/

/-- The slot whose request has its answer: the request is out no longer, and a reply less is owed. -/
def Slot.answered (sl : Slot) (gen : Nat) (seq : BitVec 32) : Slot :=
  { sl with far := sl.far.filter fun f => !(f.gen == gen && f.seq == seq), owed := sl.owed.set gen (sl.owed.get gen 0 - 1) }

/-- No request under the generation and sequence of an answer is out after it. -/
theorem Slot.answered_far (sl : Slot) (gen : Nat) (seq : BitVec 32) : ∀ g ∈ (sl.answered gen seq).far, g.gen = gen → g.seq ≠ seq := by
  intro g hg hgen hseq
  simpa [hgen, hseq] using (List.mem_filter.1 hg).2

section
variable (s : State) (k gen : Nat) (seq : BitVec 32)

/-- An answer changes its slot and the waits of the core's outbound queue, and brings about events. -/
theorem State.answered_frame : s.answered k gen seq =
    { s with slots := s.slots.set k ((s.slot k).answered gen seq), cores := (s.answered k gen seq).cores, agenda := (s.answered k gen seq).agenda } := by
  have hnudge (t : State) : t.nudge k = { t with agenda := (t.nudge k).agenda } := by unfold State.nudge; split <;> rfl
  have hwake (t : State) (b : Bool) : t.wakeFree k b = { t with agenda := (t.wakeFree k b).agenda } := by
    unfold State.wakeFree State.wake; split
    · split <;> rfl
    · rfl
  unfold State.answered
  dsimp only
  rw [hwake, hnudge]
  split <;> rfl

theorem State.slot_answered : (s.answered k gen seq).slot k = (s.slot k).answered gen seq := by
  rw [State.answered_frame]; exact Tab.get_set_same ..
theorem State.slot_answered_other (j : Nat) (hj : j ≠ k) : (s.answered k gen seq).slot j = s.slot j := by
  rw [State.answered_frame]; exact Tab.get_set_other _ _ _ _ _ hj
theorem State.answered_mem : (s.answered k gen seq).mem = s.mem := by rw [State.answered_frame]
end

/-- The record of a far access that met poison is no part of a slot. -/
theorem State.slot_farPoison (s : State) (k j : Nat) (f : Far) (m : Msg) : (s.farPoison k f m).slot j = s.slot j := by
  unfold State.farPoison
  dsimp only
  split
  · split
    · rw [State.kernelRecord_frame]; rfl
    · rw [State.errorRecord_frame]; rfl
  · rfl

/-- Poison is status 1. -/
theorem State.farPoison_of_ne (s : State) (k : Nat) (f : Far) (m : Msg) (h : replyStatus m ≠ 1) : s.farPoison k f m = s := by
  rw [State.farPoison, if_neg (by simp [h])]

/-- An acknowledged contribution changes the fabric port only. -/
theorem State.portFree_frame (s : State) (ga : Word) : s.portFree ga = { s with
    net := (s.portFree ga).net, fabricOut := (s.portFree ga).fabricOut,
    hub := { s.hub with windows := (s.portFree ga).hub.windows, portOpen := (s.portFree ga).hub.portOpen, portHeld := (s.portFree ga).hub.portHeld } } := by
  unfold State.portFree
  split
  · rfl
  · dsimp only
    split
    · rfl
    · rw [State.portSend_frame]; rfl

/-! ### A marker (R202) -/

section
variable (sl : Slot) (r cause : Nat) (a : Word)

theorem Slot.markReg_x_frame : sl.markReg false r cause a =
    { sl with x := (sl.markReg false r cause a).x, xm := (sl.markReg false r cause a).xm } := by
  simp only [Slot.markReg, Bool.false_eq_true, if_false]
  split <;> rfl

theorem Slot.xmark_markReg_same (h : r ≠ 0) : (sl.markReg false r cause a).xmark r = .marked cause a := by
  simp [Slot.markReg, Slot.xmark, h, Tab.get_set_same]

/-- A marker of an `x` register leaves every other `x` register as it was. -/
theorem Slot.markReg_x_other (j : Nat) (h : j ≠ r) :
    (sl.markReg false r cause a).xr j = sl.xr j ∧ (sl.markReg false r cause a).xmark j = sl.xmark j := by
  by_cases hr : r = 0
  · simp [Slot.markReg, hr]
  · simp [Slot.markReg, Slot.xr, Slot.xmark, hr, Tab.get_set_other _ _ _ _ _ h]
end

/-- What a fill of one `x` register leaves: the value, full, or a marker; all else of the slot as it was. -/
theorem Slot.fillX_spec (sl : Slot) (rd cause st : Nat) (a v : Word) :
    let u := if st ≠ 0 then sl.markReg false rd cause a else sl.setX rd v
    (st = 0 → u.xr rd = (if rd = 0 then 0 else v) ∧ u.xmark rd = .full) ∧ (st ≠ 0 → rd ≠ 0 → u.xmark rd = .marked cause a) ∧
      (∀ j, j ≠ rd → u.xr j = sl.xr j ∧ u.xmark j = sl.xmark j) ∧ u.pc = sl.pc ∧ u.far = sl.far := by
  by_cases h : st = 0
  · simp only [h, ne_eq, not_true_eq_false, if_false, true_implies, false_implies, true_and]
    refine ⟨⟨?_, ?_⟩, fun j hj => ⟨Slot.xr_setX_other _ _ _ _ hj, ?_⟩, Slot.setX_pc .., Slot.setX_far ..⟩
    · by_cases hrd : rd = 0 <;> simp [hrd]
    · rw [Slot.xmark_setX, if_pos rfl]
    · rw [Slot.xmark_setX, if_neg hj]
  · simp only [h, ne_eq, not_false_eq_true, if_true, true_implies, false_implies, true_and]
    exact ⟨sl.xmark_markReg_same rd cause a, sl.markReg_x_other rd cause a, by rw [Slot.markReg_x_frame], by rw [Slot.markReg_x_frame]⟩

/-! ### What a reply comes to at its slot -/

/-- A request of a slot's clause, which runs, that the reply answers (R103). -/
structure Asked (s : State) (m : Msg) (f : Far) : Prop where
  tag    : tagKind m.tag = 2
  found  : (s.slot (tagSlotKey m.tag)).far.find? (fun f => f.gen == tagGen m.tag && f.seq == m.seq) = some f
  passes : s.parks { m with launch := f.launch, window := f.window } = false
  gen    : f.gen = (s.slot (tagSlotKey m.tag)).gen
  runs   : (s.slot (tagSlotKey m.tag)).phase = .running
  name   : f.name = none

/-- The state once the request that a reply answers is out no longer, and the poison that it met is recorded. -/
def State.settled (s : State) (m : Msg) (f : Far) : State := (s.answered (tagSlotKey m.tag) f.gen f.seq).farPoison (tagSlotKey m.tag) f m

theorem replySlot_of_tagKind {t : BitVec 32} (h : tagKind t = 2) : replySlot t = tagSlotKey t := by
  have hm : tagMgmt t = false := by simp [tagMgmt, h]
  rw [replySlot, hm]; rfl

theorem State.slot_settled (s : State) (m : Msg) (f : Far) :
    (s.settled m f).slot (tagSlotKey m.tag) = (s.slot (tagSlotKey m.tag)).answered f.gen f.seq := by
  rw [State.settled, State.slot_farPoison, State.slot_answered]
theorem State.slot_settled_other (s : State) (m : Msg) (f : Far) (j : Nat) (hj : j ≠ tagSlotKey m.tag) :
    (s.settled m f).slot j = s.slot j := by
  rw [State.settled, State.slot_farPoison, State.slot_answered_other _ _ _ _ _ hj]
theorem State.settled_mem (s : State) (m : Msg) (f : Far) (h : replyStatus m ≠ 1) : (s.settled m f).mem = s.mem := by
  rw [State.settled, State.farPoison_of_ne _ _ _ _ h, State.answered_mem]

/-- A reply to nothing changes nothing. -/
theorem State.replyArrives_of_none (s : State) (m : Msg) (ht : tagKind m.tag = 2) (hp : s.parks m = false)
    (h : (s.slot (tagSlotKey m.tag)).far.find? (fun f => f.gen == tagGen m.tag && f.seq == m.seq) = none) : s.replyArrives m = s := by
  simp only [State.replyArrives, ht, h, State.orPark, hp, Bool.false_eq_true, if_false, State.slotReply, replySlot_of_tagKind ht]

/-- What a reply of a running clause does, by what its request is for. -/
def State.useReply (s : State) (k : Nat) (f : Far) (m : Msg) : State :=
  match f.use with
  | .posted => (if f.kind = 0x31 then s.portFree f.ga else s).postedAck k f m
  | .blocking => s.blockReply k f m
  | _ => s.modSlot k fun sl => sl.filled f m

/-- A reply to a request of a running clause ends the request, and does what the request is for. -/
theorem State.replyArrives_of_asked {s : State} {m : Msg} {f : Far} (h : Asked s m f) :
    s.replyArrives m = (s.settled m f).useReply (tagSlotKey m.tag) f { m with launch := f.launch, window := f.window } := by
  obtain ⟨ht, hf, hp, hg, hr, hn⟩ := h
  have hgen : f.gen = tagGen m.tag := by
    have := List.find?_some hf
    simp only [Bool.and_eq_true, beq_iff_eq] at this
    exact this.1
  have htakes : ((s.settled m f).slot (tagSlotKey m.tag)).takes (tagGen m.tag) = true := by
    rw [State.slot_settled, ← hgen]
    simp [Slot.takes, Slot.answered, hg, hr]
  have hset : State.farPoison (s.answered (tagSlotKey m.tag) (tagGen m.tag) f.seq) (tagSlotKey m.tag) f
      { m with launch := f.launch, window := f.window } = s.settled m f := by rw [← hgen]; rfl
  simp only [State.replyArrives, ht, hf, State.orPark, hp, Bool.false_eq_true, if_false, State.slotReply, replySlot_of_tagKind ht, hn, hset,
    htakes, Bool.true_or, if_true]
  rfl

/-! ### What the request was for -/

section
variable {s : State} {m : Msg} {f : Far} (h : Asked s m f)
include h

/-- A reply to a request for one register fills it, or marks it where it has a status (R202). -/
theorem State.replyArrives_fillX {rd size : Nat} {signed : Bool} (hu : f.use = .fillX rd size 1 signed) :
    s.replyArrives m = (s.settled m f).modSlot (tagSlotKey m.tag) fun sl =>
      if replyStatus m ≠ 0 then sl.markReg false rd (f.cause (replyStatus m)) (f.markAddr (replyStatus m))
      else sl.setX rd (extendBytes size signed (m.payload.getD 2 0).toNat) := by
  rw [State.replyArrives_of_asked h]
  simp only [State.useReply, hu, Slot.filled, Slot.markRegs, if_true]
  rfl

/-- An acknowledgement of a posted request changes no slot beyond it, and no memory. -/
theorem State.replyArrives_posted (hu : f.use = .posted) (hst : replyStatus m = 0) :
    (s.replyArrives m).slots = (s.settled m f).slots ∧ (s.replyArrives m).mem = (s.settled m f).mem := by
  have hst' : replyStatus { m with launch := f.launch, window := f.window } = 0 := hst
  have hdone (t : State) : t.postedAck (tagSlotKey m.tag) f { m with launch := f.launch, window := f.window } = t := by
    rw [State.postedAck]; simp [hst']
  rw [State.replyArrives_of_asked h]
  simp only [State.useReply, hu, hdone]
  split
  · rw [State.portFree_frame]; exact ⟨rfl, rfl⟩
  · exact ⟨rfl, rfl⟩

/-- The one reply of a blocking instruction ends it. -/
theorem State.replyArrives_blocking (hu : f.use = .blocking) {b : Block} (hw : (s.slot (tagSlotKey m.tag)).wait = .blocked b 1 []) :
    s.replyArrives m = (s.settled m f).finishBlock (tagSlotKey m.tag) b [gotEntry f m] f { m with launch := f.launch, window := f.window } := by
  have hw' : ((s.settled m f).slot (tagSlotKey m.tag)).wait = .blocked b 1 [] := by rw [State.slot_settled]; exact hw
  rw [State.replyArrives_of_asked h]
  simp only [State.useReply, hu, State.blockReply, hw']
  rfl
end

/-! ### The end of a blocking instruction with one reply -/

theorem firstFailure_gotEntry_of_ok {f : Far} {m : Msg} (h : replyStatus m = 0) : firstFailure [gotEntry f m] = none := by
  have hst : fld ((gotEntry f m).2.getD 0 0) 0 8 = 0 := h
  simp only [firstFailure, hst, if_true]

theorem firstFailure_gotEntry_of_status {f : Far} {m : Msg} (h : replyStatus m ≠ 0) :
    ∃ n, firstFailure [gotEntry f m] = some (replyStatus m, f.va, n) := by
  have hst : fld ((gotEntry f m).2.getD 0 0) 0 8 = replyStatus m := rfl
  simp only [firstFailure, hst, if_neg h]
  exact ⟨_, rfl⟩

theorem gotWord_gotEntry {f : Far} {m : Msg} (h : replyStatus m = 0) : gotWord [gotEntry f m] 0 = m.payload.getD 2 0 := by
  simp [gotWord, gotData, gotEntry, h]

section
variable (s : State) (k : Nat) (f : Far) (m r : Msg)

/-- A load whose reply has no status writes its register and completes (R202). -/
theorem State.finishBlock_load_ok (rd size : Nat) (signed : Bool) (h : replyStatus m = 0) :
    s.finishBlock k (.load rd size signed) [gotEntry f m] f r =
      s.modSlot k fun sl => (sl.setX rd (extendBytes size signed (m.payload.getD 2 0).toNat)).complete := by
  simp only [State.finishBlock, firstFailure_gotEntry_of_ok h, gotWord_gotEntry h]

/-- A load whose reply has a status traps with the status's cause. -/
theorem State.finishBlock_load_status (rd size : Nat) (signed : Bool) (h : replyStatus m ≠ 0) :
    s.finishBlock k (.load rd size signed) [gotEntry f m] f r = s.trapAt k (statusCause (replyStatus m)) f.va := by
  obtain ⟨n, hn⟩ := firstFailure_gotEntry_of_status (f := f) h
  simp only [State.finishBlock, hn]

theorem State.finishBlock_store_ok (h : replyStatus m = 0) : s.finishBlock k .store [gotEntry f m] f r = s.modSlot k Slot.complete := by
  simp only [State.finishBlock, firstFailure_gotEntry_of_ok h, State.completeAt]

/-- The hub's answer to an instruction other than `launch` and `lawset` is written to its register. -/
theorem State.finishBlock_hub_ok (op rd : Nat) (h : replyStatus r = 0) (h1 : 1 ≤ op) (h3 : op ≠ 3) :
    s.finishBlock k (.hub op rd) [gotEntry f m] f r = s.modSlot k fun sl => (sl.setX rd (r.payload.getD 2 0)).complete := by
  have hset : op ≠ hubLawset := Nat.ne_of_gt h1
  simp only [State.finishBlock, State.hubDone, h, if_neg (show op ≠ hubLaunch from h3), if_neg hset, ne_eq, not_true_eq_false, if_false,
    if_neg (show ¬ (0 : Nat) = 5 by decide)]

/-- A name unit's answer to a read of a name is written to its register. -/
theorem State.finishBlock_name_read_ok (rd : Nat) (name : BitVec 128) (args : List Word) (h : replyStatus r = 0) :
    s.finishBlock k (.name 4 rd name args) [gotEntry f m] f r = s.modSlot k fun sl => (sl.setX rd (r.payload.getD 2 0)).complete := by
  simp only [State.finishBlock, State.nameDone, h]
  rfl
end

end Sys2Proof.Machine

section
open Sys2Proof Sys2Proof.Machine

/-- Settles O9: a reply is `State.replyArrives_of_asked`, read for each thing that a request can be for. -/
theorem repliesFillAndComplete : Obligations.RepliesFillAndComplete := by
  unfold Obligations.RepliesFillAndComplete
  intro s m f rd size op signed name args k sl st w each asked out rest ht
  have each_of {P : State → Prop} (h : P (s.replyArrives m)) : each P :=
    ⟨⟨_, rfl, h⟩, ⟨_, rfl, h⟩, ⟨_, rfl, h⟩, ⟨_, rfl, h⟩, ⟨_, rfl, h⟩, ⟨_, rfl, h⟩, ⟨_, rfl, h⟩⟩
  have asked_of : out → Asked s m f := fun ⟨hfound, hpasses, hgen, hruns, hname⟩ => ⟨ht, hfound, hpasses, hgen, hruns, hname⟩
  have hslot : (s.settled m f).slot k = sl.answered f.gen f.seq := s.slot_settled m f
  have hrest : rest ((s.settled m f).slot k) := by rw [hslot]; exact Eq.refl (sl.answered f.gen f.seq)
  have done {g : Slot → Slot} {t : State} (h : t = (s.settled m f).modSlot k fun sl => (g sl).complete) (hst : st = 0) :
      t.mem = s.mem ∧ ∃ sl' : Slot, rest sl' ∧ t.slot k = (g sl').complete := by
    subst h
    exact ⟨s.settled_mem m f (by rw [show replyStatus m = 0 from hst]; decide), _, hrest, State.slot_modSlot ..⟩
  have traps {c : Nat} (ho : out) (hu : f.use = .blocking) (hw : sl.wait = .blocked (.load rd size signed) 1 []) (hc : c ≠ 0) (hst : st = c) :
      ((s.replyArrives m).slot k).phase = .frozen ∧ ((s.replyArrives m).slot k).kcause = word (statusCause c) ∧
        ((s.replyArrives m).slot k).kaddr = f.va := by
    subst hst
    rw [State.replyArrives_blocking (asked_of ho) hu hw, State.finishBlock_load_status _ _ _ _ _ _ _ _ hc]
    exact State.trapAt_slot ..
  refine ⟨fun h hp => each_of (s.replyArrives_of_none m ht hp h), fun ho hu => each_of ?_, fun ho hu hw => each_of ⟨fun hst => ?_, ?_, ?_⟩,
    fun ho hu hw hst => each_of ?_, fun ho hu hst => each_of ?_, fun ho hu hw hst h1 h3 => ?_, fun ho hu hw hst => ?_⟩
  · rw [State.replyArrives_fillX (asked_of ho) hu, State.slot_modSlot, hslot]
    obtain ⟨hok, hbad, hx, hpc, hfar⟩ := (sl.answered f.gen f.seq).fillX_spec rd (f.cause st) st (f.markAddr st) (extendBytes size signed w.toNat)
    refine ⟨hok, hbad, hx, hpc, fun g hg => sl.answered_far f.gen f.seq g ?_, s.settled_mem m f, fun j hj => ?_⟩
    · rwa [← hfar]
    · rw [State.slot_modSlot_other _ _ _ _ hj, State.slot_settled_other _ _ _ _ hj]
  · exact done ((State.replyArrives_blocking (asked_of ho) hu hw).trans (State.finishBlock_load_ok _ _ _ _ _ _ _ _ hst)) hst
  · exact traps ho hu hw (by decide)
  · exact traps ho hu hw (by decide)
  · exact done ((State.replyArrives_blocking (asked_of ho) hu hw).trans (State.finishBlock_store_ok _ _ _ _ _ hst)) hst
  · obtain ⟨hslots, hmem⟩ := State.replyArrives_posted (asked_of ho) hu hst
    have hk : (s.replyArrives m).slot k = sl.answered f.gen f.seq := (congrArg (fun x : Tab Slot => x.get k {}) hslots).trans hslot
    rw [hk]
    exact ⟨hmem.trans (s.settled_mem m f (by rw [show replyStatus m = 0 from hst]; decide)), rfl, sl.answered_far f.gen f.seq⟩
  · obtain ⟨hm, sl', hr, hs⟩ := done ((State.replyArrives_blocking (asked_of ho) hu hw).trans (State.finishBlock_hub_ok _ _ _ _ _ _ _ hst h1 h3)) hst
    exact ⟨_, sl', rfl, hr, hs, hm⟩
  · obtain ⟨hm, sl', hr, hs⟩ := done ((State.replyArrives_blocking (asked_of ho) hu hw).trans (State.finishBlock_name_read_ok _ _ _ _ _ _ _ _ hst)) hst
    exact ⟨_, sl', rfl, hr, hs, hm⟩
end
end

section
/-!
SUPPORT. Lines of tables written over a memory that is not in canonical form (00_scope.md R3): a write of zero before a cell
that is out of order leaves the cell as it is. `Claim.SuspensionWritesTheRecord` and `Claim.ClauseMessagesTakeEffect` speak
of every state, such a memory included, so the record that they promise is not there.
-/
namespace Sys2Proof.Machine

/-- A package whose record table of context 0 of core 0 stands at address 0, in a page with a VALID entry. Record 0 is SUSPENDED, and the
clause at slot 0, which has record 0, is about to suspend. The cell of byte 63 follows that of a higher address: the memory is not in
canonical form. -/
def disordered : State :=
  { State.reset with
    cores := [(0, { tlb := [(0, 0, 0, word (2 ^ 8 + 2 ^ 6 + 1))], ctxs := [(0, { recs := [(0, { state := .suspended })] })] })]
    slots := [(0, { phase := .suspending .susp, clause := { recIdx := some 0 } })]
    mem := [(State.reset.dpitAddr 0 + 7, 0x80), (63, 2)] }

/-- The resume of record 0 of core 0. -/
def resumeOfRecord0 : Msg := { kind := 0x02, tag := recTag 0 0 }

theorem disordered_not_wf : Memory.wf disordered.mem = false := by decide +kernel

/-- The record's line is at address 0, of unit 0. -/
theorem disordered_tableLine : disordered.tableLine 0 0 (disordered.recordVa 0 0 0) = .ok (0, 0) := by decide +kernel

/-- Its home finds the line at byte 0 of memory. -/
theorem disordered_findLine : disordered.findLine (disordered.tableMsg 0 0 0 0) 0 false false true = .at 0 (2 ^ 63) := by
  decide +kernel

/-- The suspension commits, and byte 63, where the last byte of `x15`, a zero, was written, keeps its 2. -/
theorem disordered_suspensionCommit_byte : ((disordered.trySuspend 0).bytes 0 64).getD 63 0 = 2 := by decide +kernel

/-- The resume arrives at record 0. -/
theorem exec_resumeOfRecord0 :
    exec (.resume resumeOfRecord0) disordered = .next (disordered.resumeArrives resumeOfRecord0) := by rfl

/-- Byte 63 keeps its 2 when the resume writes the record. -/
theorem disordered_resume_byte : ((disordered.resumeArrives resumeOfRecord0).bytes 0 64).getD 63 0 = 2 := by decide +kernel

end Sys2Proof.Machine
end

section
open Sys2Proof Sys2Proof.Machine

/-- A suspension in `disordered` commits and leaves byte 63 of the record's line at 2, where R110 has the high byte of `x15`, which is 0. -/
theorem not_suspensionWritesTheRecord : ¬ Claim.SuspensionWritesTheRecord := by
  intro h
  obtain ⟨-, -, hcommit, -⟩ := h disordered ⟨false, false, 0, 0, 0, 0⟩ 0 0
  obtain ⟨-, hwrites⟩ := hcommit rfl rfl rfl rfl (by decide)
  obtain ⟨u, hu, -, hline, -⟩ := hwrites rfl rfl rfl (by decide) (by decide +kernel)
  obtain rfl : disordered.trySuspend 0 = u := by injection hu
  obtain ⟨hbytes, -⟩ := hline 0 0 0 (2 ^ 63) disordered_tableLine (by decide) disordered_findLine rfl
  have hbyte := congrArg (List.getD · 63 0) hbytes
  exact absurd (disordered_suspensionCommit_byte.symm.trans hbyte) (by decide +kernel)

/-- A resume in `disordered` writes the record and leaves byte 63 of its line at 2, where the image of R110 ends with 0. -/
theorem not_clauseMessagesTakeEffect : ¬ Claim.ClauseMessagesTakeEffect := by
  intro h
  obtain ⟨-, hresume, -⟩ := h disordered resumeOfRecord0 { gen := 0, ctx := 0, vec := false, reg := 0, count := 0, desc := 0 }
    (by decide) (by decide)
  obtain ⟨t, ht, -, -, -, hline, -⟩ := hresume (by decide) (by decide) (by decide) (by decide) (by decide) rfl (by decide)
    (by decide) (by decide)
  obtain rfl : disordered.resumeArrives resumeOfRecord0 = t := by
    injection exec_resumeOfRecord0.symm.trans ht
  obtain ⟨hbytes, -⟩ := hline 0 0 0 (2 ^ 63) disordered_tableLine (by decide) disordered_findLine rfl
  have hbyte := congrArg (List.getD · 63 0) hbytes
  exact absurd (disordered_resume_byte.symm.trans hbyte) (by decide +kernel)

/-- Refutes O45: `Claim.SuspensionWritesTheRecord` does not ask that memory is in canonical form, and a zero byte of the record does not
take where a cell out of order stands. -/
theorem not_clausesSuspendSpawnAndEnd : ¬ Obligations.ClausesSuspendSpawnAndEnd := by
  unfold Obligations.ClausesSuspendSpawnAndEnd
  rintro ⟨hsuspension, -, -⟩
  exact not_suspensionWritesTheRecord hsuspension

/-- Refutes O51: `Claim.ClauseMessagesTakeEffect` does not ask that memory is in canonical form, and a zero byte of the record that a resume
writes does not take where a cell out of order stands. -/
theorem not_messagesArrive : ¬ Obligations.MessagesArrive := by
  unfold Obligations.MessagesArrive
  rintro ⟨-, hclause⟩
  exact not_clauseMessagesTakeEffect hclause

end

section
/-!
The parts of a group's work that `mgeo` describes (10_matrix.md R192): how they follow one another, what `mgeo` comes to, and the obligation
assembled from it.
-/
namespace Sys2Proof.Machine

theorem least_eq_min (a b : Nat) : least a b = min a b := rfl

/-! ### The parts of a total -/

/-- A part begins where the one before it ends. -/
theorem splitPart_succ_fst (t parts i : Nat) : (splitPart t parts (i + 1)).1 = (splitPart t parts i).1 + (splitPart t parts i).2 := by
  simp only [splitPart, least_eq_min, Nat.add_mul]
  by_cases h : i < t % parts <;> simp only [h, decide_true, decide_false, Bool.toNat_true, Bool.toNat_false] <;> omega

/-- What follows the last part begins where the total ends. -/
theorem splitPart_all_fst (t : Nat) {parts : Nat} (h : 0 < parts) : (splitPart t parts parts).1 = t := by
  have hr : t % parts < parts := Nat.mod_lt t h
  rw [splitPart, least_eq_min, Nat.min_eq_right (Nat.le_of_lt hr), Nat.div_add_mod]

/-- A part holds the quotient, or one more. -/
theorem splitPart_snd_bounds (t parts i : Nat) : t / parts ≤ (splitPart t parts i).2 ∧ (splitPart t parts i).2 ≤ t / parts + 1 :=
  ⟨Nat.le_add_right .., Nat.add_le_add_left (Bool.toNat_le _) _⟩

/-! ### `mgeo` -/

/-- Word j of the geometry that a membership register holds (R192). -/
def State.geoWord (s : State) (i j : Nat) : Nat := (((s.core s.curCore).geo.get i []).getD j 0).toNat

/-- The columns of members that the geometry of a membership register asks for. -/
def State.geoColumns (s : State) (i : Nat) : Nat := s.geoWord i 2 % 65536

/-- The words that describe the part of a member of a group (R192). -/
def State.geoPart (s : State) (i : Nat) (g : Word) : List Word :=
  let rows := splitPart ((s.geoWord i 0 + 31) / 32) (geoSize g / s.geoColumns i) (geoRank g / s.geoColumns i)
  let cols := splitPart ((s.geoWord i 1 + 31) / 32) (s.geoColumns i) (geoRank g % s.geoColumns i)
  [word (rows.1 + rows.2 * 2 ^ 32), word (cols.1 + cols.2 * 2 ^ 32),
   word (edgeBits (s.geoWord i 0) ((s.geoWord i 0 + 31) / 32) rows.1 rows.2
     + edgeBits (s.geoWord i 1) ((s.geoWord i 1 + 31) / 32) cols.1 cols.2 * 2 ^ 32), word (s.geoWord i 3)]

/-- The columns divide the group among them. -/
def State.geoDivides (s : State) (i : Nat) (g : Word) : Bool :=
  s.geoColumns i != 0 && decide (s.geoColumns i ≤ geoSize g) && geoSize g % s.geoColumns i == 0

theorem State.geoDivides_iff (s : State) (i : Nat) (g : Word) :
    s.geoDivides i g = true ↔ s.geoColumns i ≠ 0 ∧ s.geoColumns i ≤ geoSize g ∧ geoSize g % s.geoColumns i = 0 := by
  simp [State.geoDivides, and_assoc]

/-- `mgeo` of a member writes the words of its part where the columns divide the group, and raises 0x38 where they do not. -/
theorem exec_mgeo {s : State} {k : KOps} {i : Nat} {g : Word} (hr : Ready s [x1 k] [toX k 4] [(k.rd.toNat, 4)]) (hm : s.needMember k = .ok (i, g)) :
    exec (.mgeo k) s = .next (if s.geoDivides i g then s.modCur fun sl => (sl.setXs k.rd.toNat (s.geoPart i g)).complete
      else s.trap 0x38 (word (s.geoWord i 2))) := by
  change execMgeo k s = _
  rw [execMgeo, State.run_of_ready _ _ _ hr, hm, Res.bind_ok]
  change Host.Outcome.next (s.settle ((require (s.geoDivides i g) 0x38 (word (s.geoWord i 2))).bind fun _ =>
    .ok (s.modCur fun sl => (sl.setXs k.rd.toNat (s.geoPart i g)).complete))) = _
  cases s.geoDivides i g
  · exact congrArg _ (s.raise_of_ne _ (by decide))
  · rfl

end Sys2Proof.Machine

section
open Sys2Proof Sys2Proof.Machine

theorem geometryWords : Claim.GeometryWords := by
  unfold Claim.GeometryWords
  intro s k i g ws n p hr hm
  refine ⟨fun h0 hd hle => ?_, fun h => ?_⟩
  · exact (exec_mgeo hr hm).trans (congrArg _ (if_pos ((s.geoDivides_iff i g).2 ⟨h0, hle, hd⟩)))
  · refine (exec_mgeo hr hm).trans (congrArg _ (if_neg fun hdiv => ?_))
    obtain ⟨h0, hle, hd⟩ := (s.geoDivides_iff i g).1 hdiv
    rcases h with h | h | h
    · exact h0 h
    · exact h hd
    · exact Nat.not_lt.2 hle h

theorem geometryPartsCoverTheWhole : Claim.GeometryPartsCoverTheWhole := by
  unfold Claim.GeometryPartsCoverTheWhole
  intro t parts h
  refine ⟨?_, ?_, fun i _ => splitPart_succ_fst t parts i, fun i j _ _ => ?_⟩
  · simp [splitPart, least_eq_min]
  · rw [← splitPart_succ_fst, Nat.sub_add_cancel h, splitPart_all_fst t h]
  · exact Nat.le_trans (splitPart_snd_bounds t parts i).2 (Nat.add_le_add_right (splitPart_snd_bounds t parts j).1 1)

/-- Settles O43: `mgeo` is its one test and the part of R192, and each part begins where the one before it ends. -/
theorem geometry : Obligations.Geometry := ⟨geometryWords, geometryPartsCoverTheWhole⟩
end
end

section
/-!
Latches, shadows and ring transfers (10_matrix.md R178, R189 to R191): what a write of a latch, an application of a shadow and a transfer do,
what `mring` and `mpass` come to, and the obligation assembled from it.
-/
namespace Sys2Proof.Machine

/-! ### The two events -/

theorem exec_shadowApply (core c l : Nat) (s : State) : exec (.shadowApply core c l) s = .next (s.applyShadow core c l) := rfl
theorem exec_latchTransferArrival (core c l : Nat) (s : State) : exec (.latchTransferArrival core c l) s = .next (s.transfer core c l) := rfl

/-! ### Latches and their shadows -/

section
variable (s : State) (core c l : Nat) (v : Latch)

@[simp] theorem State.latch_setLatch : (s.setLatch core c l v).latch core c l = v := by
  rw [State.latch, State.setLatch, State.ctx_modCtx]
  exact Tab.get_set_same ..
@[simp] theorem State.setLatch_slots : (s.setLatch core c l v).slots = s.slots := rfl
@[simp] theorem State.setLatch_mem : (s.setLatch core c l v).mem = s.mem := rfl
@[simp] theorem State.slot_setLatch (j : Nat) : (s.setLatch core c l v).slot j = s.slot j := rfl
@[simp] theorem State.latch_completeAt (k : Nat) : (s.completeAt k).latch core c l = s.latch core c l := rfl
@[simp] theorem State.slot_completeAt (k : Nat) : (s.completeAt k).slot k = (s.slot k).complete := State.slot_modSlot ..

/-- What waits for a latch is looked at again by events to come. -/
theorem State.latchReady_frame : s.latchReady core c l = { s with agenda := (s.latchReady core c l).agenda } := by
  unfold State.latchReady
  refine congrArg (fun t => State.post t (.latchTransferArrival core c l)) (State.foldl_agenda_frame (fun s k => ?_) _ _)
  dsimp only
  split
  · rfl
  · split
    · split <;> rfl
    · split <;> rfl
    · rfl

@[simp] theorem State.latchReady_slots : (s.latchReady core c l).slots = s.slots := by rw [State.latchReady_frame]
@[simp] theorem State.latchReady_mem : (s.latchReady core c l).mem = s.mem := by rw [State.latchReady_frame]
@[simp] theorem State.latch_latchReady (i d n : Nat) : (s.latchReady core c l).latch i d n = s.latch i d n := by rw [State.latchReady_frame]; rfl

/-- The transfers that slots of a core wait to make are looked at again by events to come. -/
theorem State.wakeRing_frame : s.wakeRing core = { s with agenda := (s.wakeRing core).agenda } := by
  unfold State.wakeRing
  exact State.foldl_agenda_frame (fun s k => by split <;> rfl) _ _

@[simp] theorem State.slot_wakeRing (j : Nat) : (s.wakeRing core).slot j = s.slot j := by rw [State.wakeRing_frame]; rfl
@[simp] theorem State.latch_wakeRing (i d n : Nat) : (s.wakeRing core).latch i d n = s.latch i d n := by rw [State.wakeRing_frame]; rfl

/-- A full shadow is applied to an AWAIT latch that no begun `mma` reads (R178, log 39). -/
theorem State.applyShadow_of_await {e d : List Byte} (hs : (s.latch core c l).shadow = some (e, d)) (ha : (s.latch core c l).state = .await)
    (hr : ∀ j ∈ slotsOf core, (s.slot j).readsLatch c l = false) :
    s.applyShadow core c l = (s.setLatch core c l { state := .valid, elems := e, side := d, shadow := none }).latchReady core c l := by
  have hany : (slotsOf core).any (fun k => (s.slot k).readsLatch c l) = false := by simpa using hr
  simp [State.applyShadow, hs, ha, hany]

/-- Otherwise the shadow stays as it is. -/
theorem State.applyShadow_of_not (h : (s.latch core c l).shadow = none ∨ (s.latch core c l).state ≠ .await) : s.applyShadow core c l = s := by
  unfold State.applyShadow
  dsimp only
  split
  · rfl
  · rename_i hs
    rcases h with h | h
    · exact absurd (hs.symm.trans h) nofun
    · simp [h]

/-! ### Transfers -/

/-- A transfer to a full shadow is not made. -/
theorem State.transfer_of_full (h : (s.latch core c l).shadow.isSome = true) : s.transfer core c l = s := by
  rw [State.transfer, if_pos h]

/-- A transfer into the free shadow of a latch that is not AWAIT copies the sender's latch into it, and the sender goes on. -/
theorem State.transfer_of_sender {j : Nat} (hs : (s.latch core c l).shadow = none) (ha : (s.latch core c l).state ≠ .await)
    (hj : s.slots.find? (fun e => s.ringSender core c l e.1 e.2) = some (j, s.slot j)) {dst : Nat} (hw : (s.slot j).wait = .ring l dst 1 false) :
    s.transfer core c l =
      ((s.setLatch core c l { s.latch core c l with shadow := some ((s.latch (coreOf j) c l).elems, (s.latch (coreOf j) c l).side) }).completeAt
        j).wakeRing (coreOf j) := by
  have hsent (v : Latch) : (s.setLatch core c l v).sent j = (s.setLatch core c l v).completeAt j := by
    rw [State.sent, State.slot_setLatch, hw]
  have hfree : ¬ (s.latch core c l).shadow.isSome = true := by simp [hs]
  rw [State.transfer, if_neg hfree, hj]
  dsimp only
  rw [hsent, State.applyShadow_of_not]
  exact .inr (by simpa using ha)
end

/-- An issued transfer is the slot's wait and the last of its core's port, and its arrival is due. -/
theorem State.ringIssue_spec (s : State) (l dst count : Nat) (pass : Bool) :
    let u := s.ringIssue l dst count pass
    u.sl = { s.sl with wait := .ring l dst count pass } ∧ (∀ j, j ≠ s.cur → u.slot j = s.slot j) ∧ u.mem = s.mem ∧
      (u.core s.curCore).ring.getLast? = some s.cur ∧ .latchTransferArrival dst s.sl.clause.ctx l ∈ u.agenda := by
  refine ⟨?_, fun j hj => ?_, rfl, ?_, ?_⟩
  · exact State.slot_setSlot ..
  · exact State.slot_setSlot_other _ _ _ _ hj
  · simp [State.ringIssue]
  · simp [State.ringIssue]

/-! ### `mring` and `mpass` -/

section
variable {s : State} {k : KOps} {i : Nat} {g : Word} (hr : Ready s [x1 k, x2 k] []) (hm : s.needMember k = .ok (i, g))
include hr hm

/-- `mring` of a member with a count register. -/
theorem exec_mring (h2 : k.rs2 ≠ 0) : exec (.mring k) s = .next (s.settle
    (let c := s.sl.xr k.rs2.toNat
     (require (geoRing g) 0x36 (word (geoId g))).bind fun _ =>
     (require (decide (c.toNat ≤ 4095)) 0x32 c).bind fun _ =>
     if c = 0 then .ok s.complete
     else
       (require ((s.curLatch k.rd.toNat).state != LatchState.empty) 0x34 (word k.rd.toNat)).bind fun _ =>
       if c.toNat ≤ s.sl.kprog.toNat then .ok (s.modCur fun sl => Slot.complete { sl with kprog := 0 })
       else .ok (s.ringIssue k.rd.toNat (s.rankCore i ((geoRank g + 1) % geoSize g)) c.toNat true))) := by
  have hsrc : tileSrcs k = [x1 k, x2 k] := if_neg h2
  change execMring k s = _
  rw [execMring, hsrc, State.run_of_ready _ _ _ hr, hm, Res.bind_ok]
  simp only [if_neg h2]

/-- `mpass` of a member. -/
theorem exec_mpass : exec (.mpass k) s = .next (s.settle
    (let r := s.sl.xr k.rs2.toNat
     (require (decide (r.toNat < geoSize g)) 0x37 r).bind fun _ =>
     if r.toNat = geoRank g then
       .ok ((s.setLatch s.curCore s.sl.clause.ctx k.rd.toNat { s.curLatch k.rd.toNat with state := .await }).applyShadow s.curCore
         s.sl.clause.ctx k.rd.toNat).complete
     else
       (require ((s.curLatch k.rd.toNat).state != LatchState.empty) 0x34 (word k.rd.toNat)).bind fun _ =>
       .ok (s.ringIssue k.rd.toNat (s.rankCore i r.toNat) 1 false))) := by
  change execMpass k s = _
  rw [execMpass, State.run_of_ready _ _ _ hr, hm, Res.bind_ok]
end

end Sys2Proof.Machine

section
open Sys2Proof Sys2Proof.Machine

/-- Settles O6: `mring` and `mpass` are their checks and an issued transfer; a transfer and a shadow's application go by the state of the
latch that they write. -/
theorem ringTransfers : Obligations.RingTransfers := by
  unfold Obligations.RingTransfers
  intro s k i g core c l n r ctx latch
  simp only [exec_shadowApply, exec_latchTransferArrival, Host.Outcome.next.injEq, exists_eq_left']
  have notEmpty (h : latch.state ≠ .empty) : ((s.curLatch n).state != LatchState.empty) = true := bne_iff_ne.2 h
  refine ⟨fun h2 hr hm => ?_, fun hr hm => ?_, fun d count b => s.ringIssue_spec n d count b, fun e d hs ha hread => ?_,
    s.applyShadow_of_not core c l, s.transfer_of_full core c l, fun j dst hs ha hj hw _ => ?_⟩
  · rw [exec_mring hr hm h2]
    dsimp only
    refine ⟨fun hring h0 => ?_, fun hring => ?_, fun hring h0 hle hne hlt => ?_⟩
    · have hle : r.toNat ≤ 4095 := by simp [h0]
      rw [require_pos hring, Res.bind_ok, require_pos (decide_eq_true hle), Res.bind_ok, if_pos h0, State.settle_ok]
    · rw [require_neg hring, Res.bind_trap, State.settle_trap, State.raise_of_ne _ _ (by decide)]
    · rw [require_pos hring, Res.bind_ok, require_pos (decide_eq_true hle), Res.bind_ok, if_neg h0, require_pos (notEmpty hne), Res.bind_ok,
        if_neg (Nat.not_le.2 hlt), State.settle_ok]
  · rw [exec_mpass hr hm]
    dsimp only
    refine ⟨fun hsize => ?_, fun hsize hrank hne => ?_, fun hsize hrank hs => ?_⟩
    · rw [require_neg (decide_eq_false (Nat.not_lt.2 hsize)), Res.bind_trap, State.settle_trap, State.raise_of_ne _ _ (by decide)]
    · rw [require_pos (decide_eq_true hsize), Res.bind_ok, if_neg hrank, require_pos (notEmpty hne), Res.bind_ok, State.settle_ok]
    · rw [require_pos (decide_eq_true hsize), Res.bind_ok, if_pos hrank, State.settle_ok, State.applyShadow_of_not]
      · rfl
      · exact .inl (by rw [State.latch_setLatch]; exact hs)
  · rw [s.applyShadow_of_await core c l hs ha hread]
    simp
  · rw [s.transfer_of_sender core c l hs ha hj hw]
    simp
end
end

section
/-!
Matrix steps (10_matrix.md R177, R180 to R184, R188, 11_memory_access.md R197): what a tile reads after it is written, what a correction and a
trap leave of tiles and operands, the step itself, the integer cell of R183, and the obligation assembled from them.
-/
namespace Sys2Proof.Machine

/-! ### Tiles (R177) -/

theorem cellsFrom_length : ∀ (n k : Nat) (t : Tab (BitVec 32)), (cellsFrom k n t).length = n
  | 0, _, _ => rfl
  | n + 1, k, [] => congrArg (· + 1) (cellsFrom_length n (k + 1) [])
  | n + 1, k, (a, v) :: t => by
    rw [cellsFrom]
    split <;> exact congrArg (· + 1) (cellsFrom_length n (k + 1) _)

@[simp] theorem Core.tile_length (c : Core) (t : Nat) : (c.tile t).length = 1024 := cellsFrom_length ..

/-- A cell whose key a table passes over reads 0. -/
theorem cellsFrom_of_above (k n : Nat) (t : Tab (BitVec 32)) (h : ∀ e ∈ t, k < e.1) : cellsFrom k (n + 1) t = 0 :: cellsFrom (k + 1) n t := by
  cases t with
  | nil => rfl
  | cons e t =>
    obtain ⟨a, v⟩ := e
    have hk : k < a := h (a, v) (List.mem_cons_self ..)
    rw [cellsFrom, if_neg (by omega)]

theorem cellEntries_range : ∀ (cells : List Nat) (k : Nat), ∀ e ∈ cellEntries k cells, k ≤ e.1 ∧ e.1 < k + cells.length := by
  intro cells; induction cells with
  | nil => intro k e he; cases he
  | cons v t ih =>
    intro k e he
    rw [cellEntries] at he
    rw [List.length_cons]
    split at he
    · have := ih _ e he; omega
    · rcases List.mem_cons.mp he with rfl | he
      · simp
      · have := ih _ e he; omega

/-- The entries of cells read as those cells, whatever follows them above. -/
theorem cellsFrom_cellEntries (rest : Tab (BitVec 32)) : ∀ (cells : List Nat) (k : Nat), (∀ e ∈ rest, k + cells.length ≤ e.1) →
    cellsFrom k cells.length (cellEntries k cells ++ rest) = cells.map (· % 2 ^ 32) := by
  intro cells; induction cells with
  | nil => intros; rfl
  | cons v t ih =>
    intro k hrest
    have hrest' : ∀ e ∈ rest, k + 1 + t.length ≤ e.1 := fun e he => by have := hrest e he; rw [List.length_cons] at this; omega
    rw [List.length_cons, List.map_cons, ← ih (k + 1) hrest', cellEntries]
    split
    · rename_i hv
      rw [cellsFrom_of_above, hv]
      intro e he
      rcases List.mem_append.mp he with he | he
      · exact (cellEntries_range t (k + 1) e he).1
      · have := hrest' e he; omega
    · rw [List.cons_append, cellsFrom, if_pos rfl, BitVec.toNat_ofNat]

/-- A tile that is written reads as its cells, each modulo 2^32. -/
theorem Core.tile_setTile_same (c : Core) (t : Nat) (cells : List Nat) (h : cells.length = 1024) :
    (c.setTile t cells).tile t = cells.map (· % 2 ^ 32) := by
  have hmid : ∀ e ∈ cellEntries (t * 1024) cells, decide (t * 1024 ≤ e.1) = true := fun e he =>
    decide_eq_true (cellEntries_range cells _ e he).1
  have habove : ∀ e ∈ c.acc.filter (fun e => decide ((t + 1) * 1024 ≤ e.1)), t * 1024 + cells.length ≤ e.1 := fun e he => by
    have : (t + 1) * 1024 ≤ e.1 := by simpa using (List.mem_filter.mp he).2
    omega
  have hbelow : (c.acc.filter fun e => decide (e.1 < t * 1024)).filter (fun e => decide (t * 1024 ≤ e.1)) = [] := by
    rw [List.filter_filter, List.filter_eq_nil_iff]
    intro e _
    simp only [Bool.and_eq_true, decide_eq_true_eq]
    omega
  have hrest : (c.acc.filter fun e => decide ((t + 1) * 1024 ≤ e.1)).filter (fun e => decide (t * 1024 ≤ e.1)) =
      c.acc.filter fun e => decide ((t + 1) * 1024 ≤ e.1) :=
    List.filter_eq_self.2 fun e he => decide_eq_true (Nat.le_trans (Nat.le_add_right ..) (habove e he))
  have hread := cellsFrom_cellEntries _ cells (t * 1024) habove
  rw [h] at hread
  rw [Core.tile, Core.setTile]
  simp only [List.filter_append, hbelow, hrest, List.nil_append, List.take_of_length_le (Nat.le_of_eq h), List.filter_eq_self.2 hmid]
  exact hread

/-! ### The cells of a step (R181 to R183) -/

theorem stepRow_length {α : Type} (f : Nat → α → α → Nat × Flags) (a : α) : ∀ (cells : List Nat) (cols : List α), cells.length = cols.length →
    (stepRow f a cells cols).length = cols.length
  | [], [], _ => rfl
  | _ :: cs, _ :: bs, h => congrArg (· + 1) (stepRow_length f a cs bs (Nat.succ.inj h))

theorem stepTile_length {α : Type} (f : Nat → α → α → Nat × Flags) (cols : List α) (hc : cols.length = 32) : ∀ (rows : List α) (cells : List Nat),
    cells.length = 32 * rows.length → (stepTile f cells cols rows).length = 32 * rows.length := by
  intro rows; induction rows with
  | nil => intros; rfl
  | cons a t ih =>
    intro cells h
    rw [List.length_cons] at h ⊢
    rw [stepTile, List.length_append, stepRow_length _ _ _ _ (by rw [List.length_take, hc]; omega), ih _ (by rw [List.length_drop]; omega), hc]
    omega

@[simp] theorem codeRows_length (code kk : Nat) (elems : List Byte) : (codeRows code kk elems).length = 32 := by simp [codeRows]

@[simp] theorem valueRows_length (p : BitVec 17) (code g kk : Nat) (elems side : List Byte) : (valueRows p code g kk elems side).length = 32 := by
  simp [valueRows]

/-- A step gives every cell of its tile a value. -/
theorem matrixStep_length (p : BitVec 17) (cells : List Nat) (elemsA sideA elemsB sideB : List Byte) (h : cells.length = 1024) :
    (matrixStep p cells elemsA sideA elemsB sideB).length = 1024 := by
  unfold matrixStep
  dsimp only
  split
  · rw [stepTile_length _ _ (by simp) _ _ (by simp [h])]; simp
  · rw [stepTile_length _ _ (by simp) _ _ (by simp [h])]; simp

/-! ### An integer cell (R183) -/

theorem natCast_lowBits (v : Int) (n : Nat) : (lowBits v n : Int) = v % 2 ^ n := by
  have hn : ((2 ^ n : Nat) : Int) ≠ 0 := Int.natCast_ne_zero.2 (Nat.ne_of_gt (Nat.two_pow_pos n))
  rw [lowBits, Int.toNat_of_nonneg (Int.emod_nonneg _ hn), Int.natCast_pow]
  rfl

/-- A cell as a number in two's complement. -/
theorem sext_cell {cell : Nat} (h : cell < 2 ^ 32) : sext cell 32 = if cell < 2 ^ 31 then (cell : Int) else (cell : Int) - 2 ^ 32 := by
  have hall : bitsOf cell 0 32 = cell := by rw [bitsOf, Nat.pow_zero, Nat.div_one, Nat.mod_eq_of_lt h]
  have htop : bitOf cell 31 = decide (2 ^ 31 ≤ cell) := by
    rw [bitOf]
    by_cases hc : 2 ^ 31 ≤ cell
    · rw [decide_eq_true hc, beq_iff_eq]; omega
    · rw [decide_eq_false hc, beq_eq_false_iff_ne]; omega
  rw [sext, hall]
  by_cases hc : cell < 2 ^ 31
  · rw [if_pos hc, if_neg (by rw [htop]; simpa using hc)]
  · rw [if_neg hc, if_pos (by rw [htop]; simpa using hc)]

/-- The sum of products that a step forms is that over the positions of its rows. -/
theorem intProducts_eq_sum : ∀ (n : Nat) (a b : List Int), a.length = n → b.length = n →
    intProducts a b = ((List.range n).map fun i => a.getD i 0 * b.getD i 0).sum := by
  intro n; induction n with
  | zero => intro a b ha hb; rw [List.length_eq_zero_iff.1 ha]; rfl
  | succ n ih =>
    intro a b ha hb
    obtain ⟨x, a, rfl⟩ := List.exists_cons_of_length_eq_add_one ha
    obtain ⟨y, b, rfl⟩ := List.exists_cons_of_length_eq_add_one hb
    rw [intProducts, ih a b (Nat.succ.inj ha) (Nat.succ.inj hb), List.range_succ_eq_map, List.map_cons, List.sum_cons, List.map_map]
    rfl

/-! ### What a correction leaves -/

theorem xorGroups_lt (a w : Nat) : ∀ n i, xorGroups a w i n < 2 ^ w := by
  intro n; induction n with
  | zero => intro i; exact Nat.two_pow_pos w
  | succ n ih => intro i; exact Nat.xor_lt_two_pow (bitsOf_lt ..) (ih _)

theorem stackOf_lt {p : Nat} (a : Nat) (h : p < 16) : stackOf p a < 64 := by
  have h4 := xorGroups_lt a 4 9 2
  have h2 := xorGroups_lt a 2 16 6
  have h2' := xorGroups_lt a 2 15 7
  unfold stackOf
  split
  · omega
  · split <;> omega

theorem lineIndex_lt (shape a : Nat) : lineIndex shape a < 256 := by
  have h1 := bitsOf_lt a 12 4
  have h2 := bitsOf_lt a 6 2
  have h3 := bitsOf_lt a 6 6
  have h4 := bitsOf_lt a 14 2
  unfold lineIndex
  split
  · omega
  · split <;> omega

/-- The media lie below the operand stores in the address space of memory. -/
theorem mediaOfEntry_lt (e a : Nat) : mediaOfEntry e a < 2 ^ 45 := by
  have hf : dpitFrame e < 2 ^ 28 := bitsOf_lt e 0 28
  have hshape : dpitShape e < 16 := bitsOf_lt e 52 4
  have hs := stackOf_lt a hshape
  have hj := lineIndex_lt (dpitShape e) a
  unfold mediaOfEntry cxlAddr hbmAddr
  split
  · omega
  · dsimp only; omega

theorem State.media_lt {s : State} {a m : Nat} (h : s.media a = some m) : m < 2 ^ 45 := by
  unfold State.media at h
  dsimp only at h
  split at h
  · rw [← Option.some.inj h]; exact mediaOfEntry_lt ..
  · exact nomatch h

/-- Near memory, and with it every operand store, lies above the media, and a write of the device leaves it. -/
theorem State.memRead_devWrite_near (s : State) (a : Nat) (bs : List Byte) {b : Nat} (hb : 2 ^ 45 ≤ b) :
    memRead (s.devWrite a bs).mem b = memRead s.mem b := by
  have hput : ∀ (bs : List Byte) (t : State) (a : Nat), memRead (t.devPut a bs).mem b = memRead t.mem b := by
    intro bs; induction bs with
    | nil => intros; rfl
    | cons x bs ih =>
      intro t a
      rw [State.devPut, ih]
      cases hm : t.media a with
      | none => rfl
      | some m =>
        have hlt := State.media_lt hm
        dsimp only
        split
        · rfl
        · exact memRead_memWrite_other _ _ _ _ (by omega)
  rw [State.devWrite, hput, State.clearWhole_frame]

theorem State.memRead_ringWrite_near (s : State) (ga : Word) (ws : List Word) {b : Nat} (hb : 2 ^ 45 ≤ b) :
    memRead (s.ringWrite ga ws).mem b = memRead s.mem b := by
  unfold State.ringWrite
  dsimp only
  split
  · exact s.memRead_devWrite_near _ _ hb
  · split <;> rfl

theorem State.memRead_machineCheck_near (s : State) (r : McRecord) {b : Nat} (hb : 2 ^ 45 ≤ b) :
    memRead (s.machineCheck r).mem b = memRead s.mem b := by
  unfold State.machineCheck State.ringPut
  dsimp only
  split
  · rename_i h
    split at h
    · exact nomatch h
    · split at h
      · exact nomatch h
      · rw [← (Prod.mk.inj (Option.some.inj h)).1]
        exact s.memRead_ringWrite_near _ _ hb
  · rfl

/-- Two states hold the same slots, tiles and near memory. -/
structure State.SameOperands (s t : State) : Prop where
  slots : t.slots = s.slots
  tile : ∀ core j, (t.core core).tile j = (s.core core).tile j
  near : ∀ b, 2 ^ 45 ≤ b → memRead t.mem b = memRead s.mem b

theorem State.SameOperands.refl (s : State) : s.SameOperands s := ⟨rfl, fun _ _ => rfl, fun _ _ => rfl⟩

theorem State.SameOperands.trans {s t u : State} (h : s.SameOperands t) (k : t.SameOperands u) : s.SameOperands u :=
  ⟨k.slots.trans h.slots, fun core j => (k.tile core j).trans (h.tile core j), fun b hb => (k.near b hb).trans (h.near b hb)⟩

theorem State.SameOperands.slot {s t : State} (h : s.SameOperands t) (k : Nat) : t.slot k = s.slot k := congrArg (fun t : Tab Slot => t.get k {}) h.slots

/-- Bytes of an operand store are as they were. -/
theorem State.SameOperands.bytes {s t : State} (h : s.SameOperands t) (core off n : Nat) :
    t.bytes (operandAddr core off) n = s.bytes (operandAddr core off) n :=
  memBytes_congr _ _ _ _ fun i _ => h.near _ (by unfold operandAddr; omega)

theorem State.tile_modCore_of_acc (s : State) (k : Nat) (f : Core → Core) (hf : ∀ c, (f c).acc = c.acc) (core j : Nat) :
    ((s.modCore k f).core core).tile j = (s.core core).tile j := by
  by_cases h : core = k
  · subst h; rw [State.core_modCore, Core.tile, Core.tile, hf]
  · rw [State.core_modCore_other _ _ _ _ h]

theorem State.sameOperands_machineCheck (s : State) (r : McRecord) : s.SameOperands (s.machineCheck r) where
  slots := by rw [State.machineCheck_frame]
  tile core j := by rw [State.machineCheck_frame]; rfl
  near b hb := s.memRead_machineCheck_near r hb

theorem State.sameOperands_modCore (s : State) (k : Nat) (f : Core → Core) (hf : ∀ c, (f c).acc = c.acc) : s.SameOperands (s.modCore k f) :=
  ⟨rfl, s.tile_modCore_of_acc k f hf, fun _ _ => rfl⟩

theorem State.sameOperands_modCluster (s : State) (k : Nat) (f : Cluster → Cluster) : s.SameOperands (s.modCluster k f) :=
  ⟨rfl, fun _ _ => rfl, fun _ _ => rfl⟩

/-- A corrected word is counted. -/
theorem State.sameOperands_countNear (s : State) (w : Nat) : s.SameOperands (s.countNear w) := by
  have record (t : State) (ht : s.SameOperands t) (c : Prop) [Decidable c] (r : McRecord) : s.SameOperands (if c then t.machineCheck r else t) := by
    split
    · exact ht.trans (t.sameOperands_machineCheck r)
    · exact ht
  unfold State.countNear
  dsimp only
  split
  · refine record _ ?_ _ _
    exact s.sameOperands_modCore _ _ fun _ => rfl
  · refine record _ ?_ _ _
    exact s.sameOperands_modCluster _ _

/-- A correction changes nothing that a program sees (R197). -/
theorem State.sameOperands_correct (s : State) (a n : Nat) : s.SameOperands (s.correct a n) := by
  have count : ∀ (ws : List Nat) (t : State), t.SameOperands (ws.foldl State.countNear t) := by
    intro ws; induction ws with
    | nil => exact State.SameOperands.refl
    | cons w ws ih => exact fun t => (t.sameOperands_countNear w).trans (ih _)
  have clear (ws : List Nat) : s.SameOperands { s with nearWeak := ws } := ⟨rfl, fun _ _ => rfl, fun _ _ => rfl⟩
  unfold State.correct
  dsimp only
  split
  · exact State.SameOperands.refl s
  · exact (clear _).trans (count _ _)

theorem State.correct_of_no_weak (s : State) (a n : Nat) (h : s.nearWeak = []) : s.correct a n = s := by simp [State.correct, h]

/-! ### What a trap leaves (R97) -/

/-- The save of a pre-empted context is looked at by an event to come. -/
theorem State.wakeSave_frame (s : State) (core c : Nat) : s.wakeSave core c = { s with agenda := (s.wakeSave core c).agenda } := by
  unfold State.wakeSave
  split <;> rfl

/-- A slot that freezes for a trap leaves every core as it was. -/
theorem State.freezeAt_cores (s : State) (k cause : Nat) (a : Word) : (s.freezeAt k cause a).cores = s.cores := by
  have hdrop (t : State) : (t.dropHeld k).cores = t.cores := by unfold State.dropHeld; dsimp only; split <;> rfl
  have hleave : (s.leaveStreams k).cores = s.cores := by unfold State.leaveStreams; split <;> rfl
  rw [State.freezeAt, State.wakeSave_frame, State.traceRecord_frame, State.boundary_frame]
  exact (hdrop _).trans hleave

/-- Where a report goes changes no tile. -/
theorem State.tile_sendReport (s : State) (k cause : Nat) (b : Bool) (p : List Word) (core j : Nat) :
    ((s.sendReport k cause b p).core core).tile j = (s.core core).tile j := by
  have hring (t : State) : (t.reportToRing k p).core core = t.core core := by
    unfold State.reportToRing State.trapRingWrite
    dsimp only
    split
    · rfl
    · rw [State.core_modHub, State.core, State.ringWrite_cores, State.core]
  unfold State.sendReport
  dsimp only
  split
  · rfl
  · rw [hring]
    split
    · rw [State.modCtx, State.setCtx]
      refine s.tile_modCore_of_acc _ _ ?_ core j
      exact fun _ => rfl
    · rfl

theorem State.tile_trapAt (s : State) (k cause : Nat) (a : Word) (b : Bool) (core j : Nat) :
    ((s.trapAt k cause a b).core core).tile j = (s.core core).tile j := by
  rw [State.trapAt, State.tile_sendReport, State.core, State.freezeAt_cores, State.core]

/-- A trap keeps the progress of the instruction. -/
theorem State.kprog_trapAt (s : State) (k cause : Nat) (a : Word) (b : Bool) : ((s.trapAt k cause a b).slot k).kprog = (s.slot k).kprog := by
  obtain ⟨r, hr⟩ := (s.freezeAt k cause a).sendReport_slot k cause b (((s.slot k).frozenWith cause a).report k)
  rw [State.trapAt, hr, State.freezeAt, State.wakeSave_frame, State.traceRecord_frame]
  change (((State.setSlot _ k _).boundary k).slot k).kprog = _
  rw [State.boundary_slot, if_pos rfl, State.slot_setSlot]
  rfl

/-! ### A step of an accepted `mma` (R188) -/

theorem exec_mmaStep (k : Nat) (s : State) : exec (.mmaStep k) s = .next (s.mmaStep k) := rfl

/-- The offset in the operand store of the A tile of a slot's next step (R180). -/
def State.stepOffset (s : State) (k a : Nat) (p : BitVec 17) : Nat := a + (s.slot k).kprog.toNat * tileStride p

/-- The cells and flags of a slot's next step: its A tile by its latch into its tile. -/
def State.stepResult (s : State) (k tile a l : Nat) (p : BitVec 17) : List (Nat × Flags) :=
  let t := s.latch (coreOf k) (s.slot k).clause.ctx l
  matrixStep p ((s.core (coreOf k)).tile (tile + (s.slot k).kprog.toNat)) (s.bytes (operandAddr (coreOf k) (s.stepOffset k a p)) 2048)
    (if payScale p = 0 then [] else s.bytes (operandAddr (coreOf k) (s.stepOffset k a p + 2048)) 512) t.elems t.side

/-- The slot of an `mma` after a step with the given flags. -/
def Slot.stepped (sl : Slot) (flags : BitVec 5) (tile a l count : Nat) (p : BitVec 17) : Slot :=
  { sl.raise flags with kprog := word (sl.kprog.toNat + 1), wait := .mma tile a l count p true }

section
variable {s : State} {k tile a l count : Nat} {p : BitVec 17} {begun : Bool}

/-- The first step waits for its latch. -/
theorem State.mmaStep_of_not_valid (hw : (s.slot k).wait = .mma tile a l count p begun) (hs : s.stopped k = false) (hb : begun = false)
    (hv : (s.latch (coreOf k) (s.slot k).clause.ctx l).state ≠ .valid) : s.mmaStep k = s := by
  simp [State.mmaStep, hw, hs, hb, hv]

/-- A step is due where the steps have begun, or where the latch is VALID and no side words are checked. -/
theorem State.mmaStep_of_due (hw : (s.slot k).wait = .mma tile a l count p begun) (hs : s.stopped k = false)
    (h : begun = true ∨ ((s.latch (coreOf k) (s.slot k).clause.ctx l).state = .valid ∧ payScale p ≠ 2)) :
    s.mmaStep k = s.mmaGo k tile a l count p := by
  rcases h with hb | ⟨hv, hp⟩
  · simp [State.mmaStep, hw, hs, hb]
  · cases begun <;> simp [State.mmaStep, hw, hs, hv, hp]

/-- After the last step the instruction completes. -/
theorem State.mmaGo_of_done (h : count ≤ (s.slot k).kprog.toNat) : s.mmaGo k tile a l count p =
    (s.modSlot k fun sl => Slot.complete { sl with kprog := 0 }).post (.shadowApply (coreOf k) (s.slot k).clause.ctx l) := by
  rw [State.mmaGo, if_pos h]

section
variable (h : (s.slot k).kprog.toNat < count)
include h

/-- A step that fails its residue check raises 0x39 with its number. -/
theorem State.mmaGo_of_badArray (hb : (s.core (coreOf k)).badArray = true) : s.mmaGo k tile a l count p =
    ((s.modCore (coreOf k) fun c => { c with badArray := false }).trapAt k 0x39 (word (s.slot k).kprog.toNat)).post
      (.shadowApply (coreOf k) (s.slot k).clause.ctx l) := by
  rw [State.mmaGo, if_neg (Nat.not_le.2 h), if_pos hb]

variable (hb : (s.core (coreOf k)).badArray = false)
include hb

/-- A step whose A tile holds an uncorrectable word raises 0x5B (R197). -/
theorem State.mmaGo_of_nearError (he : (s.nearError (.operand (operandAddr (coreOf k) (s.stepOffset k a p))) (tileStride p)).isSome = true) :
    s.mmaGo k tile a l count p = (s.trapAt k 0x5B (word (0xF * 2 ^ 44 + s.stepOffset k a p))).post
      (.shadowApply (coreOf k) (s.slot k).clause.ctx l) := by
  rw [State.mmaGo, if_neg (Nat.not_le.2 h), if_neg (by simp [hb])]
  exact if_pos he

/-- Any other step writes its tile, accrues its flags and makes the next one due. -/
theorem State.mmaGo_of_step (he : s.nearError (.operand (operandAddr (coreOf k) (s.stepOffset k a p))) (tileStride p) = none) :
    s.mmaGo k tile a l count p =
      (((s.correct (operandAddr (coreOf k) (s.stepOffset k a p)) (tileStride p)).modCore (coreOf k)
        fun c => c.setTile (tile + (s.slot k).kprog.toNat) ((s.stepResult k tile a l p).map fun x => x.1)).setSlot k
        ((s.slot k).stepped (joinFlags (s.stepResult k tile a l p)) tile a l count p)).post (.mmaStep k) := by
  have same := s.sameOperands_correct (operandAddr (coreOf k) (s.stepOffset k a p)) (tileStride p)
  have hno : ¬ (s.nearError (.operand (operandAddr (coreOf k) (s.stepOffset k a p))) (tileStride p)).isSome = true := by simp [he]
  rw [State.mmaGo, if_neg (Nat.not_le.2 h), if_neg (by simp [hb])]
  refine (if_neg hno).trans ?_
  dsimp only
  rw [← State.stepOffset, same.tile, same.bytes, same.bytes, State.modSlot, State.slot_modCore, same.slot]
  rfl

/-- What such a step leaves in its tile, its slot, memory and the events due. -/
theorem State.mmaGo_of_step_spec (he : s.nearError (.operand (operandAddr (coreOf k) (s.stepOffset k a p))) (tileStride p) = none) :
    let u := s.mmaGo k tile a l count p
    (u.core (coreOf k)).tile (tile + (s.slot k).kprog.toNat) = (s.stepResult k tile a l p).map (fun x => x.1 % 2 ^ 32) ∧
      u.slot k = (s.slot k).stepped (joinFlags (s.stepResult k tile a l p)) tile a l count p ∧
      (s.nearWeak = [] → u.mem = s.mem ∧ u.agenda = s.agenda ++ [.mmaStep k]) := by
  have hlen : ((s.stepResult k tile a l p).map fun x => x.1).length = 1024 := by
    rw [List.length_map]
    exact matrixStep_length _ _ _ _ _ _ (Core.tile_length ..)
  dsimp only
  rw [State.mmaGo_of_step h hb he]
  refine ⟨?_, State.slot_setSlot .., fun hn => ?_⟩
  · rw [State.core_post, State.core_setSlot, State.core_modCore, Core.tile_setTile_same _ _ _ hlen, List.map_map]
    rfl
  · rw [State.correct_of_no_weak _ _ _ hn]
    exact ⟨rfl, rfl⟩
end
end

end Sys2Proof.Machine

section
open Sys2Proof Sys2Proof.Machine

theorem matrixStepsAccumulate : Claim.MatrixStepsAccumulate := by
  unfold Claim.MatrixStepsAccumulate
  intro s k tile a l count p begun sl core i t off r hw hs
  simp only [exec_mmaStep, Host.Outcome.next.injEq, exists_eq_left']
  refine ⟨fun hb hv => State.mmaStep_of_not_valid hw hs hb hv, fun hd hi hb => ?_, fun hd hi hb he => ?_, fun hd hi hb he => ?_, fun hd hi => ?_⟩
  · rw [State.mmaStep_of_due hw hs hd, State.mmaGo_of_badArray hi hb, State.slot_post, State.core_post, State.kprog_trapAt]
    obtain ⟨hphase, hcause, haddr⟩ := State.trapAt_slot (s.modCore core fun c => { c with badArray := false }) k 0x39 (word i) false
    refine ⟨hphase, hcause, haddr, by rw [State.slot_modCore], fun j => ?_⟩
    rw [State.tile_trapAt]
    refine s.tile_modCore_of_acc _ _ ?_ core j
    exact fun _ => rfl
  · rw [State.mmaStep_of_due hw hs hd]
    obtain ⟨htile, hslot, hmem⟩ := State.mmaGo_of_step_spec hi hb he
    rw [hslot]
    exact ⟨htile, rfl, rfl, rfl, hmem⟩
  · rw [State.mmaStep_of_due hw hs hd, State.mmaGo_of_nearError hi hb he, State.slot_post]
    exact State.trapAt_slot ..
  · rw [State.mmaStep_of_due hw hs hd, State.mmaGo_of_done hi]

theorem integerStepIsTheExactSum : Claim.IntegerStepIsTheExactSum := by
  unfold Claim.IntegerStepIsTheExactSum
  intro cell a b n ha hb hcell sum
  have hsum : sext cell 32 + intProducts a b = sum := by rw [sext_cell hcell, intProducts_eq_sum n a b ha hb]
  simp only [intStep, hsum, if_true, Bool.false_eq_true, if_false]
  refine ⟨⟨natCast_lowBits .., trivial⟩, fun hlo hhi => ?_, fun hhi => ?_, fun hlo => ?_⟩
  · rw [if_neg (Int.not_lt.2 hlo), if_neg (by omega)]
    exact ⟨natCast_lowBits .., rfl⟩
  · rw [if_neg (by omega), if_pos (by omega)]
  · rw [if_pos hlo]
    rfl

/-- Settles O42: an event of an accepted `mma` is one of the cases of `State.mmaGo`, and an integer cell takes the sum of its products. -/
theorem matrixSteps : Obligations.MatrixSteps := ⟨matrixStepsAccumulate, integerStepIsTheExactSum⟩
end
end

section
/-!
Memory (00_scope.md R3, 11_memory_access.md R195): what a masked write leaves at each byte, and the obligation assembled from it.
-/
namespace Sys2Proof.Machine

/-- A byte of a write whose mask bit is set is read back. -/
theorem memRead_memWriteMasked_same (bs : List Byte) : ∀ (m : List Host.Cell) (a mask i : Nat), Memory.wf m = true → i < bs.length →
    bitOf mask i = true → memRead (memWriteMasked m a mask bs) (a + i) = bs.getD i 0 := by
  induction bs with
  | nil => intro m a mask i _ h; exact absurd h (Nat.not_lt_zero i)
  | cons x t ih =>
    intro m a mask i hm hi hb
    rw [memWriteMasked]
    cases i with
    | zero =>
      have hodd : mask % 2 = 1 := by simpa [bitOf] using hb
      rw [memRead_memWriteMasked_other _ _ _ _ _ (Or.inl (by omega)), if_pos hodd]
      exact Memory.read_write _ _ _ hm
    | succ i =>
      have hwf : Memory.wf (if mask % 2 = 1 then memWrite m a x else m) = true := by
        split
        · exact Memory.wf_memWrite _ _ _ hm
        · exact hm
      rw [bitOf_eq_testBit, Nat.testBit_succ, ← bitOf_eq_testBit] at hb
      rw [show a + (i + 1) = a + 1 + i by omega, ih _ _ _ _ hwf (Nat.lt_of_succ_lt_succ hi) hb, List.getD_cons_succ]

/-- Each byte after a masked write: the one written where the mask is set, and the one before elsewhere. -/
theorem memRead_memWriteMasked (m : List Host.Cell) (a mask b : Nat) (bs : List Byte) (hm : Memory.wf m = true) :
    memRead (memWriteMasked m a mask bs) b =
      if a ≤ b ∧ b < a + bs.length ∧ bitOf mask (b - a) = true then bs.getD (b - a) 0 else memRead m b := by
  split
  next h =>
    obtain ⟨hlo, hhi, hbit⟩ := h
    have := memRead_memWriteMasked_same bs m a mask (b - a) hm (by omega) hbit
    rwa [Nat.add_sub_cancel' hlo] at this
  next h =>
    refine memRead_memWriteMasked_other bs m a mask b ?_
    by_cases hlo : a ≤ b
    · by_cases hhi : b < a + bs.length
      · exact .inr (.inr (eq_false_of_ne_true fun hbit => h ⟨hlo, hhi, hbit⟩))
      · exact .inr (.inl (Nat.le_of_not_lt hhi))
    · exact .inl (Nat.lt_of_not_le hlo)

end Sys2Proof.Machine

section
open Sys2Proof Sys2Proof.Machine

/-- Settles O3: whole and masked writes are inductions over the bytes written, one byte at a time. -/
theorem memoryReadsWhatWasWritten : Obligations.MemoryReadsWhatWasWritten := by
  unfold Obligations.MemoryReadsWhatWasWritten
  intro m a bs hm
  exact ⟨memBytes_memWriteBytes m a bs hm, fun b => memRead_memWriteBytes_other bs m a b, Memory.wf_memWriteBytes bs m a hm,
    fun mask => ⟨Memory.wf_memWriteMasked bs m a mask hm, fun b => memRead_memWriteMasked m a mask b bs hm⟩⟩
end
end

section
/-!
`waitv`, `gpf`, `mhint` and `mqry` at the core (11_memory_access.md R213, R215, 12_main_memory.md R240): what each does once its operands are
ready, and the obligation assembled from it.
-/
namespace Sys2Proof.Machine

section
variable {s : State} {k : KOps}

/-! ### `waitv` (R213) -/

section
variable (hr : Ready s [x1 k, x2 k] [toX k]) (ha : (s.sl.xr k.rs1.toNat).toNat % 8 = 0)
include hr ha

/-- A `waitv` on a near word raises 0x5D. -/
theorem exec_waitv_of_near {t : Near} (ht : s.access s.cur .read (s.sl.xr k.rs1.toNat) 8 = .ok (.near t)) :
    exec (.waitv k) s = .next (s.trap 0x5D (s.sl.xr k.rs1.toNat)) := by
  change execWaitv k s = _
  rw [execWaitv, State.run_of_ready _ _ _ hr, require_pos (beq_of_eq ha), Res.bind_ok, ht, Res.bind_ok]
  exact congrArg _ (s.raise_of_ne _ (by decide))

/-- A `waitv` on a far word suspends its clause as far as the clause may leave. -/
theorem exec_waitv_of_far (hu : Unfenced s) {ga : Word} {unit leaf : Nat} {chip : BitVec 20}
    (ht : s.access s.cur .read (s.sl.xr k.rs1.toNat) 8 = .ok (.far ga unit chip leaf)) :
    let a := s.sl.xr k.rs1.toNat
    exec (.waitv k) s = .next (s.settle ((s.touched a).suspend (.waitv k.rd.toNat a (k.w == 1) ga unit chip (s.sl.xr k.rs2.toNat)))) := by
  change execWaitv k s = _
  rw [execWaitv, State.run_of_ready _ _ _ hr, require_pos (beq_of_eq ha), Res.bind_ok, ht, Res.bind_ok]
  simp only [State.ordered_unfenced _ _ _ hu]
end

/-! ### `gpf` and `mhint`: requests without an answer (R215, R240) -/

section
variable (hr : Ready s [x1 k, x2 k] []) (ha : fld (s.sl.xr k.rs1.toNat) 48 16 = 0) (hn : isNear (s.sl.xr k.rs1.toNat).toNat = false)
include hr

/-- A hint that is none of the three raises 0x62. -/
theorem exec_mhint_of_reserved (h : 3 ≤ (s.sl.xr k.rs2.toNat).toNat) : exec (.mhint k) s = .next (s.trap 0x62 (s.sl.xr k.rs2.toNat)) := by
  change execMhint k s = _
  rw [execMhint, State.run_of_ready _ _ _ hr, require_neg (decide_eq_false (Nat.not_lt.2 h)), Res.bind_trap, State.settle_trap,
    State.raise_of_ne _ _ (by decide)]

include ha hn

/-- A prefetch of no line completes at once. -/
theorem exec_gpf_of_none (h : least 64 (s.sl.xr k.rs2.toNat).toNat = 0) : exec (.gpf k) s = .next s.complete := by
  change execGpf k s = _
  rw [execGpf, State.run_of_ready _ _ _ hr, require_pos (beq_of_eq ha), Res.bind_ok, hn, h]
  rfl

/-- A prefetch sends one request, for the lines of its count that its page has left. -/
theorem exec_gpf_of_far (h : least 64 (s.sl.xr k.rs2.toNat).toNat ≠ 0) (hu : Unfenced s) {ga : Word} {unit leaf : Nat} {chip : BitVec 20}
    (ht : s.access s.cur .read (s.sl.xr k.rs1.toNat) 1 = .ok (.far ga unit chip leaf)) :
    let a := s.sl.xr k.rs1.toNat
    exec (.gpf k) s = .next (((s.touched a).sendLoose 0x24 unit chip
      [lineOf ga, word (least (least 64 (s.sl.xr k.rs2.toNat).toNat) (s.linesLeft a.toNat))]).complete) := by
  change execGpf k s = _
  rw [execGpf, State.run_of_ready _ _ _ hr, require_pos (beq_of_eq ha), Res.bind_ok]
  simp only [hn, h, ht, Bool.false_eq_true, if_false, State.ordered_unfenced _ _ _ hu, State.settle_ok]

/-- A prefetch whose translation fails is dropped. -/
theorem exec_gpf_of_fail (ht : ∀ t, s.access s.cur .read (s.sl.xr k.rs1.toNat) 1 ≠ .ok t) (h : least 64 (s.sl.xr k.rs2.toNat).toNat ≠ 0) :
    exec (.gpf k) s = .next s.complete := by
  change execGpf k s = _
  rw [execGpf, State.run_of_ready _ _ _ hr, require_pos (beq_of_eq ha), Res.bind_ok]
  simp only [hn, h, Bool.false_eq_true, if_false]
  split
  next hok => exact absurd hok (ht _)
  next => rfl

/-- A hint sends one request. -/
theorem exec_mhint_of_far (h : (s.sl.xr k.rs2.toNat).toNat < 3) {ga : Word} {unit leaf : Nat} {chip : BitVec 20}
    (ht : s.translate s.cur (s.sl.xr k.rs1.toNat) = .ok (ga, unit, chip, leaf)) :
    exec (.mhint k) s = .next (((s.touched (s.sl.xr k.rs1.toNat)).sendLoose 0x3C unit chip [ga, s.sl.xr k.rs2.toNat]).complete) := by
  change execMhint k s = _
  rw [execMhint, State.run_of_ready _ _ _ hr, require_pos (decide_eq_true h), Res.bind_ok, require_pos (beq_of_eq ha), Res.bind_ok]
  simp only [hn, ht, Bool.false_eq_true, if_false, State.settle_ok]
end

/-! ### `mqry` (R240) -/

section
variable (hr : Ready s [x1 k] [toX k]) (ha : fld (s.sl.xr k.rs1.toNat) 48 16 = 0)
include hr ha

/-- A query of a near address answers 0. -/
theorem exec_mqry_of_near (hn : isNear (s.sl.xr k.rs1.toNat).toNat = true) : exec (.mqry k) s = .next (s.finishX k.rd.toNat 0) := by
  change execMqry k s = _
  rw [execMqry, State.run_of_ready _ _ _ hr, require_pos (beq_of_eq ha), Res.bind_ok, if_pos hn, State.settle_ok]

/-- A query of a far address asks the address's home, and leaves its destination empty. -/
theorem exec_mqry_of_far (hn : isNear (s.sl.xr k.rs1.toNat).toNat = false) (hu : Unfenced s) (hroom : s.sl.farRoom 1 = true)
    {ga : Word} {unit leaf : Nat} {chip : BitVec 20} (ht : s.access s.cur .read (s.sl.xr k.rs1.toNat) 1 = .ok (.far ga unit chip leaf)) :
    let a := s.sl.xr k.rs1.toNat
    exec (.mqry k) s = .next (((s.touched a).sendFar s.cur 0x3D unit chip a ga (.fillX k.rd.toNat 8 1 false) 1 [ga, 0]).modCur
      fun sl => (sl.emptyRegs false k.rd.toNat 1).complete) := by
  change execMqry k s = _
  rw [execMqry, State.run_of_ready _ _ _ hr, require_pos (beq_of_eq ha), Res.bind_ok]
  simp only [hn, ht, Bool.false_eq_true, if_false, Res.bind_ok, State.ordered_unfenced _ _ _ hu, stallUnless_pos hroom, State.settle_ok]
end
end

end Sys2Proof.Machine

section
open Sys2Proof Sys2Proof.Machine

/-- Settles O5: each clause is what one instruction does where its common checks pass. -/
theorem waitPrefetchHintQuery : Obligations.WaitPrefetchHintQuery := by
  unfold Obligations.WaitPrefetchHintQuery
  intro s k ga unit chip leaf a b n ha
  refine ⟨fun hr hu hal => ⟨fun t ht => exec_waitv_of_near hr hal ht, fun t ht hs => ?_⟩, fun hr hn => ⟨exec_gpf_of_none hr ha hn,
    fun h hu ht => exec_gpf_of_far hr ha hn h hu ht, fun h ht => exec_gpf_of_fail hr ha hn ht h, exec_mhint_of_reserved hr,
    fun h ht => exec_mhint_of_far hr ha hn h ht⟩,
    fun hr => ⟨exec_mqry_of_near hr ha, fun hn hu hroom ht => exec_mqry_of_far hr ha hn hu hroom ht⟩⟩
  rw [exec_waitv_of_far hr hal hu ht, hs, State.settle_ok]
end
end

section
/-!
Reads, writes and admission at a home (12_main_memory.md R226, R229, R235, 11_memory_access.md R199, 24_system.md R428): what a performed
request leaves unchanged, what a read and a write at their home come to, and the obligation assembled from them.
-/
namespace Sys2Proof.Machine

/-! ### The events -/

theorem exec_readRequest (m : Msg) (s : State) : exec (.readRequest m) s = .next (s.readAtHome m) := rfl
theorem exec_writeRequest (m : Msg) (s : State) : exec (.writeRequest m) s = .next (s.writeAtHome m) := rfl
theorem exec_writeRelease (m : Msg) (s : State) : exec (.writeRelease m) s = .next (s.writeAtHome m) := rfl
theorem exec_writeSc (m : Msg) (s : State) : exec (.writeSc m) s = .next (s.writeAtHome m) := rfl

/-! ### Look-up and admission (R226, R428) -/

section
variable (s : State) (m : Msg) (ga : Word) (mgmt read write : Bool)

/-- The unit of a request is the home of its address: the page's entry is VALID and its placement names the unit. -/
def State.isHome : Prop := dpitValid (s.dpit (pageOf (devOf ga))) = true ∧ homeOf (dpitPlacement (s.dpit (pageOf (devOf ga)))) (devOf ga) = m.unit

variable {s m ga}

theorem State.findLine_of_not_isHome (h : ¬ s.isHome m ga) : s.findLine m ga mgmt read write = .refused 2 true := by
  rw [State.findLine]
  refine if_pos ?_
  cases hv : dpitValid (s.dpit (pageOf (devOf ga)))
  · rfl
  · simpa [hv] using fun hu => h ⟨hv, hu⟩

theorem State.findLine_of_isHome (h : s.isHome m ga) : s.findLine m ga mgmt read write =
    if (!mgmt && !s.admitted m (s.dpit (pageOf (devOf ga))) read write) = true then .refused 2 false
    else .at (mediaOfEntry (s.dpit (pageOf (devOf ga))) (devOf ga)) (s.dpit (pageOf (devOf ga))) := by
  obtain ⟨hv, hu⟩ := h
  rw [State.findLine]
  exact if_neg (by simp [hv, hu])

theorem State.findLine_mgmt_of_isHome (h : s.isHome m ga) : s.findLine m ga true read write =
    .at (mediaOfEntry (s.dpit (pageOf (devOf ga))) (devOf ga)) (s.dpit (pageOf (devOf ga))) := by
  rw [State.findLine_of_isHome _ _ _ h]; exact if_neg (by simp)

variable (s m)

/-- A home admits the page's owner on this chip, and whom an entry of its access table admits. -/
theorem State.admitted_iff (e : Nat) : s.admitted m e read write = true ↔
    (m.behalf.getD m.srcChip = s.hub.chipId ∧ m.srcVf.toNat = dpitOwner e) ∨
    ∃ x ∈ (s.stack m.unit).access, bit x.2 63 = true ∧ (read = true → bit x.2 62 = true) ∧ (write = true → bit x.2 61 = true) ∧
      (bit x.2 59 = true ∨ fld x.2 0 20 = (m.behalf.getD m.srcChip).toNat) ∧ (bit x.2 58 = true ∨ fld x.2 44 7 = m.srcVf.toNat) ∧
      fld x.2 51 7 = dpitOwner e := by
  have imp (a b : Bool) : (!a || b) = true ↔ (a = true → b = true) := by cases a <;> simp
  rw [State.admitted, Bool.or_eq_true, List.any_eq_true]
  simp only [admitsAccess, Msg.master, Bool.and_eq_true, imp, Bool.or_eq_true, beq_iff_eq, and_assoc]
end

/-! ### What a performed request leaves (R229) -/

section
variable (s : State) (u a : Nat)

@[simp] theorem State.heated_mem : (s.heated u a).mem = s.mem := by rw [State.heated_frame]
@[simp] theorem State.heated_net : (s.heated u a).net = s.net := by rw [State.heated_frame]
@[simp] theorem State.heated_hub : (s.heated u a).hub = s.hub := by rw [State.heated_frame]
@[simp] theorem State.heated_slots : (s.heated u a).slots = s.slots := by rw [State.heated_frame]
@[simp] theorem State.heated_poison : (s.heated u a).poison = s.poison := by rw [State.heated_frame]
@[simp] theorem State.heated_weak : (s.heated u a).weak = s.weak := by rw [State.heated_frame]
end

/-- Where no atom has wrong bits, a read finds none. -/
theorem State.detect_of_no_weak {s : State} (media n : Nat) (h : s.weak = []) : s.detect media n = s := by
  rw [State.detect, h]; rfl

theorem State.overwrite_of_no_weak {s : State} (media n : Nat) (h : s.weak = []) : s.overwrite media n = s := by
  rw [State.overwrite, h]; rfl

theorem State.recordLost_mem_of_no_ring (s : State) (m : Msg) (ga : Word) (r : Bool) (h : s.hub.kmc = 0) :
    (s.recordLost m ga r).mem = s.mem := by
  cases r
  · rfl
  · simp only [State.recordLost, if_true, State.machineCheck, State.ringPut, h]
    rfl

@[simp] theorem State.recordLost_chipId (s : State) (m : Msg) (ga : Word) (r : Bool) : (s.recordLost m ga r).hub.chipId = s.hub.chipId := by
  rw [State.recordLost_frame]
@[simp] theorem State.recordPoison_chipId (s : State) (m : Msg) (k : Nat) (ga : Word) :
    (s.recordPoison m k ga).hub.chipId = s.hub.chipId := by
  rw [State.recordPoison_frame]

/-! ### The answer -/

/-- The last message on this chip's network answers a request: its kind and payload, under the request's tag and sequence. -/
def State.AnswersLast (t : State) (m : Msg) (kind : BitVec 8) (p : List Word) : Prop :=
  ∃ r : Msg, t.net.getLast? = some r ∧ r.kind = kind ∧ r.dstCore = m.tag.setWidth 12 ∧ r.tag = m.tag ∧ r.seq = m.seq ∧ r.payload = p

theorem State.answersLast_sendReply (t : State) (m : Msg) (kind : Nat) (p : List Word) (h : m.srcChip = t.hub.chipId) :
    (t.sendReply m kind p).AnswersLast m (BitVec.ofNat 8 kind) p := by
  rw [State.sendReply_local t m kind p h]
  exact ⟨_, List.getLast?_concat .., rfl, rfl, rfl, rfl, rfl⟩

theorem State.sendReply_mem (t : State) (m : Msg) (kind : Nat) (p : List Word) : (t.sendReply m kind p).mem = t.mem := by
  rw [State.sendReply, State.route_frame]
theorem State.sendReply_slots (t : State) (m : Msg) (kind : Nat) (p : List Word) : (t.sendReply m kind p).slots = t.slots := by
  rw [State.sendReply, State.route_frame]

/-! ### A read at its home (R199, R235) -/

/-- The words of no bytes are 0. -/
theorem wordsOf_nil : ∀ n : Nat, wordsOf n [] = List.replicate n 0 := by
  intro n; induction n with
  | zero => rfl
  | succ n ih => rw [wordsOf, List.drop_nil, ih]; rfl

section
variable {s : State} {m : Msg} {ga : Word} {n media entry : Nat} {mgmt : Bool}

theorem State.homeRead_of_refused {st : Nat} {r : Bool} (h : s.findLine m ga mgmt true false = .refused st r) :
    s.homeRead m ga n mgmt = (s.recordLost m ga r, st, []) := by
  rw [State.homeRead, h]

variable (hw : s.weak = []) (h : s.findLine m ga mgmt true false = .at media entry)
include hw h

theorem State.homeRead_of_clean (hp : s.poisoned media n = false) :
    s.homeRead m ga n mgmt = (s.heated m.unit (devOf ga), 0, s.bytes media n) := by
  have hp' : (s.heated m.unit (devOf ga)).poisoned media n = false := by rw [State.poisoned, State.heated_poison]; exact hp
  rw [State.homeRead, h]
  dsimp only
  rw [State.detect_of_no_weak _ _ ((s.heated_weak _ _).trans hw), hp', State.bytes, State.heated_mem]
  rfl

theorem State.homeRead_of_poison (hp : s.poisoned media n = true) :
    s.homeRead m ga n mgmt = ((s.heated m.unit (devOf ga)).recordPoison m 0x0001 ga, 1, []) := by
  have hp' : (s.heated m.unit (devOf ga)).poisoned media n = true := by rw [State.poisoned, State.heated_poison]; exact hp
  rw [State.homeRead, h]
  dsimp only
  rw [State.detect_of_no_weak _ _ ((s.heated_weak _ _).trans hw), hp']
  rfl
end

/-- A read that no move holds answers what its home reads. -/
theorem State.readAtHome_of_free (s : State) (m : Msg) (hh : s.holder m = none) (ht : tagPath m.tag = false) :
    let n := fld (m.payload.getD 1 0) 0 8
    let r := s.homeRead m (m.payload.getD 0 0) n false
    s.readAtHome m = r.1.sendReply m 0x28 ([word r.2.1, 0] ++ wordsOf (2 * ((n + 15) / 16)) r.2.2) := by
  rw [State.readAtHome, State.atHome_of_free _ _ _ hh, ht]

/-! ### A write at its home (R199, R235) -/

/-- The poison units that n bytes touch lie around them. -/
theorem unitsOf_bounds {media n u : Nat} (h : u ∈ unitsOf media n) : media < u + 64 ∧ u < media + n := by
  have hunit : media < poisonUnit media + 64 := by unfold poisonUnit; split <;> omega
  obtain ⟨hu, hlt⟩ := List.mem_filter.1 h
  refine ⟨?_, of_decide_eq_true hlt⟩
  simp only [List.mem_cons, List.not_mem_nil, or_false] at hu
  rcases hu with rfl | rfl | rfl <;> omega

/-- A write that lies apart from all poison meets none. -/
theorem State.partialPoison_of_apart (s : State) {media n : Nat} (mask : Nat) (h : ∀ u ∈ s.poison, u + 64 ≤ media ∨ media + n ≤ u) :
    s.partialPoison media n mask = false := by
  refine eq_false_of_ne_true fun hp => ?_
  obtain ⟨u, hu, hbad⟩ := List.any_eq_true.1 hp
  have hmem : u ∈ s.poison := by
    simp only [Bool.and_eq_true, List.contains_iff_mem] at hbad
    exact hbad.1.1
  have := unitsOf_bounds hu
  have := h u hmem
  omega

/-- A home write that is performed puts the bytes under its mask into memory, with status 0. -/
theorem State.homeWrite_of_apart {s : State} {m : Msg} {ga : Word} {mask media entry : Nat} {bs : List Byte} {mgmt : Bool} (hw : s.weak = [])
    (h : s.findLine m ga mgmt false true = .at media entry) (hp : ∀ u ∈ s.poison, u + 64 ≤ media ∨ media + bs.length ≤ u) :
    let r := s.homeWrite m ga mask bs mgmt
    r.2 = 0 ∧ r.1.mem = memWriteMasked s.mem media mask bs ∧ r.1.slots = s.slots ∧ r.1.hub.chipId = s.hub.chipId := by
  have hw' : (s.heated m.unit (devOf ga)).weak = [] := (s.heated_weak _ _).trans hw
  have hp' : (s.heated m.unit (devOf ga)).partialPoison media bs.length mask = false :=
    State.partialPoison_of_apart _ _ (by rwa [State.heated_poison])
  rw [State.homeWrite, h]
  dsimp only
  rw [State.overwrite_of_no_weak _ _ hw', ite_self, State.detect_of_no_weak _ _ hw', hp']
  simp only [Bool.false_eq_true, if_false]
  rw [State.checkWatches_frame]
  simp

theorem State.homeWrite_of_refused {s : State} {m : Msg} {ga : Word} {mask st : Nat} {bs : List Byte} {mgmt r : Bool}
    (h : s.findLine m ga mgmt false true = .refused st r) : s.homeWrite m ga mask bs mgmt = (s.recordLost m ga r, st) := by
  rw [State.homeWrite, h]

/-- A write of a core that no move holds is acknowledged with the status of the home's write: of its size from the start, or under its mask where
its size is 0. -/
theorem State.writeAtHome_of_free (s : State) (m : Msg) (hh : s.holder m = none) (ht : tagPath m.tag = false) :
    let ga := m.payload.getD 0 0
    let n := fld (m.payload.getD 1 0) 0 8
    let data := bytesOfWords (m.payload.drop 2)
    let r := if n = 0 then s.homeWrite m ga (m.payload.getD 10 0).toNat (data.take 64) false else s.homeWrite m ga (2 ^ n - 1) (data.take n) false
    s.writeAtHome m = r.1.sendReply m 0x29 [word r.2, 0] := by
  have hm : tagMgmt m.tag = false := by
    rw [tagPath, Bool.or_eq_false_iff] at ht
    exact ht.1
  rw [State.writeAtHome, State.atHome_of_free _ _ _ hh]
  simp only [State.refusesObject, hm, Bool.false_and, Bool.false_eq_true, if_false]

/-- What holds of the state that a write leaves holds after a write of any kind. -/
theorem exec_writes {s : State} {m : Msg} {P : State → Prop} (h : P (s.writeAtHome m)) :
    (∃ t, exec (.writeRequest m) s = .next t ∧ P t) ∧ (∃ t, exec (.writeRelease m) s = .next t ∧ P t) ∧
      ∃ t, exec (.writeSc m) s = .next t ∧ P t :=
  ⟨⟨_, exec_writeRequest m s, h⟩, ⟨_, exec_writeRelease m s, h⟩, ⟨_, exec_writeSc m s, h⟩⟩

end Sys2Proof.Machine

section
open Sys2Proof Sys2Proof.Machine

theorem homeReadsAndWrites : Claim.HomeReadsAndWrites := by
  unfold Claim.HomeReadsAndWrites
  intro s m media entry ga n data isLast writes hc hh ht hw
  have hread := s.readAtHome_of_free m hh ht
  have hwrite := s.writeAtHome_of_free m hh ht
  have hnlt : n < 256 := bitsOf_lt ..
  refine ⟨fun hf hp => ?_, fun hf hp => ?_, fun r hf => ?_, fun hn hf hp hd hl => exec_writes ?_, fun hn hf hp hl => exec_writes ?_,
    fun r hf hk => exec_writes ?_⟩
  · refine ⟨_, exec_readRequest m s, ?_⟩
    rw [hread, State.homeRead_of_clean hw hf hp]
    refine ⟨?_, ?_, State.answersLast_sendReply _ m 0x28 _ (by rwa [State.heated_hub])⟩
    · rw [State.sendReply_mem, State.heated_mem]
    · rw [State.sendReply_slots, State.heated_slots]
  · refine ⟨_, exec_readRequest m s, ?_⟩
    rw [hread, State.homeRead_of_poison hw hf hp, wordsOf_nil]
    exact State.answersLast_sendReply _ m 0x28 _ (by rwa [State.recordPoison_chipId, State.heated_hub])
  · refine ⟨_, exec_readRequest m s, ?_⟩
    rw [hread, State.homeRead_of_refused hf, wordsOf_nil]
    exact State.answersLast_sendReply _ m 0x28 _ (by rwa [State.recordLost_chipId])
  · have hlen : (data.take n).length = n := List.length_take_of_le hl
    obtain ⟨hst, hmem, hslots, hchip⟩ := State.homeWrite_of_apart (mask := 2 ^ n - 1) (bs := data.take n) hw hf
      fun u hu => (hp u hu).imp_right fun h => by omega
    rw [hwrite, if_neg hn, hst]
    exact ⟨(State.sendReply_mem ..).trans hmem, (State.sendReply_slots ..).trans hslots,
      State.answersLast_sendReply _ m 0x29 _ (hc.trans hchip.symm)⟩
  · obtain ⟨hst, hmem, -, hchip⟩ := State.homeWrite_of_apart (mask := (m.payload.getD 10 0).toNat) (bs := data.take 64) hw hf (by simp [hp])
    rw [hwrite, if_pos hn, hst]
    exact ⟨(State.sendReply_mem ..).trans hmem, State.answersLast_sendReply _ m 0x29 _ (hc.trans hchip.symm)⟩
  · rw [hwrite, State.homeWrite_of_refused hf, State.homeWrite_of_refused hf, ite_self]
    exact ⟨(State.sendReply_mem ..).trans (s.recordLost_mem_of_no_ring m _ r hk),
      State.answersLast_sendReply _ m 0x29 _ (by rwa [State.recordLost_chipId])⟩

theorem homeAdmitsOwnersAndTableEntries : Claim.HomeAdmitsOwnersAndTableEntries := by
  unfold Claim.HomeAdmitsOwnersAndTableEntries
  intro s m ga read write a e here from_ owner listed
  have hadm : s.admitted m e read write = true ↔ owner ∨ listed := s.admitted_iff m read write e
  have hhere : s.isHome m ga ↔ here := Iff.rfl
  refine ⟨fun ⟨hh, ha⟩ => ?_, fun hno => ?_, fun hh => State.findLine_mgmt_of_isHome _ _ hh, fun hh => State.findLine_of_not_isHome _ _ _ hh⟩
  · exact (State.findLine_of_isHome _ _ _ hh).trans (if_neg (by simp [show s.admitted m (s.dpit (pageOf (devOf ga))) read write = true from hadm.2 ha]))
  · by_cases hh : here
    · have hna : s.admitted m (s.dpit (pageOf (devOf ga))) read write = false :=
        eq_false_of_ne_true fun ha => hno ⟨hh, hadm.1 ha⟩
      exact ⟨false, (State.findLine_of_isHome _ _ _ hh).trans (if_pos (by simp [hna]))⟩
    · exact ⟨true, State.findLine_of_not_isHome _ _ _ hh⟩

/-- Settles O49: what a home finds decides a request; a read answers what the home reads, and a write puts its bytes under its mask. -/
theorem homesReadAndWrite : Obligations.HomesReadAndWrite := ⟨homeReadsAndWrites, homeAdmitsOwnersAndTableEntries⟩
end
end

section
/-!
Prefetches, watches, hints and queries at their home (11_memory_access.md R213 to R215, 12_main_memory.md R229, R240, R241): the media that a
performed request leaves, the word of a query, what each kind of request comes to, and the obligation assembled from them.
-/
namespace Sys2Proof.Machine

/-! ### The events -/

theorem exec_watchRequest (m : Msg) (s : State) : exec (.watchRequest m) s = .next (s.watchAtHome m) := rfl

theorem exec_hintRequest_of_free {s : State} {m : Msg} (hp : s.parks m = false) : exec (.hintRequest m) s = .next (s.hintAtHome m) := by
  change execHintRequest m s = _
  rw [execHintRequest, State.orPark, hp]; rfl

theorem exec_queryRequest_of_free {s : State} {m : Msg} (hp : s.parks m = false) : exec (.queryRequest m) s = .next (s.queryAtHome m) := by
  change execQueryRequest m s = _
  rw [execQueryRequest, State.orPark, hp]; rfl

/-! ### The media that a performed request leaves -/

/-- What a home finds is the entry of the page and the media byte that it names. -/
theorem State.findLine_eq_at {media entry : Nat} {s : State} {m : Msg} {ga : Word} {mgmt read write : Bool}
    (h : s.findLine m ga mgmt read write = .at media entry) :
    entry = s.dpit (pageOf (devOf ga)) ∧ media = mediaOfEntry entry (devOf ga) := by
  by_cases hh : s.isHome m ga
  · rw [State.findLine_of_isHome _ _ _ hh] at h
    split at h
    · exact nomatch h
    · obtain ⟨rfl, rfl⟩ := Found.at.inj h
      exact ⟨rfl, rfl⟩
  · rw [State.findLine_of_not_isHome _ _ _ hh] at h
    exact nomatch h

/-- Two states with the same bytes, where every page has the same media. -/
structure State.SameMedia (s t : State) : Prop where
  mem : t.mem = s.mem
  map : ∀ k, (t.stack k).reserveMap = (s.stack k).reserveMap

section
variable {s t : State} (h : s.SameMedia t)
include h

theorem State.SameMedia.dpit (p : Nat) : t.dpit p = s.dpit p := by
  have haddr : t.dpitAddr p = s.dpitAddr p := by
    have := h.map (p % 16)
    simp only [State.stack] at this
    simp only [State.dpitAddr, State.reserveAddr, this]
  rw [State.dpit, haddr, State.load, h.mem, State.dpit, State.load]

theorem State.SameMedia.devBytes : ∀ n a : Nat, t.devBytes a n = s.devBytes a n := by
  intro n; induction n with
  | zero => intro a; rfl
  | succ n ih =>
    intro a
    have hmedia : t.media a = s.media a := by simp only [State.media, h.dpit]
    rw [State.devBytes, State.devBytes, ih, hmedia, h.mem]

theorem State.SameMedia.watched (m : Msg) : t.watched m = s.watched m := by
  rw [State.watched, State.devLoad, h.devBytes, State.watched, State.devLoad]

theorem State.SameMedia.fires (m : Msg) : t.fires m = s.fires m := by
  rw [State.fires, h.watched, State.fires]
end

section
variable (s : State) (u a : Nat)

/-- A performed request adds 1 to the heat of its page at its home; no other part of any unit changes. -/
theorem State.heated_stackTab : (s.heated u a).stackTab = (s.modStack u fun k =>
    { k with heat := (s.stack u).heat.set (pageOf a) ((s.stack u).heat.get (pageOf a) 0 + 1) }).stackTab := by
  unfold State.heated
  dsimp only
  split
  · rfl
  · split <;> rfl

theorem State.stack_heated : (s.heated u a).stack u = { s.stack u with
    heat := (s.stack u).heat.set (pageOf a) ((s.stack u).heat.get (pageOf a) 0 + 1) } :=
  (congrArg (fun t : Tab Stack => t.get u {}) (s.heated_stackTab u a)).trans (s.stack_modStack u _)

theorem State.stack_heated_other (k : Nat) (h : k ≠ u) : (s.heated u a).stack k = s.stack k :=
  (congrArg (fun t : Tab Stack => t.get k {}) (s.heated_stackTab u a)).trans (s.stack_modStack_other u k _ h)

theorem State.sameMedia_heated : s.SameMedia (s.heated u a) := by
  refine ⟨s.heated_mem u a, fun k => ?_⟩
  by_cases hk : k = u
  · rw [hk, State.stack_heated]
  · rw [State.stack_heated_other _ _ _ _ hk]
end

/-! ### Hints (R240) -/

theorem State.dpit_lt (s : State) (p : Nat) : s.dpit p < 2 ^ 64 := by
  have := ofBytes_lt (memBytes s.mem (s.dpitAddr p) 8)
  rwa [memBytes_length] at this

/-- A field replaced below a bound leaves the number below it. -/
theorem withBits_lt {v lo n x w : Nat} (hv : v < 2 ^ w) (h : lo + n ≤ w) : withBits v lo n x < 2 ^ w := by
  refine Nat.lt_pow_two_of_testBit _ fun i hi => ?_
  rw [testBit_withBits, if_neg (by omega)]
  exact Nat.testBit_lt_two_pow (Nat.lt_of_lt_of_le hv (Nat.pow_le_pow_right (by decide) hi))

/-- An entry that is written is looked up. -/
theorem State.dpit_setDpit (s : State) (p e : Nat) (h : Memory.wf s.mem = true) : (s.setDpit p e).dpit p = e % 256 ^ 8 :=
  s.load_store (s.dpitAddr p) 8 e h

/-- A hint that its home finds writes HINT of the page's entry, and sends nothing. -/
theorem State.hintAtHome_of_at {s : State} {m : Msg} {media entry : Nat} (hh : s.holder m = none) (hwf : Memory.wf s.mem = true)
    (h : s.findLine m (m.payload.getD 0 0) false false false = .at media entry) :
    let p := pageOf (devOf (m.payload.getD 0 0))
    (s.hintAtHome m).net = s.net ∧ (s.hintAtHome m).dpit p = withBits (s.dpit p) 28 2 (fld (m.payload.getD 1 0) 0 2) := by
  intro p
  obtain ⟨rfl, -⟩ := State.findLine_eq_at h
  have hdpit : ((s.heated m.unit (devOf (m.payload.getD 0 0))).setDpit p (withBits (s.dpit p) 28 2 (fld (m.payload.getD 1 0) 0 2))).dpit p =
      withBits (s.dpit p) 28 2 (fld (m.payload.getD 1 0) 0 2) := by
    rw [State.dpit_setDpit _ _ _ (by rwa [State.heated_mem])]
    exact Nat.mod_eq_of_lt (withBits_lt (s.dpit_lt p) (by decide))
  rw [State.hintAtHome, State.atHome_of_free _ _ _ hh]
  dsimp only
  rw [h]
  dsimp only
  split
  · unfold State.candidate
    split
    · exact ⟨s.heated_net .., hdpit⟩
    · exact ⟨s.heated_net .., hdpit⟩
  · exact ⟨s.heated_net .., hdpit⟩

/-! ### Queries (R241) -/

/-- A bit is the field of one bit at its place. -/
theorem bit_of_fld_eq_toNat {w : Word} {i : Nat} {b : Bool} (h : fld w i 1 = b.toNat) : bit w i = b := by
  have h' : w.toNat / 2 ^ i % 2 = b.toNat := h
  rw [bit, bitOf, h']
  cases b <;> rfl

/-- The fields of a query's word: VALID, TIER, MOVING and PINNED of the entry, and the page. No field reaches into the next. -/
theorem queryWord_fields (e heat page : Nat) :
    let w := queryWord e heat page
    bit w 63 = dpitValid e ∧ fld w 62 1 = dpitTier e % 2 ∧ bit w 61 = dpitMoving e ∧ bit w 60 = dpitPinned e ∧ fld w 0 28 = page % 2 ^ 28 := by
  have hvalid := Bool.toNat_lt (dpitValid e)
  have htier : dpitTier e < 2 := bitsOf_lt e 60 1
  have hmoving := Bool.toNat_lt (dpitMoving e)
  have hpinned := Bool.toNat_lt (dpitPinned e)
  have hplace : dpitPlacement e < 16 := bitsOf_lt e 56 4
  have hshape : dpitShape e < 16 := bitsOf_lt e 52 4
  have hhint : dpitHint e < 4 := bitsOf_lt e 28 2
  have hheat : least 65535 heat < 65536 := by rw [least_eq_min]; omega
  have hpage : page % 2 ^ 28 < 2 ^ 28 := Nat.mod_lt _ (by decide)
  refine ⟨bit_of_fld_eq_toNat ?_, ?_, bit_of_fld_eq_toNat ?_, bit_of_fld_eq_toNat ?_, ?_⟩ <;>
    simp only [queryWord, word, fld, bitsOf, BitVec.toNat_ofNat] <;> omega

/-- A query that its home finds answers the state of the entry with status 0. -/
theorem State.queryAtHome_of_at {s : State} {m : Msg} {media entry : Nat} (hh : s.holder m = none) (hc : m.srcChip = s.hub.chipId)
    (h : s.findLine m (m.payload.getD 0 0) false true false = .at media entry) :
    let u := s.heated m.unit (devOf (m.payload.getD 0 0))
    let p := pageOf (devOf (m.payload.getD 0 0))
    s.queryAtHome m = { u with net := s.net ++ [{ replyTo m 0x3E [0, 0, queryWord entry (u.heatOf p) p, 0] with stamp := u.stamp }] } := by
  rw [State.queryAtHome, State.atHome_of_free _ _ _ hh]
  dsimp only
  rw [h]
  dsimp only
  rw [State.sendReply_local _ _ _ _ (by rwa [State.heated_hub]), State.heated_net]

/-! ### Prefetches (R215) -/

/-- A prefetch that its home finds stages its lines at the home, and those of the CXL tier at the hub. -/
theorem exec_prefetchRequest_of_at {s : State} {m : Msg} {media entry : Nat} (hh : s.holder m = none)
    (h : s.findLine m (m.payload.getD 0 0) false true false = .at media entry) :
    let a := devOf (m.payload.getD 0 0)
    let n := fld (m.payload.getD 1 0) 0 8
    let u := (s.heated m.unit a).modStack m.unit fun k => { k with readBuf := (List.range n).map fun i => a / 64 + i }
    exec (.prefetchRequest m) s = .next (if media < 2 ^ 40 then u
      else u.modHub fun h => { h with tierBuf := (List.range n).map fun i => media / 64 * 64 + 64 * i }) := by
  change execPrefetchRequest m s = _
  rw [execPrefetchRequest, State.atHome_of_free _ _ _ hh]
  dsimp only
  rw [h]

/-! ### Watches (R213) -/

section
variable {s : State} {m : Msg} {media entry : Nat} (hh : s.holder m = none) (hw : s.weak = [])
  (h : s.findLine m (m.payload.getD 0 0) false true false = .at media entry) (hp : s.poisoned media 8 = false)
include hh hw h hp

/-- A watch whose word differs resumes its clause at once with the word. -/
theorem State.watchAtHome_of_fires (hr : (s.launch m.launch).repro = false) (hc : m.srcChip = s.hub.chipId) (hf : s.fires m = true) :
    ∃ r : Msg, s.watchAtHome m = { s.heated m.unit (devOf (m.payload.getD 0 0)) with net := s.net ++ [r] } ∧
      r.kind = 0x02 ∧ r.tag = m.tag ∧ r.dstCore = m.tag.setWidth 12 ∧ r.payload = [s.watched m, 0] := by
  have hu : s.SameMedia (s.heated m.unit (devOf (m.payload.getD 0 0))) := s.sameMedia_heated ..
  have hub : (s.heated m.unit (devOf (m.payload.getD 0 0))).hub = s.hub := s.heated_hub ..
  have hnet : (s.heated m.unit (devOf (m.payload.getD 0 0))).net = s.net := s.heated_net ..
  rw [State.watchAtHome, State.atHome_of_free _ _ _ hh, watchWord]
  dsimp only
  rw [State.homeRead_of_clean hw h hp]
  generalize s.heated m.unit (devOf (m.payload.getD 0 0)) = u at hu hub hnet ⊢
  have hgo : (!u.windowed m && u.fires m) = true := by rw [hu.fires, hf, State.windowed, State.launch, hub, ← State.launch, hr]; rfl
  dsimp only
  rw [if_neg (not_not_intro rfl), if_pos hgo, State.homeResumes_local _ _ _ _ _ _ (by rw [hub]; exact hc), hnet, hu.watched]
  exact ⟨_, rfl, rfl, rfl, rfl, rfl⟩

/-- A watch whose word equals its comparand is held at its home. -/
theorem State.watchAtHome_of_holds (hf : s.fires m = false) (hroom : (s.stack m.unit).watches.length < 16384) :
    s.watchAtHome m = (s.heated m.unit (devOf (m.payload.getD 0 0))).modStack m.unit fun k => { k with watches := k.watches ++ [m] } := by
  have hu : s.SameMedia (s.heated m.unit (devOf (m.payload.getD 0 0))) := s.sameMedia_heated ..
  rw [State.watchAtHome, State.atHome_of_free _ _ _ hh, watchWord]
  dsimp only
  rw [State.homeRead_of_clean hw h hp]
  dsimp only
  rw [if_neg (by decide), hu.fires, hf, Bool.and_false, if_neg (by decide), if_pos (by rwa [State.stack_heated])]
end

/-! ### Spilled watches (R214) -/

/-- Watches of this chip that fire send one message each. -/
theorem State.fireAll_local (ws : List Msg) : ∀ s : State, (∀ m ∈ ws, m.srcChip = s.hub.chipId) →
    ∃ rs : List Msg, rs.length = ws.length ∧ s.fireAll ws = { s with net := s.net ++ rs } := by
  induction ws with
  | nil => intro s _; exact ⟨[], rfl, by rw [List.append_nil]; rfl⟩
  | cons m t ih =>
    intro s h
    obtain ⟨r, hr⟩ : ∃ r, s.homeResumes m ((s.launch m.launch).window - 1) 0 (s.watched m) 0 = { s with net := s.net ++ [r] } :=
      ⟨_, s.homeResumes_local m _ _ _ _ (h m (List.mem_cons_self ..))⟩
    obtain ⟨rs, hlen, hrs⟩ := ih { s with net := s.net ++ [r] } fun x hx => h x (List.mem_cons_of_mem _ hx)
    refine ⟨r :: rs, congrArg (· + 1) hlen, ?_⟩
    rw [State.fireAll, List.foldl_cons, ← State.fireAll, hr, hrs]
    simp only [List.append_assoc, List.singleton_append]

/-- A reading of spilled watches, none of a reproducible launch: those that fire resume, and while others are left the next reading is due. -/
theorem exec_watchSpillReread_spec (s : State) (u : Nat) (h : ∀ m ∈ (s.stack u).spill, (s.launch m.launch).repro = false ∧ m.srcChip = s.hub.chipId) :
    let left := (s.stack u).spill.filter fun m => !s.fires m
    ∃ rs : List Msg, rs.length = ((s.stack u).spill.filter fun m => s.fires m).length ∧
      exec (.watchSpillReread u) s = .next { s.modStack u fun k => { k with spill := left } with
        net := s.net ++ rs, timers := if left.isEmpty then s.timers else s.timers ++ [(s.ktick.toNat + 4096, .watchSpillReread u)] } := by
  intro left
  have hhit : ∀ m ∈ (s.stack u).spill, (!s.windowed m && s.fires m) = s.fires m := fun m hm => by
    rw [State.windowed, (h m hm).1, Bool.not_false, Bool.true_and]
  have hfire : (s.stack u).spill.filter (fun m => !s.windowed m && s.fires m) = (s.stack u).spill.filter fun m => s.fires m :=
    List.filter_congr hhit
  have hleft : (s.stack u).spill.filter (fun m => !(!s.windowed m && s.fires m)) = left :=
    List.filter_congr fun m hm => congrArg _ (hhit m hm)
  obtain ⟨t, ht⟩ : ∃ t, s.modStack u (fun k => { k with spill := left }) = t := ⟨_, rfl⟩
  have hspill : (t.stack u).spill = left := by rw [← ht, State.stack_modStack]
  have hchip : ∀ m ∈ (s.stack u).spill.filter (fun m => s.fires m), m.srcChip = t.hub.chipId := fun m hm => by
    rw [← ht, State.modStack_hub]; exact (h m (List.mem_filter.1 hm).1).2
  obtain ⟨rs, hlen, hrs⟩ := State.fireAll_local _ t hchip
  have hmod : (s.modStack u fun k => { k with spill := k.spill.filter fun m => !(!s.windowed m && s.fires m) }) = t := by
    rw [← ht, State.modStack, hleft]; rfl
  refine ⟨rs, hlen, ?_⟩
  change execWatchSpillReread u s = _
  rw [execWatchSpillReread]
  dsimp only
  rw [hmod, hfire, hrs, ht]
  have hif : (State.stack { t with net := t.net ++ rs } u).spill.isEmpty = left.isEmpty := congrArg List.isEmpty hspill
  rw [hif, ← ht]
  cases left.isEmpty <;> rfl

end Sys2Proof.Machine

section
open Sys2Proof Sys2Proof.Machine

/-- Settles O8: each clause is what one kind of request comes to at a home that finds its page, or a reading of the spilled watches. -/
theorem homesWatch : Obligations.HomesWatch := by
  unfold Obligations.HomesWatch
  refine ⟨?_, fun s u h => ?_⟩
  · intro s m media entry ga n page hc hh hk
    refine ⟨fun h => ⟨?_, ?_, fun hp hw hr => ⟨fun hf hroom => ?_, fun hf => ?_⟩⟩, fun h hwf => ?_⟩
    · have hbuf := (s.heated m.unit (devOf ga)).stack_modStack m.unit fun k => { k with readBuf := (List.range n).map fun i => devOf ga / 64 + i }
      refine ⟨_, exec_prefetchRequest_of_at hh h, ?_⟩
      rcases Nat.lt_or_ge media (2 ^ 40) with hm | hm
      · rw [if_pos hm, hbuf, State.stack_heated]
        exact ⟨s.heated_net .., s.heated_mem .., rfl, fun hge => absurd hge (Nat.not_le.2 hm), Tab.get_set_same ..⟩
      · rw [if_neg (Nat.not_lt.2 hm), State.stack_modHub, hbuf, State.stack_heated]
        exact ⟨s.heated_net .., s.heated_mem .., rfl, fun _ => rfl, Tab.get_set_same ..⟩
    · exact ⟨_, _, (exec_queryRequest_of_free hk).trans (congrArg _ (State.queryAtHome_of_at hh hc h)), s.heated_mem .., rfl, rfl, rfl, rfl,
        queryWord_fields ..⟩
    · refine ⟨_, (exec_watchRequest m s).trans (congrArg _ (State.watchAtHome_of_holds hh hw h hp hf hroom)), s.heated_net .., s.heated_mem .., ?_⟩
      rw [State.stack_modStack, State.stack_heated]
    · obtain ⟨r, ht, hkind, htag, hcore, hpay⟩ := State.watchAtHome_of_fires hh hw h hp hr hc hf
      refine ⟨_, r, (exec_watchRequest m s).trans (congrArg _ ht), s.heated_mem .., rfl, hkind, htag, hcore, hpay, ?_⟩
      have hstack := congrArg Stack.watches (s.stack_heated m.unit (devOf ga))
      exact hstack
    · exact ⟨_, exec_hintRequest_of_free hk, State.hintAtHome_of_at hh hwf h⟩
  · obtain ⟨rs, hlen, ht⟩ := exec_watchSpillReread_spec s u h
    have hspill := congrArg Stack.spill (s.stack_modStack u fun k => { k with spill := (s.stack u).spill.filter fun m => !s.fires m })
    refine ⟨_, ht, hspill, rfl, ?_, fun he => ?_, fun he => ?_⟩
    · rw [← hlen]; exact List.length_append
    · exact if_pos (List.isEmpty_iff.2 (hspill.symm.trans he))
    · exact if_neg fun hn => he (hspill.trans (List.isEmpty_iff.1 hn))
end
end

section
/-!
SUPPORT. The machine-check ring over poisoned memory (12_main_memory.md R234, R235, 24_system.md R421): the corrected error that reaches the
threshold of its channel sends a record, the record is a write of the device that covers a whole atom, and such a write clears the
atom's poison. `Obligations.PagesMoveAndAreScrubbed` speaks of every state, so of one whose next ring entry lies on a poisoned atom.
-/
namespace Sys2Proof.Machine

theorem exec_patrolScrub (atom errors : Nat) (s : State) :
    exec (.patrolScrub atom errors) s = .next ({ s with weak := s.weak.del (32 * atom) }.scrub atom (errors + s.weak.get (32 * atom) 0)) := rfl

/-- A package whose machine-check ring of 256 entries stands at address 0, in a page with a VALID entry whose media begin at byte 0. The
atom of the ring's first entry is poisoned, and the threshold of stack 0 is one corrected error. Memory is in canonical form. -/
def poisonedRing : State :=
  { State.reset with
    hub := { kmc := 8 }, mem := [(State.reset.dpitAddr 0 + 7, 0x80)], poison := [0], stackTab := [(0, { threshold := 1 })] }

/-- The scrub of atom 1 corrects its one wrong bit, and the record that it sends clears the poison of atom 0. -/
theorem poisonedRing_scrub_poison : (poisonedRing.scrub 1 1).poison = [] := by decide +kernel

end Sys2Proof.Machine
end

section
open Sys2Proof Sys2Proof.Machine

/-- Refutes O16: its last clause has a scrub that corrects an atom leave all poison as it was, also where the count reaches the
threshold. In `poisonedRing` the machine-check record sent there covers atom 0 whole, and the write of R235 clears the poison. -/
theorem not_pagesMoveAndAreScrubbed : ¬ Obligations.PagesMoveAndAreScrubbed := by
  unfold Obligations.PagesMoveAndAreScrubbed
  intro h
  obtain ⟨-, -, -, -, -, -, -, -, -, -, hscrub⟩ := h poisonedRing 0 0 0 0 0 1 1 0 0 { entry := 0, homes := [] }
  obtain ⟨hcorrected, -⟩ := hscrub rfl (by decide) (by decide)
  obtain ⟨u, hu, -, hpoison, -⟩ := hcorrected rfl
  obtain rfl : poisonedRing.scrub 1 1 = u := by injection (exec_patrolScrub 1 1 poisonedRing).symm.trans hu
  exact absurd (poisonedRing_scrub_poison.symm.trans hpoison) (by decide)
end

section
/-!
SUPPORT. What a package knows of the fabric's links (24_system.md R427, 26_platform.md R454): no operation but those that lose or restore
a link or a package changes it. One law for each operation that a package's going down brings about.
-/
namespace Sys2Proof.Machine

/-- What a package knows of the links: its own id, the ports that are lost, and the packages that are down. -/
def State.links (s : State) : BitVec 20 × List Nat × List Nat := (s.hub.chipId, s.hub.lostPorts, s.hub.down)

theorem State.links_eq_iff (s t : State) :
    t.links = s.links ↔ t.hub.chipId = s.hub.chipId ∧ t.hub.lostPorts = s.hub.lostPorts ∧ t.hub.down = s.hub.down := by
  simp only [State.links, Prod.mk.injEq]

/-- Operations in a row keep what each of them keeps. -/
theorem State.links_foldl {α : Type} {f : State → α → State} (hf : ∀ s a, (f s a).links = s.links) (l : List α) :
    ∀ s : State, (l.foldl f s).links = s.links := by
  induction l with
  | nil => intro s; rfl
  | cons a t ih => intro s; rw [List.foldl_cons, ih, hf]

/-! ### The units -/

section
variable (s : State)

/-- A change of the hub that leaves the package's id, the lost ports and the packages that are down. -/
theorem State.modHub_links (f : Hub → Hub) (hid : (f s.hub).chipId = s.hub.chipId) (hports : (f s.hub).lostPorts = s.hub.lostPorts)
    (hdown : (f s.hub).down = s.hub.down) : (s.modHub f).links = s.links :=
  (State.links_eq_iff ..).2 ⟨hid, hports, hdown⟩

@[simp] theorem State.modCluster_links (k : Nat) (f : Cluster → Cluster) : (s.modCluster k f).links = s.links := rfl
@[simp] theorem State.modStack_links (k : Nat) (f : Stack → Stack) : (s.modStack k f).links = s.links := rfl
@[simp] theorem State.modLaunch_links (n : Nat) (f : Launch → Launch) : (s.modLaunch n f).links = s.links := rfl
@[simp] theorem State.modVf_links (n : Nat) (f : Vf → Vf) : (s.modVf n f).links = s.links := rfl
@[simp] theorem State.modEst_links (n : Nat) (f : Est → Est) : (s.modEst n f).links = s.links := rfl
@[simp] theorem State.modWindow_links (n : Nat) (f : Window → Window) : (s.modWindow n f).links = s.links := rfl
@[simp] theorem State.post_links (e : Instr) : (s.post e).links = s.links := rfl
@[simp] theorem State.store_links (a n v : Nat) : (s.store a n v).links = s.links := rfl

theorem State.setPoison_links (p : List Nat) : State.links { s with poison := p } = s.links := rfl
theorem State.setWeak_links (w : Tab Nat) : State.links { s with weak := w } = s.links := rfl

@[simp] theorem State.devWrite_links (a : Nat) (bs : List Byte) : (s.devWrite a bs).links = s.links := by
  rw [State.devWrite_frame]; rfl
@[simp] theorem State.machineCheck_links (r : McRecord) : (s.machineCheck r).links = s.links := by
  rw [State.machineCheck_frame]; rfl
@[simp] theorem State.recordLost_links (m : Msg) (ga : Word) (r : Bool) : (s.recordLost m ga r).links = s.links := by
  rw [State.recordLost_frame]; rfl
@[simp] theorem State.recordPoison_links (m : Msg) (k : Nat) (ga : Word) : (s.recordPoison m k ga).links = s.links := by
  rw [State.recordPoison_frame]; rfl
@[simp] theorem State.heated_links (u a : Nat) : (s.heated u a).links = s.links := by
  rw [State.heated_frame]; rfl
@[simp] theorem State.checkWatches_links (u line : Nat) : (s.checkWatches u line).links = s.links := by
  rw [State.checkWatches_frame]; rfl
@[simp] theorem State.fillTlb_links (core asid va : Nat) : (s.fillTlb core asid va).links = s.links := by
  rw [State.fillTlb_frame]; rfl

@[simp] theorem State.walkRecord_links (unit asid vf : Nat) (va : Word) : (s.walkRecord unit asid vf va).links = s.links := by
  unfold State.walkRecord
  split
  · rfl
  · rw [State.machineCheck_links]

/-! ### Messages -/

@[simp] theorem State.route_links (m : Msg) : (s.route m).links = s.links := by
  rw [State.route_frame]; rfl
@[simp] theorem State.sendReply_links (m : Msg) (kind : Nat) (p : List Word) : (s.sendReply m kind p).links = s.links :=
  State.route_links ..
@[simp] theorem State.hubAnswer_links (m : Msg) (status : Nat) (ws : List Word) : (s.hubAnswer m status ws).links = s.links :=
  State.sendReply_links ..
@[simp] theorem State.ackShootDown_links (unit cl number : Nat) (n : BitVec 128) : (s.ackShootDown unit cl number n).links = s.links :=
  State.route_links ..
@[simp] theorem State.sendDevice_links (m : Msg) : (s.sendDevice m).links = s.links := by
  rw [State.sendDevice_frame]; rfl
theorem State.downNotice_links (chip : BitVec 20) (reason core c : Nat) : (s.downNotice chip reason core c).links = s.links := by
  unfold State.downNotice
  exact State.sendDevice_links s _

@[simp] theorem State.nameAnswer_links (m : Msg) (status : Nat) (result attr : Word) : (s.nameAnswer m status result attr).links = s.links := by
  unfold State.nameAnswer
  split
  · exact s.modHub_links _ rfl rfl rfl
  · rw [State.sendReply_links]

/-! ### Near-memory units -/

@[simp] theorem State.scrub_links (atom errors : Nat) : (s.scrub atom errors).links = s.links := by
  unfold State.scrub
  dsimp only
  split
  · rfl
  · split
    · split
      · rw [State.machineCheck_links, State.modStack_links]
      · rfl
    · rw [State.setPoison_links, State.machineCheck_links]

@[simp] theorem State.detect_links (media n : Nat) : (s.detect media n).links = s.links := by
  unfold State.detect
  split
  · rfl
  · exact State.links_foldl (fun t e => (State.scrub_links ..).trans (State.setWeak_links ..)) _ _

@[simp] theorem State.applyAt_links (m : Msg) (ga : Word) (n : Nat) (f : Nat → Nat) : (s.applyAt m ga n f).1.links = s.links := by
  unfold State.applyAt
  split
  · rw [State.recordLost_links]
  · dsimp only
    split <;> simp

@[simp] theorem State.homeRead_links (m : Msg) (ga : Word) (n : Nat) (mgmt : Bool) : (s.homeRead m ga n mgmt).1.links = s.links := by
  unfold State.homeRead
  split
  · rw [State.recordLost_links]
  · dsimp only
    split <;> simp
end

/-! ### Fabric windows (15_sync.md R275, R276) -/

section
variable (s : State)

@[simp] theorem State.endRound_links (code : Nat) (r : Round) : (s.endRound code r).links = s.links := by
  unfold State.endRound
  split
  · rfl
  · dsimp only
    exact (State.links_foldl (fun t p => State.sendReply_links ..) _ _).trans (State.applyAt_links ..)

@[simp] theorem State.settleRound_links (id : Nat) : ∀ (n : Nat) (s : State) (r : Round), (s.settleRound id r n).links = s.links := by
  intro n; induction n with
  | zero => intros; rfl
  | succ n ih =>
    intro s r
    unfold State.settleRound
    split
    · rfl
    · split
      · rw [ih, State.endRound_links]
      · rfl

@[simp] theorem State.endRounds_links (id code : Nat) (rs : List Round) : (s.endRounds id code rs).links = s.links := by
  unfold State.endRounds
  refine State.links_foldl (fun t r => ?_) _ _
  split <;> simp

@[simp] theorem State.noticeLost_links (w : Window) (chip : BitVec 20) : (s.noticeLost w chip).links = s.links := by
  unfold State.noticeLost
  refine State.links_foldl (fun t a => ?_) _ _
  dsimp only
  split
  · rw [State.sendDevice_links]
  · rw [State.route_links]

@[simp] theorem State.withdraw_links (id : Nat) (chip : BitVec 20) : (s.withdraw id chip).links = s.links := by
  unfold State.withdraw
  split
  · rfl
  · split
    · rfl
    · simp
end

/-! ### Enqueues (22_launch_estimate.md R371) -/

/-- What a read of the hub leaves knows the same links as a state. -/
def Fetch.KeepsLinks {α : Type} (s : State) : Fetch α → Prop
  | .ok t _ => t.links = s.links
  | .fail t _ _ => t.links = s.links
  | .need _ _ => True

theorem Fetch.keepsLinks_bind {α β : Type} {s : State} {r : Fetch α} {f : State → α → Fetch β} (hr : r.KeepsLinks s)
    (hf : ∀ t a, t.links = s.links → (f t a).KeepsLinks s) : (r.bind f).KeepsLinks s := by
  cases r with
  | ok t a => exact hf t a hr
  | fail t c va => exact hr
  | need ga u => trivial

theorem Fetch.keepsLinks_trans {α : Type} {s t : State} {r : Fetch α} (hr : r.KeepsLinks t) (h : t.links = s.links) : r.KeepsLinks s := by
  cases r with
  | ok u a => exact Eq.trans hr h
  | fail u c va => exact Eq.trans hr h
  | need ga u => trivial

section
variable (s : State) (got : List (Nat × Nat × List Byte)) (vf asid : Nat)

theorem State.hubLine_keepsLinks (va : Nat) : (s.hubLine got vf asid va).KeepsLinks s := by
  unfold State.hubLine
  dsimp only
  split
  · exact rfl
  · split
    · show State.links _ = _
      split <;> simp
    · split
      · exact State.fillTlb_links ..
      · split
        · exact State.fillTlb_links ..
        · split
          · split <;> exact (State.homeRead_links ..).trans (State.fillTlb_links ..)
          · split
            · exact State.fillTlb_links ..
            · split
              · split <;> exact State.fillTlb_links ..
              · trivial

theorem State.hubLines_keepsLinks : ∀ (n : Nat) (s : State) (va : Nat), (s.hubLines got vf asid va n).KeepsLinks s := by
  intro n; induction n with
  | zero => intro s va; exact rfl
  | succ n ih =>
    intro s va
    refine Fetch.keepsLinks_bind (s.hubLine_keepsLinks got vf asid va) fun t bs ht => ?_
    exact Fetch.keepsLinks_bind (Fetch.keepsLinks_trans (ih t _) ht) fun u bs' hu => hu

theorem State.hubBytes_keepsLinks (va : Word) (n : Nat) : (s.hubBytes got vf asid va n).KeepsLinks s :=
  Fetch.keepsLinks_bind (State.hubLines_keepsLinks got vf asid _ s _) fun _ _ ht => ht
end

section
variable (s : State)

theorem State.readPacket_keepsLinks (x : Enqueue) : (s.readPacket x).KeepsLinks s := by
  unfold State.readPacket
  split
  · exact rfl
  · exact Fetch.keepsLinks_bind (s.hubBytes_keepsLinks ..) fun t bs ht => ht

@[simp] theorem State.reserveNames_links : s.reserveNames.links = s.links := by
  unfold State.reserveNames
  split
  · rfl
  · dsimp only; split <;> rfl

theorem State.insertName_links {t : State} {n : BitVec 128} {binding attr : Word} (h : s.insertName n binding attr = some t) :
    t.links = s.links := by
  obtain ⟨a, -, rfl⟩ := Option.map_eq_some_iff.1 h
  exact State.devWrite_links ..

theorem State.hubName_links {t : State} {n : BitVec 128} (h : s.hubName = some (t, n)) : t.links = s.links := by
  unfold State.hubName at h
  dsimp only at h
  split at h
  · exact nomatch h
  · split at h
    · injection h with h; injection h with h _; rw [← h]; exact s.reserveNames_links
    · exact nomatch h

theorem State.newLaunchName_links {t : State} {n : BitVec 128} {vf : Nat} {binding : Word} (h : s.newLaunchName vf binding = some (t, n)) :
    t.links = s.links := by
  unfold State.newLaunchName at h
  split at h
  · exact nomatch h
  · rename_i u m hu
    obtain ⟨v, hv, hvt⟩ := Option.map_eq_some_iff.1 h
    injection hvt with hvt _
    rw [← hvt, State.insertName_links _ hv, s.hubName_links hu]

theorem State.bindLaunchName_links {t : State} {n k : BitVec 128} {vf : Nat} {binding : Word}
    (h : s.bindLaunchName vf n binding = some (t, k)) : t.links = s.links := by
  unfold State.bindLaunchName at h
  split at h
  · exact s.newLaunchName_links h
  · split at h
    · split at h
      · injection h with h; injection h with h _; rw [← h, State.route_links]
      · exact nomatch h
    · exact nomatch h

@[simp] theorem State.accept_links (q vf : Nat) (p d : List Word) (n : BitVec 128) : (s.accept q vf p d n).links = s.links := by
  unfold State.accept
  dsimp only
  rw [State.post_links]
  split
  · unfold State.armExpiry; split <;> rfl
  · rfl

theorem State.enqueue_keepsLinks (got : List (Nat × Nat × List Byte)) (q vf asid : Nat) (pkt : List Word) (addr : Word) :
    (s.enqueue got q vf asid pkt addr).KeepsLinks s := by
  unfold State.enqueue
  dsimp only
  split
  · exact rfl
  · split
    · exact rfl
    · refine Fetch.keepsLinks_bind ?_ fun t d ht => ?_
      · split
        · exact rfl
        · split
          · exact rfl
          · have hb := s.hubBytes_keepsLinks got vf asid (pkDesc (pkt.set 0 (withFld (pkt.getD 0 0) 16 16 vf))) 64
            split
            · rename_i u bs hu; rw [hu] at hb; exact hb
            · rename_i u c va hu; rw [hu] at hb; exact hb
            · trivial
      · split
        · exact ht
        · split
          · exact ht
          · rename_i u n hu
            split
            · exact ht
            · exact (State.accept_links ..).trans ((t.bindLaunchName_links hu).trans ht)

@[simp] theorem State.enqueued_links (x : Enqueue) (r : Enq) : (s.enqueued x r).links = s.links := by
  unfold State.enqueued
  split <;> simp

@[simp] theorem State.awaitLine_links (x : Enqueue) (ga : Word) (unit : Nat) : (s.awaitLine x ga unit).links = s.links :=
  (State.route_links ..).trans rfl

@[simp] theorem State.tryEnqueue_links (x : Enqueue) : (s.tryEnqueue x).links = s.links := by
  unfold State.tryEnqueue
  have hp := s.readPacket_keepsLinks x
  split
  · rename_i t c va h
    rw [h] at hp
    exact (State.enqueued_links ..).trans hp
  · exact State.awaitLine_links ..
  · rename_i t p h
    rw [h] at hp
    have hq := Fetch.keepsLinks_trans (t.enqueue_keepsLinks x.got x.queue x.vf x.asid p x.addr) hp
    split
    · rename_i u c va hu
      rw [hu] at hq
      exact (State.enqueued_links ..).trans hq
    · exact (State.awaitLine_links ..).trans hp
    · rename_i u c va hu
      rw [hu] at hq
      exact (State.enqueued_links ..).trans hq
    · rename_i u n hu
      rw [hu] at hq
      split
      · exact (State.enqueued_links ..).trans hq
      · exact hq
end

/-! ### A package that goes down (24_system.md R427) -/

section
variable (s : State) (chip : BitVec 20)

@[simp] theorem State.hubLineCame_links (ga status : Nat) (bs : List Byte) : (s.hubLineCame ga status bs).links = s.links := by
  unfold State.hubLineCame
  dsimp only
  rw [State.links_foldl fun t e => (State.post_links ..).trans (State.modLaunch_links ..), State.links_foldl fun t x => State.tryEnqueue_links ..]
  rfl

@[simp] theorem State.tableFailed_links (r : TableRead) : (s.tableFailed r).links = s.links := by
  unfold State.tableFailed
  split <;> rfl

theorem State.nameResult_links (r : Nat) : (s.nameResult r).links = s.links := s.modHub_links _ rfl rfl rfl

@[simp] theorem State.relay_links (unit : Nat) (m : Msg) (status : Nat) (result : Word) : (s.relay unit m status result).links = s.links := by
  unfold State.relay
  split
  · rfl
  · simp

@[simp] theorem State.loseNames_links (cl : Nat) : (s.loseNames chip cl).links = s.links := by
  unfold State.loseNames
  exact (State.links_foldl (fun t e => State.ackShootDown_links ..) _ _).trans (State.modCluster_links ..)

@[simp] theorem State.loseForwarded_links (unit : Nat) : (s.loseForwarded chip unit).links = s.links := by
  unfold State.loseForwarded
  dsimp only
  rw [State.links_foldl fun t f => State.post_links .., State.links_foldl fun t f => State.relay_links .., State.modStack_links]

@[simp] theorem State.loseWaiters_links (unit : Nat) : (s.loseWaiters chip unit).links = s.links := by
  unfold State.loseWaiters
  dsimp only
  refine (State.links_foldl (fun t m => ?_) _ _).trans (State.modStack_links ..)
  split
  · rfl
  · rw [State.store_links]

@[simp] theorem State.loseHub_links : (s.loseHub chip).links = s.links := by
  unfold State.loseHub
  dsimp only
  rw [apply_ite State.links, State.nameResult_links, ite_self, State.links_foldl fun t e => (State.post_links ..).trans (State.modEst_links ..),
    State.links_foldl fun t r => State.tableFailed_links .., State.modHub_links _ _ rfl rfl rfl, State.links_foldl fun t ga => State.hubLineCame_links ..]

theorem State.peerDown_links (reason : Nat) (h : chip ≠ s.hub.chipId) :
    (s.peerDown chip reason).links = (s.hub.chipId, s.hub.lostPorts, insertNat s.hub.down chip.toNat) := by
  unfold State.peerDown
  rw [if_neg h]
  dsimp only
  rw [State.links_foldl fun t x => State.downNotice_links .., State.links_foldl fun t w => State.withdraw_links .., State.loseHub_links,
    State.links_foldl fun t u => State.loseWaiters_links .., State.links_foldl fun t u => State.loseForwarded_links ..,
    State.links_foldl fun t cl => State.loseNames_links ..]
  exact (State.links_foldl (fun t m => State.route_links ..) _ _)
end

end Sys2Proof.Machine
end

section
/-!
Boot, entropy, power and lost links (26_platform.md R449, R452 to R454): what each event of the platform comes to, and the claim assembled
from them.
-/
namespace Sys2Proof.Machine

/-! ### The events -/

theorem exec_bootImageFetch (image : List Byte) (s : State) : exec (.bootImageFetch image) s = .next (s.bootFetch image) := rfl
theorem exec_machineCheckRecord (r : McRecord) (s : State) : exec (.machineCheckRecord r) s = .next (s.machineCheck r) := rfl
theorem exec_entropyHealthFailure (s : State) : exec .entropyHealthFailure s = .next ((s.modHub fun h => { h with entropyBad := true }).machineCheck
    { kind := 0x0104, unitType := 0, unit := 0, addr := 0, detail := 0 }) := rfl
theorem exec_powerSample (watts temp : Nat) (s : State) : exec (.powerSample watts temp) s = .next (s.powerSampled watts temp) := rfl
theorem exec_linkRetryExhausted (port : Nat) (s : State) : exec (.linkRetryExhausted port) s = .next (s.linkLost port) := rfl

/-! ### Captured inputs -/

section
variable (s : State) (cl core slot tag n : Nat) (ws : List Word)

/-- A captured input changes of the hub the trace hardware only. -/
theorem State.captureInput_hub : (s.captureInput cl core slot tag ws n).hub =
    { s.hub with trace := (s.captureInput cl core slot tag ws n).hub.trace } := by
  conv => lhs; rw [State.captureInput_frame]
@[simp] theorem State.captureInput_boot : (s.captureInput cl core slot tag ws n).hub.boot = s.hub.boot := by rw [State.captureInput_hub]
@[simp] theorem State.captureInput_slots : (s.captureInput cl core slot tag ws n).slots = s.slots := by rw [State.captureInput_frame]
@[simp] theorem State.captureInput_mem : (s.captureInput cl core slot tag ws n).mem = s.mem := by rw [State.captureInput_frame]
end

/-! ### Boot (R449) -/

/-- The slot of a management core that begins an image of n bytes. -/
def mgmtSlot (n : Nat) : Slot := { kstat := 3, phase := .running, clause := { codeSize := n } }

theorem State.startMgmt_eq (s : State) (i : Nat) : s.startMgmt i = s.setSlot ((4096 + i) * 4) (mgmtSlot s.hub.boot.image.length) := rfl

/-- The first n management cores begin the image; no other slot and no other part of the package changes. -/
theorem State.foldl_startMgmt (s : State) (n : Nat) :
    let t := (List.range n).foldl (fun s i => s.startMgmt i) s
    t.hub = s.hub ∧ t.mem = s.mem ∧ (∀ i < n, t.slot ((4096 + i) * 4) = mgmtSlot s.hub.boot.image.length) ∧
      ∀ k, (∀ i < n, k ≠ (4096 + i) * 4) → t.slot k = s.slot k := by
  induction n with
  | zero => exact ⟨rfl, rfl, fun i hi => absurd hi (Nat.not_lt_zero i), fun k _ => rfl⟩
  | succ n ih =>
    obtain ⟨hhub, hmem, hbegun, hother⟩ := ih
    rw [List.range_succ, List.foldl_append, List.foldl_cons, List.foldl_nil, State.startMgmt_eq, hhub]
    refine ⟨hhub, hmem, fun i hi => ?_, fun k hk => ?_⟩
    · by_cases h : i = n
      · rw [h, State.slot_setSlot]
      · rw [State.slot_setSlot_other _ _ _ _ (by omega)]; exact hbegun i (by omega)
    · rw [State.slot_setSlot_other _ _ _ _ (hk n (Nat.lt_succ_self n))]
      exact hother k fun i hi => hk i (Nat.lt_succ_of_lt hi)

section
variable {s : State} {image : List Byte}

theorem State.bootFetch_of_booted (h : s.hub.boot.booted = true ∨ s.ktick.toNat < s.hub.boot.fetchAt.toNat) : s.bootFetch image = s := by
  rw [State.bootFetch]
  exact if_pos (by simpa using h)

variable (hb : s.hub.boot.booted = false) (ht : s.hub.boot.fetchAt.toNat ≤ s.ktick.toNat)
include hb ht

theorem State.bootFetch_of_due : s.bootFetch image =
    if !Config.imageGenuine image then s.modBoot fun b => { b with fetchAt := s.ktick + 2000000000 }
    else (List.range 16).foldl (fun s i => s.startMgmt i)
      ((s.modBoot fun b => { b with booted := true, image := image, measure := sm3 image }).captureInput 0 0 0 inImage
        (wordsOf ((image.length + 7) / 8) image ++ wordsOf 4 (sm3 image)) (image.length / 64 + 2)) := by
  rw [State.bootFetch]
  exact if_neg (by simp [hb]; omega)

/-- A genuine image is measured, and the sixteen management cores begin it. -/
theorem State.bootFetch_of_genuine (hg : Config.imageGenuine image = true) :
    let t := s.bootFetch image
    t.hub.boot = { s.hub.boot with booted := true, image := image, measure := sm3 image } ∧ t.mem = s.mem ∧
      (∀ i < 16, t.slot ((4096 + i) * 4) = mgmtSlot image.length) ∧ ∀ k < 16384, t.slot k = s.slot k := by
  rw [State.bootFetch_of_due hb ht, if_neg (by simp [hg])]
  obtain ⟨hhub, hmem, hbegun, hother⟩ := State.foldl_startMgmt ((s.modBoot fun b =>
    { b with booted := true, image := image, measure := sm3 image }).captureInput 0 0 0 inImage
      (wordsOf ((image.length + 7) / 8) image ++ wordsOf 4 (sm3 image)) (image.length / 64 + 2)) 16
  rw [State.captureInput_boot] at hbegun
  refine ⟨?_, ?_, hbegun, fun k hk => ?_⟩
  · rw [hhub, State.captureInput_boot]; rfl
  · rw [hmem, State.captureInput_mem]; rfl
  · rw [hother k fun i _ => by omega, State.slot, State.captureInput_slots]; rfl
end

/-! ### Power and clock (R453) -/

@[simp] theorem State.setClock_hub (s : State) (mhz : Nat) : (s.setClock mhz).hub = { s.hub with mhz := mhz } := rfl
@[simp] theorem State.setClock_slots (s : State) (mhz : Nat) : (s.setClock mhz).slots = s.slots := rfl
@[simp] theorem State.setClock_mem (s : State) (mhz : Nat) : (s.setClock mhz).mem = s.mem := rfl

section
variable {s : State} {watts temp : Nat} (hcool : temp ≤ tripTemp)
include hcool

theorem State.powerSampled_of_hot (hhot : powerLimit < watts ∨ Config.tempLimit < temp) : s.powerSampled watts temp =
    ((s.modHub fun h => { h with watts := least watts 0xFFFF, tmax := least temp 0xFF }).modHub fun h => { h with coolFor := 0 }).setClock
      (greatest 1200 (s.hub.mhz - 100)) := by
  rw [State.powerSampled]
  exact (if_neg (Nat.not_lt.2 hcool)).trans (if_pos (by simpa using hhot))

variable (hlow : ¬ (powerLimit < watts ∨ Config.tempLimit < temp))
include hlow

theorem State.powerSampled_of_cool : s.powerSampled watts temp =
    let u := s.modHub fun h => { h with watts := least watts 0xFFFF, tmax := least temp 0xFF }
    if 100 ≤ s.hub.coolFor + 1 then (u.modHub fun h => { h with coolFor := 0 }).setClock (least 3600 (s.hub.mhz + 100))
    else u.modHub fun h => { h with coolFor := h.coolFor + 1 } := by
  rw [State.powerSampled]
  exact (if_neg (Nat.not_lt.2 hcool)).trans (if_neg (by simpa using hlow))
end

/-! ### Lost links (R454) -/

theorem mem_insertNat (l : List Nat) (a x : Nat) : x ∈ insertNat l a ↔ x = a ∨ x ∈ l := by
  induction l with
  | nil => rw [insertNat, List.mem_singleton]; simp
  | cons b t ih =>
    rw [insertNat]
    split
    · rename_i h; simp [h]
    · split
      · rw [List.mem_cons]
      · rw [List.mem_cons, ih, List.mem_cons]; exact or_left_comm

/-- A package that goes down is down from then on; the links are else as they were. -/
theorem State.peerDown_spec (s : State) (chip : BitVec 20) (reason : Nat) (h : chip ≠ s.hub.chipId) :
    (s.peerDown chip reason).hub.chipId = s.hub.chipId ∧ (s.peerDown chip reason).hub.lostPorts = s.hub.lostPorts ∧
      (s.peerDown chip reason).hub.down = insertNat s.hub.down chip.toNat := by
  have hlinks := s.peerDown_links chip reason h
  generalize s.peerDown chip reason = t at hlinks ⊢
  simpa only [State.links, Prod.mk.injEq] using hlinks

/-- Packages that go down one after the other are down in the end with those that were; the id of this package and its lost ports are as
before. -/
theorem State.peersDown_links (reason : Nat) (cs : List Nat) : ∀ s : State,
    let t := cs.foldl (fun s c => s.peerDown (BitVec.ofNat 20 c) reason) s
    t.hub.lostPorts = s.hub.lostPorts ∧
      ∀ c, c ∈ s.hub.down ∨ (c ∈ cs ∧ c < 2 ^ 20 ∧ c ≠ s.hub.chipId.toNat) → c ∈ t.hub.down := by
  induction cs with
  | nil => intro s; exact ⟨rfl, fun c hc => by simpa using hc⟩
  | cons d ds ih =>
    intro s
    rw [List.foldl_cons]
    by_cases hd : BitVec.ofNat 20 d = s.hub.chipId
    · rw [State.peerDown, if_pos hd]
      obtain ⟨hports, hdown⟩ := ih s
      refine ⟨hports, fun c hc => hdown c (hc.imp_right fun ⟨hmem, hlt, hne⟩ => ⟨(List.mem_cons.1 hmem).resolve_left ?_, hlt, hne⟩)⟩
      rintro rfl
      rw [← hd, BitVec.toNat_ofNat, Nat.mod_eq_of_lt hlt] at hne
      exact hne rfl
    · obtain ⟨hid, hports', hdown'⟩ := s.peerDown_spec (BitVec.ofNat 20 d) reason hd
      obtain ⟨hports, hdown⟩ := ih (s.peerDown (BitVec.ofNat 20 d) reason)
      refine ⟨hports.trans hports', fun c hc => hdown c ?_⟩
      rw [hdown', hid, mem_insertNat]
      rcases hc with hc | ⟨hmem, hlt, hne⟩
      · exact .inl (.inr hc)
      · rcases List.mem_cons.1 hmem with rfl | hmem
        · exact .inl (.inl (by rw [BitVec.toNat_ofNat, Nat.mod_eq_of_lt hlt]))
        · exact .inr ⟨hmem, hlt, hne⟩

/-- A lost port takes down every package that this one deals with and to which no route is left. -/
theorem State.linkLost_links (s : State) (port : Nat) :
    let u := s.modHub fun h => { h with lostPorts := insertNat h.lostPorts (port % 16) }
    let t := s.linkLost port
    t.hub.lostPorts = u.hub.lostPorts ∧
      ∀ c ∈ s.chipsSeen, c < 2 ^ 20 → c ≠ s.hub.chipId.toNat → u.chipDown c = true → c ∈ t.hub.down := by
  intro u
  obtain ⟨hports, hdown⟩ := u.peersDown_links 3 (u.chipsSeen.filter fun c => c != u.hub.chipId.toNat && u.chipDown c && !u.hub.down.contains c)
  refine ⟨hports, fun c hc hlt hne hlost => hdown c ?_⟩
  by_cases hin : c ∈ u.hub.down
  · exact .inl hin
  · refine .inr ⟨List.mem_filter.2 ⟨hc, ?_⟩, hlt, hne⟩
    simp only [Bool.and_eq_true, bne_iff_ne, Bool.not_eq_true', List.contains_eq_mem, decide_eq_false_iff_not]
    exact ⟨⟨hne, hlost⟩, hin⟩

end Sys2Proof.Machine

section
open Sys2Proof Sys2Proof.Machine

theorem platformEvents : Claim.PlatformEvents := by
  unfold Claim.PlatformEvents
  intro s image watts temp port b clock hot
  refine ⟨fun h => ?_, fun hb ht => ⟨fun hg => ?_, fun hg => ?_⟩, ?_, rfl, fun htrip => ?_, fun hcool hhot => ?_, fun hcool hlow h99 => ?_,
    fun hcool hlow h99 => ?_, ?_⟩
  · rw [exec_bootImageFetch, State.bootFetch_of_booted h]
  · rw [exec_bootImageFetch, State.bootFetch_of_due hb ht, hg]; rfl
  · obtain ⟨hboot, hmem, hbegun, hother⟩ := State.bootFetch_of_genuine hb ht hg
    refine ⟨_, exec_bootImageFetch image s, ?_, ?_, fun i hi => ?_, hother, hmem⟩
    · rw [hboot]
    · rw [hboot]
    · rw [hbegun i hi]; exact ⟨rfl, rfl, rfl⟩
  · refine ⟨_, exec_entropyHealthFailure s, ?_, ?_, exec_machineCheckRecord ..⟩
    · rw [State.machineCheck_frame]; rfl
    · rw [State.machineCheck_frame]; rfl
  · refine ⟨_, exec_powerSample watts temp s, ?_⟩
    rw [State.powerSampled, if_pos htrip]
    exact ⟨rfl, rfl, rfl, rfl⟩
  · refine ⟨_, exec_powerSample watts temp s, ?_⟩
    rw [State.powerSampled_of_hot hcool hhot]
    simp [clock]
  · refine ⟨_, exec_powerSample watts temp s, ?_⟩
    rw [State.powerSampled_of_cool hcool hlow]
    dsimp only
    rw [if_pos (by omega)]
    simp [clock]
  · refine ⟨_, exec_powerSample watts temp s, ?_⟩
    rw [State.powerSampled_of_cool hcool hlow]
    dsimp only
    rw [if_neg (by omega)]
    simp [clock]
  · obtain ⟨hports, hdown⟩ := s.linkLost_links port
    refine ⟨_, exec_linkRetryExhausted port s, ?_, hdown⟩
    rw [hports]
    exact (mem_insertNat ..).2 (.inl rfl)
end
end

section
/-!
Package resets and management frames (26_platform.md R448, R450, R451, 12_main_memory.md R232, 19_names.md R325): what a reset leaves, which
copy of the configuration is in force after a write, what each frame comes to, and the obligation assembled from them.
-/
namespace Sys2Proof.Machine

/-! ### The events -/

theorem exec_packageReset (s : State) : exec .packageReset s = .next (s.resetTo 0 0) := rfl
theorem exec_mgmtResetCommand (f : List Byte) (s : State) : exec (.mgmtResetCommand f) s = .next (s.frameCame f fun s => s.resetCommand f) := rfl
theorem exec_mgmtConfigurationWrite (f : List Byte) (s : State) :
    exec (.mgmtConfigurationWrite f) s = .next (s.frameCame f fun s => s.configure f) := rfl
theorem exec_mgmtAttestationRequest (f : List Byte) (s : State) :
    exec (.mgmtAttestationRequest f) s = .next (s.frameCame f fun s => s.attest f) := rfl

/-! ### The configuration in force (R450) -/

section
variable (b : Boot) (q : Word) (c : List Byte)

/-- A record of a higher sequence is in force once it is stored. -/
theorem Boot.inForce_store (h : b.sequence.toNat < q.toNat) : (b.store q c).inForce = (q, c) := by
  unfold Boot.store
  cases hu : b.useB with
  | true =>
    obtain ⟨y, hy⟩ : ∃ y, b.copyB = some y := by
      cases hb : b.copyB with
      | none => simp [Boot.useB, hb] at hu
      | some y => exact ⟨y, rfl⟩
    have hlt : y.1.toNat < q.toNat := by simpa [Boot.sequence, Boot.inForce, hu, hy] using h
    have hA : Boot.useB { b with copyA := some (q, c) } = false := by simp [Boot.useB, hy]; omega
    simp [Boot.inForce, hA]
  | false =>
    have hB : Boot.useB { b with copyB := some (q, c) } = true := by
      cases hx : b.copyA with
      | none => simp [Boot.useB]
      | some x =>
        have hlt : x.1.toNat < q.toNat := by simpa [Boot.sequence, Boot.inForce, hu, hx] using h
        simp [Boot.useB, hlt]
    simp [Boot.inForce, hB]

/-- The copy that was in force stays. -/
theorem Boot.store_keeps : if b.useB then (b.store q c).copyB = b.copyB else (b.store q c).copyA = b.copyA := by
  unfold Boot.store
  cases b.useB <;> rfl

theorem Boot.sequence_store (h : b.sequence.toNat < q.toNat) : (b.store q c).sequence = q := by rw [Boot.sequence, b.inForce_store q c h]
theorem Boot.config_store (h : b.sequence.toNat < q.toNat) : (b.store q c).config = c := by rw [Boot.config, b.inForce_store q c h]

theorem Boot.serial_store : (b.store q c).serial = b.serial := by
  unfold Boot.store
  split <;> rfl
end

/-! ### Package reset (R448) -/

/-- The bytes of the CXL tier, which lies outside the package. -/
def cxlCells (m : List Host.Cell) : List Host.Cell := m.filter fun c => decide (2 ^ 40 ≤ c.1) && decide (c.1 < 2 ^ 45)

theorem memRead_cxlCells_hbm (m : List Host.Cell) (a : Nat) (h : a < 2 ^ 40) : memRead (cxlCells m) a = 0 := by
  have hnone : ∀ c ∈ cxlCells m, c.1 ≠ a := fun c hc => by
    have hcell := (List.mem_filter.1 hc).2
    simp only [Bool.and_eq_true, decide_eq_true_eq] at hcell
    omega
  have hread := memRead_append _ [] a hnone
  rwa [List.append_nil] at hread

theorem memRead_cxlCells_cxl (m : List Host.Cell) (a : Nat) (h : 2 ^ 40 ≤ a) (h' : a < 2 ^ 45) : memRead (cxlCells m) a = memRead m a := by
  refine memRead_filter m _ a fun c _ hc => ?_
  rw [hc, decide_eq_true h, decide_eq_true h', Bool.and_true]

/-- The hub right after a reset in a MODE: a capture has its trace hardware on. -/
def Hub.restarted (h : Hub) (mode : Nat) (lba : Word) : Hub :=
  if mode = 1 then { h.kept mode lba with trace := { cfg := 0xC006000000000000 } } else h.kept mode lba

theorem Hub.restarted_eq (h : Hub) (mode : Nat) (lba : Word) :
    h.restarted mode lba = { h.kept mode lba with trace := (h.restarted mode lba).trace } := by
  unfold Hub.restarted
  split <;> rfl

/-- A reservation changes the record of the non-volatile store only. -/
theorem State.reserveNames_frame (s : State) : s.reserveNames = { s with hub := { s.hub with slots := s.reserveNames.hub.slots } } := by
  unfold State.reserveNames
  split
  · rfl
  · dsimp only; split <;> rfl

/-- Records join those of the open segment. -/
theorem State.toSegment_trace (s : State) (rs : List (List Word)) :
    (s.toSegment rs).hub.trace = { s.hub.trace with records := s.hub.trace.records ++ rs } := by
  unfold State.toSegment
  dsimp only
  split
  · rename_i h; rw [List.isEmpty_iff.1 h, List.append_nil]
  · split <;> split <;> rfl

/-- Records that do not fill the segment bring about no seal. -/
theorem State.toSegment_agenda (s : State) (rs : List (List Word))
    (h : Trace.full { s.hub.trace with records := s.hub.trace.records ++ rs } = false) : (s.toSegment rs).agenda = s.agenda := by
  unfold State.toSegment
  dsimp only
  split
  · rfl
  · split
    · rw [if_neg (by simp [h])]; rfl
    · rw [if_neg (by simp [h])]; rfl

/-- One input of at most eight words does not fill an empty segment, so that no seal is due. -/
theorem State.captureInput_agenda_of_empty (s : State) (cl core slot tag : Nat) (ws : List Word) (h : s.hub.trace.records = []) :
    (s.captureInput cl core slot tag ws 1).agenda = s.agenda := by
  have hbody : (padUnits (ws.take 8)).length ≤ 9 := by
    have := List.length_take_le 8 ws
    unfold padUnits
    split
    · rw [List.length_append, List.length_singleton]; omega
    · omega
  rw [State.captureInput]
  split
  · rfl
  · refine State.toSegment_agenda _ _ ?_
    rw [h, Trace.full]
    simp [traceUnits, segmentLimit]
    omega

theorem State.captureInput_cfg (cl core slot tag n : Nat) : ∀ (s : State) (ws : List Word),
    (s.captureInput cl core slot tag ws n).hub.trace.cfg = s.hub.trace.cfg := by
  induction n with
  | zero => intros; rfl
  | succ n ih =>
    intro s ws
    rw [State.captureInput]
    split
    · rfl
    · rw [ih, State.toSegment_trace]

/-! ### What a reset leaves -/

section
variable (s : State) (mode : Nat) (lba : Word)

/-- The package right after a reset, before its counter block is read. -/
def State.restarted : State :=
  { State.reset with hub := s.hub.restarted mode lba, mem := cxlCells s.mem, draws := s.draws }

/-- A reset that is no replay reserves the next counter block, and a capture records the block that it read. -/
theorem State.resetTo_of_ne_replay (h : mode ≠ 2) : ∃ ws : List Word,
    s.resetTo mode lba = (s.restarted mode lba).reserveNames.captureInput 0 0 0 inCounter ws 1 := by
  refine ⟨_, if_pos ?_⟩
  rw [State.captureInput_boot, State.reserveNames_frame]
  exact (congrArg (fun h => h.boot.mode ≠ 2) (s.hub.restarted_eq mode lba)).mpr h

/-- The reservation of a reset changes the record of the non-volatile store; beside it and the trace hardware the hub is what is kept. -/
theorem State.restarted_reserveNames : (s.restarted mode lba).reserveNames = { s.restarted mode lba with
    hub := { s.hub.kept mode lba with
      slots := (s.restarted mode lba).reserveNames.hub.slots, trace := (s.hub.restarted mode lba).trace } } := by
  conv => lhs; rw [State.reserveNames_frame]
  exact congrArg (fun h : Hub => { s.restarted mode lba with hub := { h with slots := (s.restarted mode lba).reserveNames.hub.slots } })
    (s.hub.restarted_eq mode lba)

/-- What a reset that is no replay leaves: beside the values of a package's reset, the bytes of the CXL tier, what the non-volatile store and the
world outside keep, the reserved block's record, and the trace hardware in its mode. -/
theorem State.resetTo_frame (h : mode ≠ 2) : ∃ (tr : Trace) (timers : List (Nat × Instr)), tr.cfg = (s.hub.restarted mode lba).trace.cfg ∧
    s.resetTo mode lba = { State.reset with
      mem := cxlCells s.mem, draws := s.draws, timers := timers,
      hub := { s.hub.kept mode lba with slots := (s.restarted mode lba).reserveNames.hub.slots, trace := tr } } := by
  obtain ⟨ws, hws⟩ := s.resetTo_of_ne_replay mode lba h
  have hempty : (s.restarted mode lba).reserveNames.hub.trace.records = [] := by
    rw [State.reserveNames_frame]
    change (s.hub.restarted mode lba).trace.records = []
    unfold Hub.restarted
    split <;> rfl
  have hcfg := State.captureInput_cfg 0 0 0 inCounter 1 (s.restarted mode lba).reserveNames ws
  have hframe := State.captureInput_frame 1 (s.restarted mode lba).reserveNames 0 0 0 inCounter ws
  rw [State.captureInput_agenda_of_empty _ 0 0 0 inCounter ws hempty] at hframe
  generalize ((s.restarted mode lba).reserveNames.captureInput 0 0 0 inCounter ws 1).hub.trace = tr at hframe hcfg
  generalize ((s.restarted mode lba).reserveNames.captureInput 0 0 0 inCounter ws 1).timers = timers at hframe
  refine ⟨tr, timers, hcfg.trans ?_, (hws.trans hframe).trans ?_⟩
  · rw [State.reserveNames_frame]; rfl
  · exact congrArg (fun u : State => { u with hub := { u.hub with trace := tr }, timers := timers }) (s.restarted_reserveNames mode lba)
end

theorem topBlock_of_second {i j : Nat} (hij : i < j) : topBlock [some i, some j] = some j := congrArg some (if_pos (Nat.le_of_lt hij))

/-- Where the second record slot holds the newest block, the first free value is the one after that block. -/
theorem Hub.reservedEnd_of_second (h : Hub) {i j : Nat} (hs : h.slots = [some i, some j]) (hij : i < j) : h.reservedEnd = (j + 1) * 2 ^ 32 := by
  simp only [Hub.reservedEnd, hs, topBlock_of_second hij]

/-- A reservation that is due goes into the slot that does not hold the newest block. -/
theorem State.reserveNames_of_second (s : State) {i j : Nat} (hs : s.hub.slots = [some i, some j]) (hij : i < j) (hj : j + 1 < 2 ^ 48)
    (hissued : s.hub.issued = s.hub.reservedEnd) : s.reserveNames.hub.slots = [some (j + 1), some j] := by
  have hblock : s.hub.reservedEnd / 2 ^ 32 = j + 1 := by
    rw [s.hub.reservedEnd_of_second hs hij, Nat.mul_div_cancel _ (Nat.two_pow_pos 32)]
  have hwith : withReserved [some i, some j] (j + 1) = [some (j + 1), some j] := by
    simp only [withReserved, topBlock_of_second hij, Option.some.injEq, if_neg (Nat.ne_of_lt hij)]
  unfold State.reserveNames
  dsimp only
  rw [hissued, if_neg (Nat.lt_irrefl _), hblock, if_neg (Nat.not_le.2 hj), State.hub_modHub, hs, hwith]

theorem State.restarted_reserves (s : State) (mode : Nat) (lba : Word) {i j : Nat} (h : s.hub.slots = [some i, some j]) (hij : i < j)
    (hj : j + 1 < 2 ^ 48) : (s.restarted mode lba).reserveNames.hub.slots = [some (j + 1), some j] := by
  have hhub : (s.restarted mode lba).hub = { s.hub.kept mode lba with trace := (s.hub.restarted mode lba).trace } :=
    s.hub.restarted_eq mode lba
  refine State.reserveNames_of_second _ (by rw [hhub]; exact h) hij hj ?_
  rw [hhub]; rfl

/-- What a package reset does to a package: everything but the bytes of the CXL tier, the serial, the configuration, the chip id, the reserved
names and a trip's mark is as after the first reset. -/
def State.FreshFrom (s t : State) : Prop :=
  t.slots = [] ∧ t.cores = [] ∧ t.clusters = [] ∧ t.stackTab = [] ∧ t.net = [] ∧ t.agenda = [] ∧ t.ktick = 0 ∧
    t.hub.launches = [] ∧ t.poison = [] ∧ t.hub.vfs = [] ∧ t.hub.off = false ∧ (∀ a < 2 ^ 40, memRead t.mem a = 0) ∧
    (∀ a, 2 ^ 40 ≤ a → a < 2 ^ 45 → memRead t.mem a = memRead s.mem a) ∧ t.hub.boot.serial = s.hub.boot.serial ∧
    t.hub.boot.config = s.hub.boot.config ∧ t.hub.chipId = s.hub.chipId ∧ t.hub.issued = s.hub.reservedEnd ∧
    t.hub.trip = (s.hub.trip && s.hub.off)

/-- A reset leaves the configuration in force and its sequence, and notes its mode. -/
theorem State.resetTo_boot (s : State) (mode : Nat) (lba : Word) (h : mode ≠ 2) :
    (s.resetTo mode lba).hub.boot.sequence = s.hub.boot.sequence ∧ (s.resetTo mode lba).hub.boot.config = s.hub.boot.config ∧
      (s.resetTo mode lba).hub.boot.mode = mode := by
  obtain ⟨tr, timers, -, hreset⟩ := s.resetTo_frame mode lba h
  rw [hreset]
  exact ⟨rfl, rfl, rfl⟩

theorem State.freshFrom_resetTo (s : State) (mode : Nat) (lba : Word) (h : mode ≠ 2) : s.FreshFrom (s.resetTo mode lba) := by
  obtain ⟨tr, timers, -, hreset⟩ := s.resetTo_frame mode lba h
  rw [hreset]
  exact ⟨rfl, rfl, rfl, rfl, rfl, rfl, rfl, rfl, rfl, rfl, rfl, memRead_cxlCells_hbm _, memRead_cxlCells_cxl _, rfl, rfl, rfl, rfl, rfl⟩

/-! ### Frames (R450) -/

/-- The first byte of a list, as a number. -/
theorem dsc_first (d : List Byte) : dsc d 0 1 = (d.getD 0 0).toNat := by
  cases d with
  | nil => rfl
  | cons b t => simp [dsc, ofBytes]

section
variable (s : State) (f : List Byte)

/-- The package that has taken a frame in: a capture has recorded it. -/
def State.frameTaken : State := s.captureInput 0 0 0 inFrame (wordsOf ((f.length + 7) / 8) f) ((f.length + 63) / 64)

theorem State.frameCame_of_diverged (g : State → State) (h : s.hub.boot.diverged = true) : s.frameCame f g = s := if_pos h
theorem State.frameCame_of_alive (g : State → State) (h : s.hub.boot.diverged = false) : s.frameCame f g = g (s.frameTaken f) :=
  if_neg (by simp [h])

@[simp] theorem State.frameTaken_boot : (s.frameTaken f).hub.boot = s.hub.boot := State.captureInput_boot ..
@[simp] theorem State.frameTaken_slots : (s.frameTaken f).slots = s.slots := State.captureInput_slots ..
@[simp] theorem State.frameTaken_mem : (s.frameTaken f).mem = s.mem := State.captureInput_mem ..
@[simp] theorem State.frameTaken_ktick : (s.frameTaken f).ktick = s.ktick := by rw [State.frameTaken, State.captureInput_frame]
theorem State.frameTaken_hub : (s.frameTaken f).hub = { s.hub with trace := (s.frameTaken f).hub.trace } := State.captureInput_hub ..

@[simp] theorem State.frameTaken_accepts (type : Nat) (g : List Byte) : (s.frameTaken f).accepts type g = s.accepts type g := by
  rw [State.accepts, State.frameTaken_boot]; rfl

/-- An accepted frame has a higher sequence than the configuration in force. -/
theorem State.sequence_lt_of_accepts {type : Nat} (h : s.accepts type f = true) : s.hub.boot.sequence.toNat < (frameSeq f).toNat := by
  rw [State.accepts, Bool.and_eq_true] at h
  exact of_decide_eq_true h.2

/-- A frame that is not accepted is counted, and changes nothing else. -/
theorem State.rejectFrame_frameTaken :
    let t := (s.frameTaken f).rejectFrame
    t.hub.boot.rejected = s.hub.boot.rejected + 1 ∧ t.hub.boot.sequence = s.hub.boot.sequence ∧ t.hub.boot.config = s.hub.boot.config ∧
      t.hub.boot.replies = s.hub.boot.replies ∧ t.slots = s.slots ∧ t.mem = s.mem := by
  have hboot : (s.frameTaken f).rejectFrame.hub.boot = { s.hub.boot with rejected := s.hub.boot.rejected + 1 } := by
    rw [← s.frameTaken_boot f]; rfl
  refine ⟨by rw [hboot], by rw [hboot]; rfl, by rw [hboot]; rfl, by rw [hboot], s.frameTaken_slots f, s.frameTaken_mem f⟩

theorem State.resetCommand_of_rejected (h : s.accepts 1 f = false) : s.resetCommand f = s.rejectFrame := if_pos (by simp [h])
theorem State.configure_of_rejected (h : s.accepts 2 f = false) : s.configure f = s.rejectFrame := if_pos (by simp [h])
theorem State.attest_of_rejected (h : frameIs 3 f = false ∨ (frameBody f).length ≠ 32) : s.attest f = s.rejectFrame :=
  if_pos (by rcases h with h | h <;> simp [h])

/-- The package that has stored the sequence of a frame with a configuration. -/
def State.recorded (c : List Byte) : State := s.modBoot fun b => b.store (frameSeq f) c

section
variable {f} {type : Nat} (h : s.accepts type f = true) (c : List Byte)

/-- A frame that is accepted leaves of the package all but the boot configuration and the captured input. -/
theorem State.recorded_frameTaken_hub : ((s.frameTaken f).recorded f c).hub =
    { s.hub with trace := (s.frameTaken f).hub.trace, boot := s.hub.boot.store (frameSeq f) c } := by
  have hboot : ((s.frameTaken f).recorded f c).hub = { (s.frameTaken f).hub with boot := s.hub.boot.store (frameSeq f) c } := by
    rw [← s.frameTaken_boot f]; rfl
  rw [hboot]
  conv => lhs; rw [State.frameTaken_hub]

@[simp] theorem State.recorded_frameTaken_slots : ((s.frameTaken f).recorded f c).slots = s.slots := s.frameTaken_slots f
@[simp] theorem State.recorded_frameTaken_mem : ((s.frameTaken f).recorded f c).mem = s.mem := s.frameTaken_mem f

include h
/-- The sequence and the configuration of an accepted frame are in force. -/
theorem State.recorded_frameTaken_inForce : ((s.frameTaken f).recorded f c).hub.boot.sequence = frameSeq f ∧
    ((s.frameTaken f).recorded f c).hub.boot.config = c := by
  rw [State.recorded_frameTaken_hub]
  exact ⟨s.hub.boot.sequence_store _ _ (s.sequence_lt_of_accepts f h), s.hub.boot.config_store _ _ (s.sequence_lt_of_accepts f h)⟩
end

/-- An accepted reset command that asks for no replay stores its sequence and resets in its MODE, where R448 lists it. -/
theorem State.resetCommand_of_accepted (h : s.accepts 1 f = true) (hmode : dsc (frameBody f) 0 1 ≠ 2) :
    s.resetCommand f = if 2 < dsc (frameBody f) 0 1 then s.recorded f s.hub.boot.config
      else (s.recorded f s.hub.boot.config).resetTo (dsc (frameBody f) 0 1) 0 := by
  rw [State.resetCommand, if_neg (by simp [h])]
  by_cases hlisted : 2 < dsc (frameBody f) 0 1
  · rw [if_pos hlisted]
    exact if_pos (by simp [hlisted])
  · rw [if_neg hlisted]
    refine (if_neg (by simp [hlisted, hmode])).trans ?_
    rw [if_neg hmode]; rfl

theorem State.configure_of_accepted (h : s.accepts 2 f = true) :
    s.configure f = s.recorded f (if (frameBody f).length = 512 then frameBody f else s.hub.boot.config) :=
  if_neg (by simp [h])

theorem State.attest_of_accepted (h : frameIs 3 f = true) (hlen : (frameBody f).length = 32) :
    s.attest f = s.modBoot fun b => { b with replies := b.replies ++ [s.replyFrame f (s.attestation (frameBody f))] } :=
  if_neg (by simp [h, hlen])
end

/-- What is fresh from a package is fresh from one that differs in its captured inputs and its stored sequence. -/
theorem State.FreshFrom.of_recorded {s t : State} {f : List Byte} (h : s.accepts 1 f = true)
    (hfresh : ((s.frameTaken f).recorded f s.hub.boot.config).FreshFrom t) : s.FreshFrom t := by
  have hconfig := (s.recorded_frameTaken_inForce h s.hub.boot.config).2
  have hserial : ((s.frameTaken f).recorded f s.hub.boot.config).hub.boot.serial = s.hub.boot.serial := by
    rw [State.recorded_frameTaken_hub]; exact s.hub.boot.serial_store _ _
  rw [State.FreshFrom, hconfig, hserial, State.recorded_frameTaken_mem, State.recorded_frameTaken_hub] at hfresh
  exact hfresh

/-! ### Attestation (R451) -/

section
variable (s : State)

theorem State.replyFrame_frameTaken (f g n : List Byte) :
    (s.frameTaken f).replyFrame g ((s.frameTaken f).attestation n) = s.replyFrame g (s.attestation n) := by
  have hattest : (s.frameTaken f).attestation n = s.attestation n := by
    rw [State.attestation, State.frameTaken_hub, State.frameTaken_ktick]; rfl
  rw [hattest, State.replyFrame, State.frameTaken_boot]; rfl

theorem Boot.measured_length (b : Boot) : b.measured.length = 32 := by
  rw [Boot.measured, List.length_take, List.length_append, List.length_replicate]; omega

/-- The fields of an attestation: the serial, the measurement, the nonce and the time, each at its place. -/
theorem State.attestation_fields (nonce : List Byte) (h : nonce.length = 32) :
    let a := s.attestation nonce
    a.take 6 = toBytes 6 s.hub.boot.serial.toNat ∧ (a.drop 72).take 32 = s.hub.boot.measured ∧ (a.drop 104).take 32 = nonce ∧
      (a.drop 136).take 8 = toBytes 8 s.ktick.toNat := by
  have hm := s.hub.boot.measured_length
  simp [State.attestation, List.drop_append, List.drop_eq_nil_of_le, hm, h]
end

/-- The capture bit of the trace hardware is set by a reset for a capture only. -/
theorem State.resetTo_capture (s : State) (lba : Word) {mode : Byte} (h : mode = 0 ∨ mode = 1) :
    bit (s.resetTo mode.toNat lba).hub.trace.cfg 62 = (mode == 1) := by
  obtain ⟨tr, timers, hcfg, hreset⟩ := s.resetTo_frame mode.toNat lba (by rcases h with rfl | rfl <;> decide)
  rw [hreset]
  change bit tr.cfg 62 = _
  rw [hcfg]
  rcases h with rfl | rfl
  · exact (by decide : bit ({} : Trace).cfg 62 = ((0 : Byte) == 1))
  · exact (by decide : bit 0xC006000000000000 62 = ((1 : Byte) == 1))

end Sys2Proof.Machine

section
open Sys2Proof Sys2Proof.Machine

theorem packageResetsAndFrames : Claim.PackageResetsAndFrames := by
  unfold Claim.PackageResetsAndFrames
  intro s f nonce b fresh counted mode
  refine ⟨?_, fun hd => ?_, fun hd => ?_, s.attestation_fields nonce⟩
  · obtain ⟨hsequence, -, hmode⟩ := s.resetTo_boot 0 0 (by decide)
    refine ⟨_, exec_packageReset s, s.freshFrom_resetTo 0 0 (by decide), hsequence, hmode, fun i j hslots hij hj => ?_⟩
    obtain ⟨tr, timers, -, hreset⟩ := s.resetTo_frame 0 0 (by decide)
    rw [hreset]
    exact s.restarted_reserves 0 0 hslots hij hj
  · rw [exec_mgmtResetCommand, exec_mgmtConfigurationWrite, exec_mgmtAttestationRequest]
    simp only [State.frameCame_of_diverged _ _ _ hd, and_self]
  · have hreset : exec (.mgmtResetCommand f) s = .next ((s.frameTaken f).resetCommand f) :=
      (exec_mgmtResetCommand f s).trans (congrArg _ (s.frameCame_of_alive f _ hd))
    have hconfigure : exec (.mgmtConfigurationWrite f) s = .next ((s.frameTaken f).configure f) :=
      (exec_mgmtConfigurationWrite f s).trans (congrArg _ (s.frameCame_of_alive f _ hd))
    have hattest : exec (.mgmtAttestationRequest f) s = .next ((s.frameTaken f).attest f) :=
      (exec_mgmtAttestationRequest f s).trans (congrArg _ (s.frameCame_of_alive f _ hd))
    have htaken (type : Nat) : (s.frameTaken f).accepts type f = s.accepts type f := s.frameTaken_accepts f type f
    refine ⟨fun ha => ?_, fun ha => ?_, fun ha => ?_, fun ha hmode => ?_, fun ha hmode => ?_, fun ha => ?_, fun ha hlen => ?_⟩
    · rw [State.resetCommand_of_rejected _ _ ((htaken 1).trans ha)] at hreset
      exact ⟨_, hreset, s.rejectFrame_frameTaken f⟩
    · rw [State.configure_of_rejected _ _ ((htaken 2).trans ha)] at hconfigure
      exact ⟨_, hconfigure, s.rejectFrame_frameTaken f⟩
    · rw [State.attest_of_rejected _ _ ha] at hattest
      exact ⟨_, hattest, s.rejectFrame_frameTaken f⟩
    · have hne : mode.toNat ≠ 2 := by rcases hmode with h | h <;> rw [h] <;> decide
      have hle : ¬ 2 < mode.toNat := by rcases hmode with h | h <;> rw [h] <;> decide
      rw [State.resetCommand_of_accepted _ _ ((htaken 1).trans ha) (by rwa [dsc_first]), dsc_first, if_neg hle, State.frameTaken_boot] at hreset
      obtain ⟨hsequence, -, hmoded⟩ := State.resetTo_boot ((s.frameTaken f).recorded f b.config) mode.toNat 0 hne
      exact ⟨_, hreset, (State.freshFrom_resetTo _ _ _ hne).of_recorded ha, hsequence.trans (s.recorded_frameTaken_inForce ha _).1, hmoded,
        State.resetTo_capture _ _ hmode⟩
    · rw [State.resetCommand_of_accepted _ _ ((htaken 1).trans ha) (by rw [dsc_first]; exact Nat.ne_of_gt hmode), dsc_first, if_pos hmode,
        State.frameTaken_boot] at hreset
      exact ⟨_, hreset, (s.recorded_frameTaken_inForce ha _).1, s.recorded_frameTaken_slots _, s.recorded_frameTaken_mem _⟩
    · rw [State.configure_of_accepted _ _ ((htaken 2).trans ha), State.frameTaken_boot] at hconfigure
      obtain ⟨hsequence, hconfig⟩ := s.recorded_frameTaken_inForce ha (if (frameBody f).length = 512 then frameBody f else b.config)
      refine ⟨_, hconfigure, hsequence, s.recorded_frameTaken_slots _, s.recorded_frameTaken_mem _, ?_, hconfig⟩
      rw [State.recorded_frameTaken_hub]
      exact b.store_keeps _ _
    · rw [State.attest_of_accepted _ _ ha hlen, State.replyFrame_frameTaken] at hattest
      refine ⟨_, hattest, s.frameTaken_slots f, s.frameTaken_mem f, ?_⟩
      change (s.frameTaken f).hub.boot.replies ++ _ = _
      rw [State.frameTaken_boot]

/-- Settles O58: a reset is read off `State.resetTo_frame` and a frame off the configuration that is in force after it; the links after a lost
port are those of `State.linkLost_links`. -/
theorem packageEvents : Obligations.PackageEvents := ⟨packageResetsAndFrames, platformEvents⟩
end
end

section
/-!
Near stores and the forwarding table (14_ordering.md R245, R248, 11_memory_access.md R195, R196): where the bytes of a near store go, what
the write of the oldest entry changes, and the obligation read off those equations.
-/
namespace Sys2Proof.Machine

theorem exec_forwardingEntryWrite (k : Nat) (s : State) : exec (.forwardingEntryWrite k) s = .next (s.drainOne k) := rfl

/-! ### Bytes that are in memory -/

section
variable {s t : State} {a : Nat} {bs : List Byte} (h : t.mem = memWriteBytes s.mem a bs)
include h

theorem State.bytes_of_written (hwf : Memory.wf s.mem = true) : t.bytes a bs.length = bs := by
  rw [State.bytes, h, memBytes_memWriteBytes _ _ _ hwf]

theorem State.memRead_of_written {b : Nat} (hb : b < a ∨ a + bs.length ≤ b) : memRead t.mem b = memRead s.mem b := by
  rw [h, memRead_memWriteBytes_other _ _ _ _ hb]
end

/-! ### Where a near store goes (R245) -/

section
variable (s : State) (k a cl : Nat) (bs : List Byte)

/-- The operand store and the own stripe take the bytes at once. -/
theorem State.nearStore_atOnce {t : Near} (h : t = .operand a ∨ (t = .pad a cl ∧ cl / 128 % 8 = coreOf k % 8)) :
    s.nearStore k t bs =
      { s.storeBytes a bs with nearBad := clearBad s.nearBad a bs.length, nearWeak := clearBad s.nearWeak a bs.length } := by
  rcases h with rfl | ⟨rfl, hown⟩
  · rfl
  · exact if_pos (beq_of_eq hown)

/-- Another stripe waits for the bytes in the slot's forwarding table. -/
theorem State.nearStore_forwarded (h : cl / 128 % 8 ≠ coreOf k % 8) :
    s.nearStore k (.pad a cl) bs =
      (s.modSlot k fun sl => { sl with fwd := sl.fwd ++ [{ addr := cl, bytes := bs }] }).post (.forwardingEntryWrite k) :=
  if_neg (by rw [beq_iff_eq]; exact h)
end

/-! ### The oldest entry reaches its stripe (R248) -/

theorem State.nudge_frame (s : State) (k : Nat) : s.nudge k = { s with agenda := (s.nudge k).agenda } := by
  unfold State.nudge; split <;> rfl

/-- A written entry has left the table and is in its stripe; besides, near errors that it covers are over, an outbound queue counts it no
longer, and events are owed. -/
theorem State.drainOne_frame {s : State} {k : Nat} {f : Fwd} {rest : List Fwd} (h : (s.slot k).fwd = f :: rest) :
    s.drainOne k = { s with
      slots := s.slots.set k { s.slot k with fwd := rest },
      mem := memWriteBytes s.mem (padAddr (clusterOf (coreOf k)) f.addr) f.bytes, stored := (s.drainOne k).stored,
      nearBad := (s.drainOne k).nearBad, nearWeak := (s.drainOne k).nearWeak, cores := (s.drainOne k).cores, agenda := (s.drainOne k).agenda } := by
  unfold State.drainOne
  dsimp only
  rw [h]
  dsimp only
  rw [State.nudge_frame]
  rfl

section
variable {s : State} {k : Nat} {f : Fwd} {rest : List Fwd} (h : (s.slot k).fwd = f :: rest)
include h

theorem State.drainOne_mem : (s.drainOne k).mem = memWriteBytes s.mem (padAddr (clusterOf (coreOf k)) f.addr) f.bytes := by
  rw [State.drainOne_frame h]

theorem State.slot_drainOne : (s.drainOne k).slot k = { s.slot k with fwd := rest } := by
  rw [State.drainOne_frame h]; exact Tab.get_set_same ..

theorem State.slot_drainOne_other {j : Nat} (hj : j ≠ k) : (s.drainOne k).slot j = s.slot j := by
  rw [State.drainOne_frame h]; exact Tab.get_set_other _ _ _ _ _ hj
end

end Sys2Proof.Machine

section
open Sys2Proof Sys2Proof.Machine

theorem nearStoreWritesItsBytes : Claim.NearStoreWritesItsBytes := by
  unfold Claim.NearStoreWritesItsBytes
  intro s a cl bs hwf
  refine ⟨fun t ht => ?_, fun hother => ?_⟩
  · rw [s.nearStore_atOnce s.cur a cl bs ht]
    exact ⟨State.bytes_of_written rfl hwf, fun b hb => State.memRead_of_written rfl hb, Memory.wf_memWriteBytes _ _ _ hwf, rfl⟩
  · intro t
    have ht : t = _ := s.nearStore_forwarded s.cur a cl bs hother
    have hsl : t.sl = { s.sl with fwd := s.sl.fwd ++ [{ addr := cl, bytes := bs }] } := by
      rw [ht, State.sl_post]; exact State.slot_modSlot ..
    refine ⟨by rw [ht]; rfl, by rw [hsl], by rw [hsl], fun k hk => ?_⟩
    rw [ht, State.slot_post]; exact State.slot_modSlot_other _ _ _ _ hk

theorem forwardingEntryReachesItsStripe : Claim.ForwardingEntryReachesItsStripe := by
  unfold Claim.ForwardingEntryReachesItsStripe
  intro s k f rest hf hwf a
  have hmem := State.drainOne_mem hf
  have hslot := State.slot_drainOne hf
  exact ⟨s.drainOne k, exec_forwardingEntryWrite k s, by rw [hslot], State.bytes_of_written hmem hwf,
    fun b hb => State.memRead_of_written hmem hb, fun j hj => State.slot_drainOne_other hf hj, fun r => by rw [hslot]; exact ⟨rfl, rfl⟩⟩

/-- Settles O38: a near store is one of the two equations `State.nearStore_atOnce` and `State.nearStore_forwarded`, the write of an entry
is `State.drainOne_frame`, and the memory of both is a write of many bytes. -/
theorem nearStoresAreForwarded : Obligations.NearStoresAreForwarded := ⟨nearStoreWritesItsBytes, forwardingEntryReachesItsStripe⟩
end
end

section
/-!
Fences and tile ownership (14_ordering.md R249 to R253, 11_memory_access.md R208): what the wait set of a fence asks for, what a pending
fence holds, what each ordering instruction does where its checks pass, and the obligation assembled from them.
-/
namespace Sys2Proof.Machine

/-! ### Wait sets (R246) -/

theorem State.released_iff (s : State) (k scope : Nat) :
    s.released k scope = true ↔ s.waitSet k scope = [] ∧ (s.slot k).fwd = [] ∧ (s.slot k).nearFills = [] := by
  simp only [State.released, Bool.and_eq_true, List.isEmpty_iff, and_assoc]

theorem Slot.nearFills_of_readsFilled {sl : Slot} (h : sl.readsFilled = true) : sl.nearFills = [] := by
  rw [Slot.readsFilled, Bool.and_eq_true, List.isEmpty_iff] at h
  exact h.2

/-! ### Pending fences (R250, R208) -/

theorem bitOf_eq_true_iff (v i : Nat) : bitOf v i = true ↔ v / 2 ^ i % 2 = 1 := by rw [bitOf, beq_iff_eq]

/-- A test that asks nothing where its condition fails. -/
theorem not_or_eq_true_iff (b c : Bool) : (!b || c) = true ↔ (b = true → c = true) := by
  cases b
  · exact ⟨fun _ hb => (nomatch hb), fun _ => rfl⟩
  · exact ⟨fun hc _ => hc, fun hc => hc rfl⟩

section
variable {s : State} {bits scope : Nat} (h : s.sl.fence = some (bits, scope))
include h

/-- Each bit of a pending fence holds an access until what it stands for is over: an acquire, a sequentially consistent store, a release. -/
theorem State.fenceReady_iff (write : Bool) :
    s.fenceReady write = true ↔
      ((bits % 2 = 1 → s.sl.readsFilled = true) ∧ (bits / 4 % 2 = 1 → s.sl.acked = true ∧ s.sl.fwd = []) ∧
        (write = true → bits / 2 % 2 = 1 → s.waitSet s.cur scope = [] ∧ s.sl.fwd = [] ∧ s.sl.nearFills = [])) := by
  have hacquire : (!bitOf bits 0 || s.sl.readsFilled) = true ↔ (bits % 2 = 1 → s.sl.readsFilled = true) := by
    rw [not_or_eq_true_iff, bitOf_eq_true_iff, Nat.pow_zero, Nat.div_one]
  have hstore : (!bitOf bits 2 || (s.sl.acked && s.sl.fwd.isEmpty)) = true ↔ (bits / 4 % 2 = 1 → s.sl.acked = true ∧ s.sl.fwd = []) := by
    rw [not_or_eq_true_iff, bitOf_eq_true_iff, Bool.and_eq_true, List.isEmpty_iff, show bits / 4 = bits / 2 ^ 2 from rfl]
  have hrelease : (!(write && bitOf bits 1) || s.released s.cur scope) = true ↔
      (write = true → bits / 2 % 2 = 1 → s.waitSet s.cur scope = [] ∧ s.sl.fwd = [] ∧ s.sl.nearFills = []) := by
    rw [not_or_eq_true_iff, Bool.and_eq_true, bitOf_eq_true_iff, State.released_iff, and_imp]
    exact Iff.rfl
  rw [State.fenceReady, h]
  dsimp only
  rw [Bool.and_eq_true, Bool.and_eq_true, hacquire, hstore, hrelease, and_assoc]

/-- An access that passes a fence leaves a release standing where it does not write. -/
theorem State.passFence_of_pending (write : Bool) :
    s.passFence write = s.modCur fun sl => { sl with fence := if write = false ∧ bits / 2 % 2 = 1 then some (2, scope) else none } := by
  rw [State.passFence, h]
  simp only [Bool.and_eq_true, Bool.not_eq_true', bitOf_eq_true_iff, Nat.pow_one]
end

/-- An access that has to wait stalls. -/
theorem State.ordered_of_waiting {s : State} {write : Bool} (h : s.fenceReady write = false) (f : State → Res State) :
    s.ordered write f = .stall := by
  rw [State.ordered, stallUnless_neg h, Res.bind_stall]

/-- An access that need not wait goes on with the fences passed. -/
theorem State.ordered_of_ready {s : State} {write : Bool} (h : s.fenceReady write = true) (f : State → Res State) :
    s.ordered write f = f (s.passFence write) := by
  rw [State.ordered, stallUnless_pos h, Res.bind_ok]

/-! ### `fen` (R249, R250) -/

theorem bitsOf_lowest (v n : Nat) : bitsOf v 0 n = v % 2 ^ n := by rw [bitsOf, Nat.pow_zero, Nat.div_one]

theorem State.passFull_of_unfenced {s : State} (h : Unfenced s) (scope : Nat) : s.passFull scope = s := by
  rw [State.passFull, h]

/-- A full fence leaves a pending release of a wider scope only. -/
theorem State.passFull_of_release {s : State} {u : Nat} (h : s.sl.fence = some (2, u)) (scope : Nat) :
    s.passFull scope = s.modCur fun sl => { sl with fence := if scope < u then some (2, u) else none } := by
  have hleft : fenceLeft 2 u scope = if scope < u then some (2, u) else none := by
    have hacq : bitOf 2 2 = false := rfl
    have hrel : bitOf 2 1 = true := rfl
    by_cases hu : scope < u
    · rw [fenceLeft, hacq, hrel, decide_eq_true hu, if_pos hu]; rfl
    · rw [fenceLeft, hacq, hrel, decide_eq_false hu, if_neg hu]; rfl
  rw [State.passFull, h]
  dsimp only
  rw [hleft]

section
variable {s : State} {k : KOps} (hr : Ready s [] [])
include hr

/-- `fen.aq` and `fen.rl` complete at once, and join the pending fences. -/
theorem exec_fen_of_pending (hk : k.rs2.toNat % 4 ≠ 3) :
    exec (.fen k) s = .next (s.modCur fun sl => (sl.addFence (k.rs2.toNat % 4) (k.rs2.toNat / 4 % 4)).complete) := by
  change execFen k s = _
  rw [execFen, State.run_of_ready _ _ _ hr, bitsOf_lowest, if_neg (show ¬ k.rs2.toNat % 2 ^ 2 = 3 from hk)]
  rfl

/-- `fen.sc` is a full fence at its scope. -/
theorem exec_fen_of_full (hk : k.rs2.toNat % 4 = 3) : exec (.fen k) s = .next (s.settle (s.fullFence (k.rs2.toNat / 4 % 4))) := by
  change execFen k s = _
  rw [execFen, State.run_of_ready _ _ _ hr, bitsOf_lowest, if_pos (show k.rs2.toNat % 2 ^ 2 = 3 from hk)]
  rfl
end

section
variable {s : State} {scope : Nat}

/-- A full fence whose wait set is complete goes on. -/
theorem State.fullFence_of_complete (hw : s.waitSet s.cur scope = []) (hf : s.sl.fwd = []) (hread : s.sl.readsFilled = true) :
    s.fullFence scope = .ok ((s.passFull scope).complete) := by
  have hrel : s.released s.cur scope = true := (s.released_iff _ _).2 ⟨hw, hf, Slot.nearFills_of_readsFilled hread⟩
  rw [State.fullFence, hrel, hread, Bool.and_self, stallUnless_true, Res.bind_ok]

/-- A full fence stands while a request of its wait set, a near store or a near read is on its way. -/
theorem State.fullFence_of_waiting (h : s.waitSet s.cur scope ≠ [] ∨ s.sl.fwd ≠ [] ∨ s.sl.nearFills ≠ []) : s.fullFence scope = .stall := by
  have hrel : s.released s.cur scope = false := by
    rw [Bool.eq_false_iff, ne_eq, State.released_iff]
    rintro ⟨hw, hf, hn⟩
    exact h.elim (· hw) (·.elim (· hf) (· hn))
  rw [State.fullFence, hrel, Bool.false_and, stallUnless_false, Res.bind_stall]
end

/-! ### `own` and `ownw` (R251 to R253) -/

/-- An address in the scratchpad of the issuing core's cluster (R252). -/
def InScratchpad (a : Word) : Prop :=
  fld a 48 16 = 0 ∧ isNear a.toNat = true ∧ 0x1000000 ≤ a.toNat % 2 ^ 44 ∧ a.toNat % 2 ^ 44 < 0x1000000 + 0x300000

/-- The range test of R252. -/
theorem inScratchpad_iff {a : Word} (h : fld a 48 16 = 0) :
    (isNear a.toNat && decide (padBase ≤ fld a 0 44) && decide (fld a 0 44 < padBase + padSize)) = true ↔ InScratchpad a := by
  rw [Bool.and_eq_true, Bool.and_eq_true, decide_eq_true_iff, decide_eq_true_iff, fld, bitsOf_lowest, and_assoc]
  exact ⟨fun hin => ⟨h, hin⟩, fun hin => hin.2⟩

theorem ownTile_of_inScratchpad {a : Word} (h : InScratchpad a) : ownTile a = .ok ((a.toNat % 2 ^ 44 - 0x1000000) / 4096) := by
  rw [ownTile, require_pos (beq_of_eq h.1), Res.bind_ok]
  dsimp only
  rw [require_pos ((inScratchpad_iff h.1).2 h), Res.bind_ok, fld, bitsOf_lowest, padBase]

theorem ownTile_of_outside {a : Word} (ha : fld a 48 16 = 0) (h : ¬ InScratchpad a) : ownTile a = .trap 0x72 a := by
  rw [ownTile, require_pos (beq_of_eq ha), Res.bind_ok]
  dsimp only
  rw [require_neg (Bool.eq_false_iff.2 fun hin => h ((inScratchpad_iff ha).1 hin)), Res.bind_trap]

/-- Whatever would follow it, an address outside the scratchpad raises 0x72. -/
theorem State.settle_bind_outside (s : State) {a : Word} (ha : fld a 48 16 = 0) (h : ¬ InScratchpad a) (f : Nat → Res State) :
    s.settle ((ownTile a).bind f) = s.trap 0x72 a := by
  rw [ownTile_of_outside ha h, Res.bind_trap, State.settle_trap, State.raise_of_ne _ _ (by decide)]

section
variable {s : State} {k : KOps} (hr : Ready s [x1 k] [])
include hr

theorem exec_own_of_outside (ha : fld (s.sl.xr k.rs1.toNat) 48 16 = 0) (h : ¬ InScratchpad (s.sl.xr k.rs1.toNat)) :
    exec (.own k) s = .next (s.trap 0x72 (s.sl.xr k.rs1.toNat)) := by
  change execOwn k s = _
  rw [execOwn, State.run_of_ready _ _ _ hr]
  dsimp only
  rw [s.settle_bind_outside ha h]

theorem exec_ownw_of_outside (ha : fld (s.sl.xr k.rs1.toNat) 48 16 = 0) (h : ¬ InScratchpad (s.sl.xr k.rs1.toNat)) :
    exec (.ownw k) s = .next (s.trap 0x72 (s.sl.xr k.rs1.toNat)) := by
  change execOwnw k s = _
  rw [execOwnw, State.run_of_ready _ _ _ hr, s.settle_bind_outside ha h]

variable {t : Nat} (ht : ownTile (s.sl.xr k.rs1.toNat) = .ok t)
include ht

/-- `own` of an ENGINE tile raises 0xA0. -/
theorem exec_own_of_engine (he : (s.cluster (clusterOf s.curCore)).owner.get t false = true) :
    exec (.own k) s = .next (s.trap 0xA0 (s.sl.xr k.rs1.toNat)) := by
  change execOwn k s = _
  rw [execOwn, State.run_of_ready _ _ _ hr]
  dsimp only
  rw [ht, Res.bind_ok, he, Bool.not_true, require_false, Res.bind_trap, State.settle_trap, State.raise_of_ne _ _ (by decide)]

/-- `own` gives a THREAD tile that no near store is on its way to to the engines. -/
theorem exec_own_of_thread (he : (s.cluster (clusterOf s.curCore)).owner.get t false = false) (hu : Unfenced s)
    (hbusy : s.tileBusy (clusterOf s.curCore) t = false) :
    exec (.own k) s = .next ((s.modCluster (clusterOf s.curCore) fun c => { c with owner := c.owner.set t true }).complete) := by
  change execOwn k s = _
  rw [execOwn, State.run_of_ready _ _ _ hr]
  dsimp only
  rw [ht, Res.bind_ok, he, Bool.not_false, require_true, Res.bind_ok, State.ordered_unfenced _ _ _ hu, hbusy, Bool.not_false,
    stallUnless_true, Res.bind_ok, State.settle_ok]

/-- `ownw` stands at an ENGINE tile. -/
theorem exec_ownw_of_engine (he : (s.cluster (clusterOf s.curCore)).owner.get t false = true) : exec (.ownw k) s = .next s := by
  change execOwnw k s = _
  rw [execOwnw, State.run_of_ready _ _ _ hr, ht, Res.bind_ok, he, Bool.not_true, stallUnless_false, Res.bind_stall, State.settle_stall]

/-- `ownw` completes at a THREAD tile. -/
theorem exec_ownw_of_thread (he : (s.cluster (clusterOf s.curCore)).owner.get t false = false) : exec (.ownw k) s = .next s.complete := by
  change execOwnw k s = _
  rw [execOwnw, State.run_of_ready _ _ _ hr, ht, Res.bind_ok, he, Bool.not_false, stallUnless_true, Res.bind_ok, State.settle_ok]
end

end Sys2Proof.Machine

section
open Sys2Proof Sys2Proof.Machine

theorem fencesAndOwnership : Claim.FencesAndOwnership := by
  unfold Claim.FencesAndOwnership
  intro s k kind scope a off cl t inPad
  refine ⟨fun hr => ⟨exec_fen_of_pending hr, fun hk hw hf hread => ?_, fun hk hwait => ?_⟩, fun hr => ?_⟩
  · rw [exec_fen_of_full hr hk, State.fullFence_of_complete hw hf hread, State.settle_ok]
    exact ⟨fun hu => by rw [State.passFull_of_unfenced hu], fun u hu => by rw [State.passFull_of_release hu]⟩
  · rw [exec_fen_of_full hr hk, State.fullFence_of_waiting hwait, State.settle_stall]
  · have htile (hin : inPad) : ownTile a = .ok t := ownTile_of_inScratchpad hin
    refine ⟨fun ha hout => ?_, fun hin he => ?_, fun hin he => ?_, fun hin he hu hbusy => ?_⟩
    · exact ⟨exec_own_of_outside hr ha hout, exec_ownw_of_outside hr ha hout⟩
    · exact ⟨exec_own_of_engine hr (htile hin) he, exec_ownw_of_engine hr (htile hin) he⟩
    · exact exec_ownw_of_thread hr (htile hin) he
    · exact exec_own_of_thread hr (htile hin) he hu hbusy

theorem pendingFencesHoldTheNextAccess : Claim.PendingFencesHoldTheNextAccess := by
  unfold Claim.PendingFencesHoldTheNextAccess
  intro s bits scope write hf
  refine ⟨State.fenceReady_iff hf write, fun f hwait => State.ordered_of_waiting hwait f, fun f hready => ?_⟩
  rw [State.ordered_of_ready hready, State.passFence_of_pending hf]

/-- Settles O46: `fen`, `own` and `ownw` case by case, the full fence read off its wait set (`State.released_iff`), and each bit of a
pending fence read off `State.fenceReady_iff`. -/
theorem fences : Obligations.Fences := ⟨fencesAndOwnership, pendingFencesHoldTheNextAccess⟩
end
end

section
/-!
Fabric reduction windows at their home (15_sync.md R273 to R276, 24_system.md R424): what a change of one window leaves of the others, what
the window operations keep of memory and of the slots, the steps of a declaration, and the obligation assembled from them.
-/
namespace Sys2Proof.Machine

/-! ### The events -/

theorem exec_fabricCombine_of_homed {s : State} {id : Nat} {m : Msg} {w : Window} (hh : s.holder m = none)
    (hw : s.homedWindow id = some w) : exec (.fabricCombine id m) s = .next (s.contribute w m) := by
  change execFabricCombine id m s = _
  rw [State.homedWindow] at hw
  rw [execFabricCombine, State.atHome_of_free _ _ _ hh, hw]

theorem exec_contributorWithdrawal (id : Nat) (chip : BitVec 20) (s : State) :
    exec (.contributorWithdrawal id chip) s = .next (s.withdraw id chip) := rfl
theorem exec_wincmdDeclare (id : Nat) (s : State) : exec (.wincmdDeclare id) s = .next (s.windowDeclare id) := rfl
theorem exec_wincmdRedeclare (id : Nat) (s : State) : exec (.wincmdRedeclare id) s = .next (s.windowRedeclare id) := rfl
theorem exec_wincmdRemove (id : Nat) (s : State) : exec (.wincmdRemove id) s = .next (s.windowRemove id) := rfl

/-! ### Messages: only a reduction into another chip's window changes the hub -/

section
variable (s : State) (m : Msg)

theorem State.portSend_hub (h : m.kind ≠ 0x31) : (s.portSend m).hub = s.hub := by
  rw [State.portSend, State.foreignWindow, if_neg h]

theorem State.route_hub (h : m.kind ≠ 0x31) : (s.route m).hub = s.hub := by
  unfold State.route
  split
  · rfl
  · split
    · split
      · rfl
      · split
        · split
          · rfl
          · dsimp only; split <;> rfl
        · rfl
    · exact s.portSend_hub m h

/-- Watches that are compared send resumes. -/
theorem State.checkWatches_hub (u line : Nat) : (s.checkWatches u line).hub = s.hub := by
  unfold State.checkWatches State.fireAll
  exact List.foldlRecOn (motive := fun t : State => t.hub = s.hub) _ _ rfl fun t ht a _ =>
    (State.route_hub t _ (show (0x02 : BitVec 8) ≠ 0x31 by decide)).trans ht

/-- The notices of a withdrawal are messages only. -/
theorem State.noticeLost_keeps (w : Window) (chip : BitVec 20) :
    (s.noticeLost w chip).hub = s.hub ∧ (s.noticeLost w chip).mem = s.mem ∧ (s.noticeLost w chip).slots = s.slots := by
  unfold State.noticeLost
  refine List.foldlRecOn (motive := fun t : State => t.hub = s.hub ∧ t.mem = s.mem ∧ t.slots = s.slots) _ _ ⟨rfl, rfl, rfl⟩ fun t ht a _ => ?_
  obtain ⟨hhub, hmem, hslots⟩ := ht
  dsimp only
  split
  · exact ⟨hhub, hmem, hslots⟩
  · refine ⟨(State.route_hub t _ (show (0x0D : BitVec 8) ≠ 0x31 by decide)).trans hhub, ?_, ?_⟩
    · rw [State.route_frame]; exact hmem
    · rw [State.route_frame]; exact hslots
end

/-! ### Writes of the device do not look at the hub -/

theorem State.clearUnits_setHub (h : Hub) (w : Nat) : ∀ (n : Nat) (s : State) (a : Nat),
    State.clearUnits { s with hub := h } a w n = { s.clearUnits a w n with hub := h } := by
  intro n; induction n with
  | zero => intros; rfl
  | succ n ih =>
    intro s a
    rw [State.clearUnits, State.clearUnits, ← ih, show State.media { s with hub := h } a = s.media a from rfl]
    cases s.media a <;> rfl

theorem State.devPut_setHub (h : Hub) (bs : List Byte) : ∀ (s : State) (a : Nat),
    State.devPut { s with hub := h } a bs = { s.devPut a bs with hub := h } := by
  induction bs with
  | nil => intros; rfl
  | cons b t ih =>
    intro s a
    rw [State.devPut, State.devPut, ← ih, show State.media { s with hub := h } a = s.media a from rfl]
    cases s.media a with
    | none => rfl
    | some m => dsimp only; split <;> rfl

theorem State.devWrite_setHub (s : State) (h : Hub) (a : Nat) (bs : List Byte) :
    State.devWrite { s with hub := h } a bs = { s.devWrite a bs with hub := h } := by
  rw [State.devWrite, State.devWrite, ← State.devPut_setHub]
  congr 1
  unfold State.clearWhole
  rw [show State.media { s with hub := h } a = s.media a from rfl]
  dsimp only
  split
  · rfl
  · rw [State.clearUnits_setHub]

theorem State.sameMedia_setHub (s : State) (h : Hub) : s.SameMedia { s with hub := h } := ⟨rfl, fun _ => rfl⟩

theorem State.checkLines_keeps : ∀ (n : Nat) (s : State) (line : Nat),
    (s.checkLines line n).hub = s.hub ∧ (s.checkLines line n).mem = s.mem ∧ (s.checkLines line n).slots = s.slots := by
  intro n; induction n with
  | zero => intros; exact ⟨rfl, rfl, rfl⟩
  | succ n ih =>
    intro s line
    obtain ⟨hhub, hmem, hslots⟩ := ih (s.checkWatches (s.homeUnit (64 * line)) line) (line + 1)
    refine ⟨hhub.trans (State.checkWatches_hub ..), hmem.trans ?_, hslots.trans ?_⟩ <;> rw [State.checkWatches_frame]

/-- A unit's write of bytes changes memory as `State.devWrite` does, and no slot or part of the hub. -/
theorem State.devStore_keeps (s : State) (a : Nat) (bs : List Byte) :
    (s.devStore a bs).hub = s.hub ∧ (s.devStore a bs).mem = (s.devWrite a bs).mem ∧ (s.devStore a bs).slots = s.slots := by
  obtain ⟨hhub, hmem, hslots⟩ := State.checkLines_keeps ((a + bs.length + 63) / 64 - a / 64) (s.devWrite a bs) (a / 64)
  exact ⟨hhub.trans (s.devWrite_hub a bs), hmem, hslots.trans (s.devWrite_slots a bs)⟩

/-- The bytes of memory that a write leaves do not depend on the hub. -/
theorem State.devStore_setHub_mem (s : State) (h : Hub) (a : Nat) (bs : List Byte) :
    (State.devStore { s with hub := h } a bs).mem = (s.devStore a bs).mem := by
  obtain ⟨-, hmem, -⟩ := State.devStore_keeps s a bs
  obtain ⟨-, hmem', -⟩ := State.devStore_keeps { s with hub := h } a bs
  rw [hmem', State.devWrite_setHub, hmem]

/-- A state that differs from another in its hub at most. -/
def State.HubChanged (s t : State) : Prop := t = { s with hub := t.hub }

theorem State.hubChanged_modHub (s : State) (f : Hub → Hub) : s.HubChanged (s.modHub f) := rfl

theorem State.hubChanged_modWindow (s : State) (id : Nat) (f : Window → Window) : s.HubChanged (s.modWindow id f) := s.hubChanged_modHub _

theorem State.HubChanged.trans {s t u : State} (h : s.HubChanged t) (h' : t.HubChanged u) : s.HubChanged u := by
  rw [State.HubChanged] at h h' ⊢
  rw [h', h]

theorem State.HubChanged.mem {s t : State} (h : s.HubChanged t) : t.mem = s.mem := by rw [h]
theorem State.HubChanged.slots {s t : State} (h : s.HubChanged t) : t.slots = s.slots := by rw [h]

/-! ### The windows that a chip homes -/

section
variable {s : State} {id : Nat} {w : Window}

theorem State.homedWindow_eq_some (h : s.homedWindow id = some w) : w.home = s.hub.chipId ∧ w.id = id := by
  simpa using List.find?_some h

theorem State.homedWindow_modHub (f : Hub → Hub) (hchip : (f s.hub).chipId = s.hub.chipId) (hwin : (f s.hub).windows = s.hub.windows) :
    (s.modHub f).homedWindow id = s.homedWindow id := by
  rw [State.homedWindow, State.hub_modHub, hchip, hwin, State.homedWindow]

/-- A change that keeps a window's home and number is found where the window was. -/
theorem State.homedWindow_modWindow (f : Window → Window) (hf : ∀ w, (f w).home = w.home ∧ (f w).id = w.id) :
    (s.modWindow id f).homedWindow id = (s.homedWindow id).map f := by
  have hfind : ∀ l : List Window, (l.map fun w => if w.home = s.hub.chipId && w.id == id then f w else w).find?
      (fun w => w.home == s.hub.chipId && w.id == id) = (l.find? fun w => w.home == s.hub.chipId && w.id == id).map f := by
    intro l; induction l with
    | nil => rfl
    | cons y t ih =>
      by_cases hy : y.home = s.hub.chipId ∧ y.id = id
      · simp [hy, hf]
      · have hno : (y.home == s.hub.chipId && y.id == id) = false := by simpa using hy
        have hno' : ¬ (decide (y.home = s.hub.chipId) && y.id == id) = true := by simpa using hy
        rw [List.map_cons, if_neg hno', List.find?_cons_of_neg (by rw [hno]; decide), ih, List.find?_cons_of_neg (by rw [hno]; decide)]
  exact hfind s.hub.windows

theorem State.homedWindow_modWindow_some (f : Window → Window) (hf : ∀ w, (f w).home = w.home ∧ (f w).id = w.id)
    (h : s.homedWindow id = some w) : (s.modWindow id f).homedWindow id = some (f w) := by
  rw [State.homedWindow_modWindow f hf, h, Option.map_some]

/-- A change of a window that is then dropped leaves no trace. -/
theorem State.dropWindow_modWindow (f : Window → Window) (hf : ∀ w, (f w).home = w.home ∧ (f w).id = w.id) :
    (s.modWindow id f).dropWindow id = s.dropWindow id := by
  have hfilter : ∀ l : List Window, (l.map fun w => if w.home = s.hub.chipId && w.id == id then f w else w).filter
      (fun w => !(w.home == s.hub.chipId && w.id == id)) = l.filter fun w => !(w.home == s.hub.chipId && w.id == id) := by
    intro l; induction l with
    | nil => rfl
    | cons y t ih =>
      by_cases hy : y.home = s.hub.chipId ∧ y.id = id
      · simp only [List.map_cons, List.filter_cons, ih]
        simp [hy, hf]
      · simp only [List.map_cons, List.filter_cons, ih]
        simp [hy]
  exact congrArg (fun l => s.modHub fun h => { h with windows := l }) (hfilter s.hub.windows)

/-- Where no window has a number, none is dropped. -/
theorem State.dropWindow_of_none (h : s.homedWindow id = none) : s.dropWindow id = s := by
  have hall : (s.hub.windows.filter fun y => !(y.home == s.hub.chipId && y.id == id)) = s.hub.windows :=
    List.filter_eq_self.2 fun y hy => by rw [Bool.not_eq_true']; exact eq_false_of_ne_true (List.find?_eq_none.1 h y hy)
  exact congrArg (fun l => s.modHub fun h => { h with windows := l }) hall
end

/-! ### Contributions (R273 to R275) -/

section
variable {s : State} {w : Window} {m : Msg}

theorem State.contribute_of_refused (h : fld (m.payload.getD 1 0) 0 5 ≠ w.code ∨ m.srcChip.toNat ∉ w.members) :
    s.contribute w m = s.sendReply m 0x33 [2, 0] := by
  rw [State.contribute]
  exact if_pos (by simpa using h)

/-- The window notes a contributing context for the notices of R276. -/
def Window.noteAsked (m : Msg) (w : Window) : Window :=
  let who := (m.srcChip, tagCore m.tag, m.ctx, m.launch)
  { w with asked := if w.asked.contains who then w.asked else w.asked ++ [who] }

section
variable (hcode : fld (m.payload.getD 1 0) 0 5 = w.code) (hmem : m.srcChip.toNat ∈ w.members)
include hcode hmem

theorem State.contribute_of_accepted : s.contribute w m =
    let u := s.modWindow w.id (Window.noteAsked m)
    let r := ((w.rounds.find? fun r => r.addr == m.payload.getD 0 0).getD { addr := m.payload.getD 0 0 }).join w m
    if !w.repro then u.reduceAtHome m else u.settleRound w.id r (r.held.length + 2) := by
  rw [State.contribute, hcode]
  exact if_neg (by simp [hmem])

theorem State.contribute_of_free (hrepro : w.repro = false) :
    s.contribute w m = (s.modWindow w.id (Window.noteAsked m)).reduceAtHome m := by
  rw [State.contribute_of_accepted hcode hmem]
  dsimp only
  rw [hrepro]
  rfl

/-- The first contribution to an element under REPRO opens its round. -/
theorem State.contribute_of_first (hrepro : w.repro = true) (hnew : ∀ r ∈ w.rounds, r.addr ≠ m.payload.getD 0 0) :
    s.contribute w m = (s.modWindow w.id (Window.noteAsked m)).settleRound w.id
      { addr := m.payload.getD 0 0, parts := [(w.index m.srcChip, m)], held := [] } 2 := by
  have hfind : (w.rounds.find? fun r => r.addr == m.payload.getD 0 0) = none :=
    List.find?_eq_none.2 fun r hr => by simpa using hnew r hr
  rw [State.contribute_of_accepted hcode hmem]
  dsimp only
  rw [hrepro, hfind]
  rfl
end

/-- A reduction that its home finds, free of poison, is one read and write of its element. -/
theorem State.reduceAtHome_of_at {media entry : Nat} (hw : s.weak = [])
    (h : s.findLine m (m.payload.getD 0 0) false true true = .at media entry)
    (hp : s.poisoned media (redSize (fld (m.payload.getD 1 0) 0 5)) = false) :
    let code := fld (m.payload.getD 1 0) 0 5
    (s.reduceAtHome m).slots = s.slots ∧ (s.reduceAtHome m).mem = memWriteBytes s.mem media
      (toBytes (redSize code) (redApply code (s.load media (redSize code)) (m.payload.getD 2 0).toNat)) := by
  intro code
  have hpoison : (s.heated m.unit (devOf (m.payload.getD 0 0))).poisoned media (redSize code) = false := by
    rw [State.poisoned, State.heated_poison]; exact hp
  have hload : (s.heated m.unit (devOf (m.payload.getD 0 0))).load media (redSize code) = s.load media (redSize code) := by
    rw [State.load, State.heated_mem, State.load]
  unfold State.reduceAtHome State.applyAt
  rw [h]
  dsimp only
  rw [State.detect_of_no_weak _ _ ((State.heated_weak ..).trans hw), hpoison, if_neg (by decide)]
  dsimp only
  rw [State.sendReply_slots, State.sendReply_mem, State.checkWatches_frame, hload]
  refine ⟨State.heated_slots .., ?_⟩
  rw [State.store, State.storeBytes, State.heated_mem]

/-- A round that lacks contributions is put back into its window. -/
theorem State.settleRound_of_incomplete {id : Nat} {r : Round} (n : Nat) (hw : s.homedWindow id = some w) (hr : w.complete r = false) :
    s.settleRound id r (n + 1) = s.modWindow id fun w => { w with rounds := setRound w.rounds r } := by
  rw [State.homedWindow] at hw
  rw [State.settleRound, hw]
  dsimp only
  rw [hr, Bool.and_false, if_neg (by decide)]

/-- A round of a new element joins the others at the end. -/
theorem setRound_of_new {rs : List Round} {r : Round} (hnew : ∀ x ∈ rs, x.addr ≠ r.addr) (hparts : r.parts.isEmpty = false) :
    setRound rs r = rs ++ [r] := by
  rw [setRound, List.filter_eq_self.2 fun x hx => by simpa using hnew x hx, hparts, Bool.false_and, if_neg (by decide)]
end

/-! ### Withdrawals (R276) -/

section
variable {s : State} {id : Nat} {chip : BitVec 20}

theorem State.withdraw_of_stranger
    (h : s.homedWindow id = none ∨ ∃ y, s.homedWindow id = some y ∧ (chip.toNat ∉ y.members ∨ chip.toNat ∈ y.gone)) :
    s.withdraw id chip = s := by
  rw [State.withdraw, ← State.homedWindow]
  rcases h with h | ⟨y, h, hy⟩
  · rw [h]
  · rw [h]
    exact if_pos (by simpa using hy)

/-- A window without open rounds has none to end. -/
theorem State.endRounds_nil (s : State) (id code : Nat) : s.endRounds id code [] = s := by
  have hmap : (s.hub.windows.map fun w => if w.home = s.hub.chipId && w.id == id then
      { w with rounds := w.rounds.filter fun x => !([] : List Round).any fun r => r.addr == x.addr } else w) = s.hub.windows := by
    simp
  exact congrArg (fun l => s.modHub fun h => { h with windows := l }) hmap

/-- The status block of a window turns INCOMPLETE, with the bit of a contributor. -/
def State.markIncomplete (s : State) (w : Window) (chip : BitVec 20) : State :=
  let a := devOf w.status
  let j := w.index chip
  let u := s.devWrite a [2]
  u.devWrite (a + 64 + j / 8) [BitVec.ofNat 8 (u.devLoad (a + 64 + j / 8) 1 ||| 2 ^ (j % 8))]

theorem State.markIncomplete_setHub (s : State) (h : Hub) (w : Window) (chip : BitVec 20) :
    State.markIncomplete { s with hub := h } w chip = { s.markIncomplete w chip with hub := h } := by
  unfold State.markIncomplete
  simp only [State.devWrite_setHub, State.devLoad, (State.sameMedia_setHub _ h).devBytes]

/-- A contributor of a window leaves it. -/
def Window.without (chip : BitVec 20) (w : Window) : Window := { w with gone := w.gone ++ [chip.toNat] }

/-- A withdrawal from a window without open rounds: the contributor is gone, the status block tells, and so do the notices. -/
theorem State.withdraw_of_member {w : Window} (hw : s.homedWindow id = some w) (hmem : chip.toNat ∈ w.members)
    (hgone : chip.toNat ∉ w.gone) (hrounds : w.rounds = []) :
    s.withdraw id chip = ((s.modWindow id (Window.without chip)).markIncomplete w chip).noticeLost w chip := by
  rw [State.homedWindow] at hw
  rw [State.withdraw, hw]
  dsimp only
  rw [if_neg (by simp [hmem, hgone]), hrounds, State.endRounds_nil]
  rfl

theorem State.withdraw_of_member_keeps {w : Window} (hw : s.homedWindow id = some w) (hmem : chip.toNat ∈ w.members)
    (hgone : chip.toNat ∉ w.gone) (hrounds : w.rounds = []) :
    (s.withdraw id chip).homedWindow id = some (w.without chip) ∧ (s.withdraw id chip).slots = s.slots ∧
      (s.withdraw id chip).mem = (s.markIncomplete w chip).mem := by
  have hmark : (s.modWindow id (Window.without chip)).markIncomplete w chip =
      { s.markIncomplete w chip with hub := (s.modWindow id (Window.without chip)).hub } := s.markIncomplete_setHub _ w chip
  obtain ⟨hhub, hmem', hslots⟩ := State.noticeLost_keeps ((s.modWindow id (Window.without chip)).markIncomplete w chip) w chip
  rw [State.withdraw_of_member hw hmem hgone hrounds]
  refine ⟨?_, ?_, ?_⟩
  · rw [State.homedWindow, hhub, hmark]
    exact State.homedWindow_modWindow_some (Window.without chip) (fun _ => ⟨rfl, rfl⟩) hw
  · rw [hslots, hmark]
    exact (State.devWrite_slots ..).trans (State.devWrite_slots ..)
  · rw [hmem', hmark]
end

/-! ### Declarations (R424) -/

/-- Every contributor of a window can be reached. -/
def State.ReachesMembers (s : State) (x : Window) : Prop := ∀ c ∈ x.members, c = s.hub.chipId.toNat ∨ s.chipDown c = false

theorem State.reachesMembers_iff (s : State) (x : Window) :
    s.ReachesMembers x ↔ (x.members.any fun c => c != s.hub.chipId.toNat && s.chipDown c) = false := by
  rw [State.ReachesMembers, List.any_eq_false]
  refine forall₂_congr fun c _ => ?_
  by_cases hc : c = s.hub.chipId.toNat <;> simp [hc]

section
variable (s : State) (id : Nat) {x : Window} {fresh : Bool}

theorem State.declareAs_of_unreached (h : ¬ s.ReachesMembers x) : s.declareAs x fresh = (s.dropWindow x.id).winResult 3 := by
  rw [State.reachesMembers_iff, Bool.not_eq_false] at h
  rw [State.declareAs, if_pos h]

theorem State.declareAs_of_full (h : s.ReachesMembers x) (hfull : 64 ≤ s.hub.windows.length) : s.declareAs x true = s.winResult 4 := by
  rw [State.reachesMembers_iff] at h
  rw [State.declareAs, h, if_neg (by decide), if_pos (by simpa using hfull)]

theorem State.declareAs_of_room (h : s.ReachesMembers x) (hroom : fresh = true → s.hub.windows.length < 64) :
    s.declareAs x fresh = (s.installWindow x).winResult 0 := by
  rw [State.reachesMembers_iff] at h
  have hfree : ¬ (fresh && decide (64 ≤ s.hub.windows.length)) = true := by
    rw [Bool.and_eq_true, decide_eq_true_eq]
    exact fun ⟨hf, hn⟩ => absurd (hroom hf) (by omega)
  rw [State.declareAs, h, if_neg (by decide), if_neg hfree]

/-- The block of a declaration is of this chip and under its number, and names at least one contributor. -/
theorem State.windowBlock_eq_some {list : Word} {c : Nat} (h : s.windowBlock id = some (x, list, c)) :
    x.home = s.hub.chipId ∧ x.id = id ∧ 1 ≤ c := by
  unfold State.windowBlock at h
  generalize s.devBytes (devOf s.hub.winblk) 64 = b at h
  dsimp only at h
  split at h
  · rename_i hok
    simp only [Bool.and_eq_true, decide_eq_true_eq] at hok
    obtain ⟨⟨⟨⟨⟨⟨-, hc⟩, -⟩, -⟩, -⟩, -⟩, -⟩ := hok
    injection h with h
    injection h with hx h
    injection h with _ hcount
    rw [← hx, ← hcount]
    exact ⟨rfl, rfl, hc⟩
  · exact nomatch h

/-- A window is declared by a well-formed block whose list of contributors lies in this package. -/
theorem State.declared_eq_some_iff : s.declared id = some x ↔
    ∃ y list c, s.windowBlock id = some (y, list, c) ∧ chipOf list = s.hub.chipId ∧ { y with members := s.membersAt list c } = x := by
  unfold State.declared
  cases s.windowBlock id with
  | none => simp
  | some b =>
    obtain ⟨y, list, c⟩ := b
    simp only [Option.some.injEq, Prod.mk.injEq]
    constructor
    · intro h
      split at h
      · rename_i hown
        exact ⟨y, list, c, ⟨rfl, rfl, rfl⟩, hown, Option.some.inj h⟩
      · exact nomatch h
    · rintro ⟨y', list', c', ⟨rfl, rfl, rfl⟩, hown, rfl⟩
      rw [if_pos hown]

theorem State.declared_eq_some (h : s.declared id = some x) : x.home = s.hub.chipId ∧ x.id = id := by
  obtain ⟨y, list, c, hblock, -, rfl⟩ := (s.declared_eq_some_iff id).1 h
  obtain ⟨hhome, hid, -⟩ := s.windowBlock_eq_some id hblock
  exact ⟨hhome, hid⟩

theorem State.declare_of_malformed (h : s.windowBlock id = none) : s.declare id fresh = s.winResult 2 := by
  unfold State.declare
  rw [h]

theorem State.declare_of_declared (h : s.declared id = some x) : s.declare id fresh = s.declareAs x fresh := by
  obtain ⟨y, list, c, hblock, hown, rfl⟩ := (s.declared_eq_some_iff id).1 h
  unfold State.declare
  rw [hblock]
  dsimp only
  rw [if_pos hown]

/-- The block of a declaration is read alike where the hub is of the same chip and its block stands at the same place. -/
theorem State.windowBlock_setHub (h : Hub) (hchip : h.chipId = s.hub.chipId) (hblk : h.winblk = s.hub.winblk) :
    State.windowBlock { s with hub := h } id = s.windowBlock id := by
  have hbytes : State.devBytes { s with hub := h } (devOf h.winblk) 64 = s.devBytes (devOf s.hub.winblk) 64 := by
    rw [(s.sameMedia_setHub h).devBytes, hblk]
  unfold State.windowBlock
  rw [hbytes, hchip]

theorem State.declared_setHub (h : Hub) (hchip : h.chipId = s.hub.chipId) (hblk : h.winblk = s.hub.winblk) :
    State.declared { s with hub := h } id = s.declared id := by
  have hmembers (list : Word) (c : Nat) : State.membersAt { s with hub := h } list c = s.membersAt list c := by
    simp only [State.membersAt, State.devLoad, (s.sameMedia_setHub h).devBytes]
  unfold State.declared
  rw [s.windowBlock_setHub id h hchip hblk]
  simp only [hmembers, hchip]

/-- A window that takes effect replaces that of its number, and its status block holds COMPLETE and an empty map. -/
theorem State.installWindow_keeps (hhome : x.home = s.hub.chipId) :
    (s.installWindow x).hub = { s.hub with windows := (s.dropWindow x.id).hub.windows ++ [x] } ∧
      (s.installWindow x).mem = (s.devStore (devOf x.status) ([1] ++ List.replicate 575 0)).mem ∧ (s.installWindow x).slots = s.slots := by
  have hhub := (State.devStore_keeps (s.modHub fun h =>
    { h with windows := h.windows.filter (fun y => !(y.home == x.home && y.id == x.id)) ++ [x] }) (devOf x.status) ([1] ++ List.replicate 575 0)).1
  rw [State.installWindow]
  refine ⟨hhub.trans ?_, State.devStore_setHub_mem .., (State.devStore_keeps ..).2.2⟩
  simp only [hhome]
  rfl
end

/-- The first line of a table is of the package that the table lies on. -/
theorem TableRead.chipOf_mark {r : TableRead} (hgot : r.got = []) : chipOf (word (r.mark % 2 ^ 64)) = chipOf r.addr := by
  have hmark : r.mark % 2 ^ 64 = r.addr.toNat / 64 * 64 := by
    have hlt := r.addr.isLt
    rw [TableRead.mark, hgot, List.length_nil]
    omega
  refine BitVec.eq_of_toNat_eq ?_
  simp only [chipOf, word, BitVec.extractLsb'_toNat, BitVec.toNat_ofNat, Nat.shiftRight_eq_div_pow, hmark]
  omega

/-- The first line of a table of another package that can be reached is asked for at that package. -/
theorem State.readTable_of_reachable (s : State) {r : TableRead} (hgot : r.got = []) (hsize : 0 < r.what.size * r.count)
    (hdown : s.chipDown (chipOf r.addr).toNat = false) :
    ∃ q : Msg, s.readTable r = (s.modHub fun h => { h with reads := h.reads ++ [r] }).route q ∧ q.kind = 0x20 ∧ q.dstChip = chipOf r.addr := by
  rw [State.readTable, hgot, if_neg (by rw [List.length_nil]; omega), hdown, if_neg (by decide)]
  exact ⟨_, rfl, rfl, TableRead.chipOf_mark hgot⟩

/-- A declaration whose contributors are listed at another package that can be reached: the first line of the list is asked for. -/
theorem State.declare_of_far (s : State) {id c : Nat} {x : Window} {list : Word} (fresh : Bool) (hblock : s.windowBlock id = some (x, list, c))
    (hother : chipOf list ≠ s.hub.chipId) (hdown : s.chipDown (chipOf list).toNat = false) :
    ∃ q : Msg, s.declare id fresh = State.route { s with hub := { s.hub with
      winstat := word (2 ^ 63), reads := s.hub.reads ++ [{ what := .members x fresh, addr := list, count := c }] } } q ∧
      q.kind = 0x20 ∧ q.dstChip = chipOf list := by
  obtain ⟨-, -, hcount⟩ := s.windowBlock_eq_some id hblock
  have hsize : 0 < TableUse.size (.members x fresh) * c := Nat.mul_pos (show 0 < 4 by decide) hcount
  unfold State.declare
  rw [hblock]
  dsimp only
  rw [if_neg hother]
  exact State.readTable_of_reachable _ rfl hsize hdown

theorem State.winResult_hub (s : State) (r : Nat) : (s.winResult r).hub = { s.hub with winstat := word (r * 2 ^ 60) } := rfl
theorem State.winResult_mem (s : State) (r : Nat) : (s.winResult r).mem = s.mem := by rw [State.winResult, State.modHub_mem]
theorem State.winResult_slots (s : State) (r : Nat) : (s.winResult r).slots = s.slots := by rw [State.winResult, State.modHub_slots]

/-- A window has been made: the windows of other numbers stay, its status block is written, WINSTAT is 0. -/
def State.Made (s : State) (x : Window) (t : State) : Prop :=
  t.hub.windows = (s.dropWindow x.id).hub.windows ++ [x] ∧ t.hub.winstat = 0 ∧
    t.mem = (s.devStore (devOf x.status) ([1] ++ List.replicate 575 0)).mem ∧ t.slots = s.slots

section
variable {s u : State} (hu : s.HubChanged u) {x : Window} (id : Nat)
include hu

theorem State.HubChanged.windowBlock (hchip : u.hub.chipId = s.hub.chipId) (hblk : u.hub.winblk = s.hub.winblk) :
    u.windowBlock id = s.windowBlock id := by
  rw [hu, State.windowBlock_setHub s id _ hchip hblk]

theorem State.HubChanged.declared (hchip : u.hub.chipId = s.hub.chipId) (hblk : u.hub.winblk = s.hub.winblk) :
    u.declared id = s.declared id := by
  rw [hu, State.declared_setHub s id _ hchip hblk]

/-- The bytes of memory that a unit's write leaves do not depend on the hub. -/
theorem State.HubChanged.devStore_mem (a : Nat) (bs : List Byte) : (u.devStore a bs).mem = (s.devStore a bs).mem := by
  rw [hu, State.devStore_setHub_mem]

/-- A declaration whose contributors can all be reached makes its window where there is room. -/
theorem State.HubChanged.declareAs_made {fresh : Bool} (hhome : x.home = u.hub.chipId) (hr : u.ReachesMembers x)
    (hroom : fresh = true → u.hub.windows.length < 64) (hdrop : (u.dropWindow x.id).hub.windows = (s.dropWindow x.id).hub.windows) :
    s.Made x (u.declareAs x fresh) := by
  obtain ⟨hhub, hmem, hslots⟩ := State.installWindow_keeps u hhome
  rw [State.declareAs_of_room u hr hroom, State.Made, State.winResult_hub, State.winResult_mem, State.winResult_slots, hhub, hmem, hslots,
    hu.devStore_mem, ← hdrop]
  exact ⟨rfl, rfl, rfl, hu.slots⟩
end

/-- What can be reached goes by what the package knows of its links. -/
theorem State.reachesMembers_of_links {s t : State} (h : t.links = s.links) (x : Window) : t.ReachesMembers x ↔ s.ReachesMembers x := by
  obtain ⟨hchip, hports, hdown⟩ := (State.links_eq_iff s t).1 h
  simp only [State.ReachesMembers, State.chipDown, hchip, hports, hdown]

/-! ### The window commands (R424) -/

/-- WINCMD as the write of an operation for a window leaves it. -/
def wincmdOf (op id : Nat) : Word := word (op * 2 ^ 60 + id % 64 * 2 ^ 54)

/-- WINCMD holds a word. It is any word here, so that no proof computes the places of its fields. -/
def State.withWincmd (s : State) (v : Word) : State := s.modHub fun h => { h with wincmd := v }

/-- A window whose redeclaration waits, or waits no more. -/
def Window.waiting (b : Bool) (w : Window) : Window := { w with redeclare := b }

/-- The redeclaration of a window waits. -/
def State.redeclaring (s : State) (id : Nat) : State :=
  (s.modWindow id (Window.waiting true)).modHub fun h => { h with winstat := word (2 ^ 63) }

/-- The redeclaration of a window is about to be carried out. -/
def State.redeclared (s : State) (id : Nat) : State := (s.redeclaring id).modWindow id (Window.waiting false)

section
variable (s : State) (v : Word) (id n : Nat)

theorem State.withWincmd_winResult (r : Nat) :
    (s.withWincmd v).winResult r = { s with hub := { s.hub with wincmd := v, winstat := word (r * 2 ^ 60) } } := rfl
theorem State.withWincmd_windows : (s.withWincmd v).hub.windows = s.hub.windows := rfl
theorem State.withWincmd_reads : (s.withWincmd v).hub.reads = s.hub.reads := rfl
theorem State.hubChanged_withWincmd : s.HubChanged (s.withWincmd v) := s.hubChanged_modHub _
theorem State.homedWindow_withWincmd : (s.withWincmd v).homedWindow n = s.homedWindow n := State.homedWindow_modHub _ rfl rfl
theorem State.windowBlock_withWincmd : (s.withWincmd v).windowBlock n = s.windowBlock n := (s.hubChanged_withWincmd v).windowBlock n rfl rfl
theorem State.declared_withWincmd : (s.withWincmd v).declared n = s.declared n := (s.hubChanged_withWincmd v).declared n rfl rfl
theorem State.dropWindow_withWincmd : (s.withWincmd v).dropWindow n = (s.dropWindow n).withWincmd v := rfl
theorem State.reachesMembers_withWincmd (x : Window) : (s.withWincmd v).ReachesMembers x ↔ s.ReachesMembers x :=
  State.reachesMembers_of_links (s.modHub_links _ rfl rfl rfl) x

theorem State.hubChanged_redeclaring : s.HubChanged (s.redeclaring id) := (s.hubChanged_modWindow id _).trans (State.hubChanged_modHub ..)
theorem State.hubChanged_redeclared : s.HubChanged (s.redeclared id) :=
  (s.hubChanged_redeclaring id).trans (State.hubChanged_modWindow ..)
theorem State.modWindow_chipId (f : Window → Window) : (s.modWindow id f).hub.chipId = s.hub.chipId := rfl
theorem State.modWindow_winblk (f : Window → Window) : (s.modWindow id f).hub.winblk = s.hub.winblk := rfl
theorem State.redeclared_chipId : (s.redeclared id).hub.chipId = s.hub.chipId := by
  rw [State.redeclared, State.modWindow_chipId, State.redeclaring, State.hub_modHub, State.modWindow_chipId]
theorem State.redeclared_winblk : (s.redeclared id).hub.winblk = s.hub.winblk := by
  rw [State.redeclared, State.modWindow_winblk, State.redeclaring, State.hub_modHub, State.modWindow_winblk]
theorem State.declared_redeclared : (s.redeclared id).declared n = s.declared n :=
  (s.hubChanged_redeclared id).declared n (s.redeclared_chipId id) (s.redeclared_winblk id)
theorem State.reachesMembers_redeclared (x : Window) : (s.redeclared id).ReachesMembers x ↔ s.ReachesMembers x := by
  refine State.reachesMembers_of_links ?_ x
  rw [State.redeclared, State.modWindow_links, State.redeclaring, State.modHub_links _ _ rfl rfl rfl, State.modWindow_links]
end

section
variable {s : State} {id : Nat}

theorem State.winStart_of_busy (op : Nat) (f : State → State) (h : bit s.hub.winstat 63 = true) : s.winStart op id f = s := by
  rw [State.winStart, if_pos h]

section
variable (h : bit s.hub.winstat 63 = true)
include h

theorem State.windowDeclare_of_busy : s.windowDeclare id = s := State.winStart_of_busy 1 _ h
theorem State.windowRedeclare_of_busy : s.windowRedeclare id = s := State.winStart_of_busy 2 _ h
theorem State.windowRemove_of_busy : s.windowRemove id = s := State.winStart_of_busy 3 _ h
end

section
variable (hfree : ¬ bit s.hub.winstat 63 = true)
include hfree

theorem State.winStart_of_free (op : Nat) (f : State → State) : s.winStart op id f = f (s.withWincmd (wincmdOf op id)) := by
  rw [State.winStart, if_neg hfree]; rfl

theorem State.windowDeclare_of_homed {w : Window} (hw : s.homedWindow id = some w) :
    s.windowDeclare id = (s.withWincmd (wincmdOf 1 id)).winResult 1 := by
  rw [State.windowDeclare, State.winStart_of_free hfree, State.homedWindow_withWincmd, hw, if_pos (by rfl)]

theorem State.windowDeclare_of_new (hw : s.homedWindow id = none) : s.windowDeclare id = (s.withWincmd (wincmdOf 1 id)).declare id true := by
  rw [State.windowDeclare, State.winStart_of_free hfree, State.homedWindow_withWincmd, hw, if_neg (by decide)]

theorem State.windowDeclare_of_declared {x : Window} (hw : s.homedWindow id = none) (hx : s.declared id = some x) :
    s.windowDeclare id = (s.withWincmd (wincmdOf 1 id)).declareAs x true := by
  rw [State.windowDeclare_of_new hfree hw, State.declare_of_declared _ _ ((s.declared_withWincmd _ id).trans hx)]

theorem State.windowRedeclare_of_new (hw : s.homedWindow id = none) : s.windowRedeclare id = (s.withWincmd (wincmdOf 2 id)).winResult 1 := by
  rw [State.windowRedeclare, State.winStart_of_free hfree, State.homedWindow_withWincmd, hw, if_pos (by rfl)]

theorem State.windowRedeclare_of_homed {w : Window} (hw : s.homedWindow id = some w) :
    s.windowRedeclare id = ((s.withWincmd (wincmdOf 2 id)).redeclaring id).redeclareReady := by
  rw [State.windowRedeclare, State.winStart_of_free hfree, State.homedWindow_withWincmd, hw, if_neg (by rw [Option.isNone_some]; decide)]
  rfl

theorem State.windowRemove_of_new (hw : s.homedWindow id = none) : s.windowRemove id = (s.withWincmd (wincmdOf 3 id)).winResult 1 := by
  rw [State.windowRemove, State.winStart_of_free hfree, State.homedWindow_withWincmd, hw]

theorem State.windowRemove_of_idle {w : Window} (hw : s.homedWindow id = some w) (hrounds : w.rounds = []) :
    s.windowRemove id = ((s.withWincmd (wincmdOf 3 id)).dropWindow id).winResult 0 := by
  rw [State.windowRemove, State.winStart_of_free hfree, State.homedWindow_withWincmd, hw]
  dsimp only
  rw [hrounds, List.map_nil, List.foldl_nil, State.endAllRounds, State.homedWindow_withWincmd, hw]
  dsimp only
  rw [hrounds, if_pos List.isEmpty_nil]
end

/-! ### Redeclarations -/

theorem State.redeclaring_windows (s : State) (id : Nat) : (s.redeclaring id).hub.windows =
    s.hub.windows.map fun w => if w.home = s.hub.chipId && w.id == id then w.waiting true else w := rfl

/-- While every window has open rounds, the redeclaration waits. -/
theorem State.redeclareReady_of_open (h : ∀ y ∈ s.hub.windows, y.rounds ≠ []) : (s.redeclaring id).redeclareReady = s.redeclaring id := by
  have hnone : ((s.redeclaring id).hub.windows.find? fun w => w.redeclare && w.rounds.isEmpty) = none := by
    rw [State.redeclaring_windows, List.find?_map, Option.map_eq_none_iff, List.find?_eq_none]
    intro y hy
    have hopen : y.rounds.isEmpty = false := by simpa using h y hy
    dsimp only [Function.comp_apply]
    split <;> simp [Window.waiting, hopen]
  rw [State.redeclareReady, hnone]

/-- Where no other redeclaration waits, that of a window without open rounds is carried out. -/
theorem State.redeclareReady_of_idle {w : Window} (hw : s.homedWindow id = some w) (hidle : ∀ y ∈ s.hub.windows, y.redeclare = false)
    (hrounds : w.rounds = []) : (s.redeclaring id).redeclareReady = (s.redeclared id).declare id false := by
  obtain ⟨hhome, hid⟩ := State.homedWindow_eq_some hw
  obtain ⟨-, before, _, hsplit, hbefore⟩ := List.find?_eq_some_iff_append.1 hw
  have hfind : ((s.redeclaring id).hub.windows.find? fun w => w.redeclare && w.rounds.isEmpty) = some (w.waiting true) := by
    rw [State.redeclaring_windows, hsplit, List.find?_eq_some_iff_append]
    refine ⟨by simp [Window.waiting, hrounds], _, _, by rw [List.map_append, List.map_cons, if_pos (by simp [hhome, hid])], fun a ha => ?_⟩
    obtain ⟨y, hy, rfl⟩ := List.mem_map.1 ha
    have hother : ¬ (decide (y.home = s.hub.chipId) && y.id == id) = true := by
      have hb := hbefore y hy
      rw [Bool.not_eq_true'] at hb
      exact Bool.eq_false_iff.1 hb
    have hquiet : y.redeclare = false := hidle y (by rw [hsplit]; exact List.mem_append_left _ hy)
    rw [if_neg hother, hquiet]
    rfl
  rw [State.redeclareReady, hfind]
  dsimp only
  rw [show (w.waiting true).id = id from hid]
  rfl

/-- The redeclaration of a window without open rounds is that of its declaration block. -/
theorem State.redeclareReady_of_declared {w x : Window} (v : Word) (hw : s.homedWindow id = some w)
    (hidle : ∀ y ∈ s.hub.windows, y.redeclare = false) (hrounds : w.rounds = []) (hx : s.declared id = some x) :
    ((s.withWincmd v).redeclaring id).redeclareReady = ((s.withWincmd v).redeclared id).declareAs x false := by
  have hx' : ((s.withWincmd v).redeclared id).declared id = some x := by
    rw [State.declared_redeclared, State.declared_withWincmd, hx]
  rw [State.redeclareReady_of_idle ((s.homedWindow_withWincmd v id).trans hw) (by rwa [State.withWincmd_windows]) hrounds,
    State.declare_of_declared _ _ hx']

/-- A command carries out the redeclaration of a window without open rounds. -/
theorem State.windowRedeclare_of_idle {w x : Window} (hfree : ¬ bit s.hub.winstat 63 = true) (hw : s.homedWindow id = some w)
    (hidle : ∀ y ∈ s.hub.windows, y.redeclare = false) (hrounds : w.rounds = []) (hx : s.declared id = some x) :
    s.windowRedeclare id = ((s.withWincmd (wincmdOf 2 id)).redeclared id).declareAs x false := by
  rw [State.windowRedeclare_of_homed hfree hw, State.redeclareReady_of_declared _ hw hidle hrounds hx]

theorem State.homedWindow_redeclaring {w : Window} (hw : s.homedWindow id = some w) :
    (s.redeclaring id).homedWindow id = some (w.waiting true) :=
  (State.homedWindow_modHub _ rfl rfl).trans (State.homedWindow_modWindow_some (Window.waiting true) (fun _ => ⟨rfl, rfl⟩) hw)

theorem State.redeclared_dropWindow (s : State) (id : Nat) :
    (s.redeclared id).dropWindow id = (s.dropWindow id).modHub fun h => { h with winstat := word (2 ^ 63) } := by
  have hf (b : Bool) (w : Window) : (w.waiting b).home = w.home ∧ (w.waiting b).id = w.id := ⟨rfl, rfl⟩
  rw [State.redeclared, State.dropWindow_modWindow _ (hf false)]
  change ((s.modWindow id (Window.waiting true)).dropWindow id).modHub (fun h => { h with winstat := word (2 ^ 63) }) = _
  rw [State.dropWindow_modWindow _ (hf true)]
end

/-! ### What a command makes of a declaration -/

section
variable {s : State} {id : Nat} {x : Window} (hx : s.declared id = some x)
include hx

theorem State.declareAs_withWincmd_of_unreached (v : Word) (hw : s.homedWindow id = none) (hr : ¬ s.ReachesMembers x) :
    (s.withWincmd v).declareAs x true = (s.withWincmd v).winResult 3 := by
  obtain ⟨-, hid⟩ := s.declared_eq_some id hx
  rw [State.declareAs_of_unreached _ (mt (s.reachesMembers_withWincmd v x).1 hr), hid, State.dropWindow_withWincmd,
    State.dropWindow_of_none hw]

theorem State.declareAs_withWincmd_made (v : Word) (hr : s.ReachesMembers x) (hroom : s.hub.windows.length < 64) :
    s.Made x ((s.withWincmd v).declareAs x true) := by
  obtain ⟨hhome, -⟩ := s.declared_eq_some id hx
  refine (s.hubChanged_withWincmd v).declareAs_made hhome ((s.reachesMembers_withWincmd v x).2 hr) (fun _ => hroom) ?_
  rw [State.dropWindow_withWincmd, State.withWincmd_windows]

theorem State.declareAs_redeclared_of_unreached (v : Word) (hr : ¬ s.ReachesMembers x) :
    ((s.withWincmd v).redeclared id).declareAs x false = ((s.dropWindow id).withWincmd v).winResult 3 := by
  obtain ⟨-, hid⟩ := s.declared_eq_some id hx
  have hr' : ¬ ((s.withWincmd v).redeclared id).ReachesMembers x := by
    rwa [State.reachesMembers_redeclared, State.reachesMembers_withWincmd]
  rw [State.declareAs_of_unreached _ hr', hid, State.redeclared_dropWindow, State.dropWindow_withWincmd]
  rfl

theorem State.declareAs_redeclared_made (v : Word) (hr : s.ReachesMembers x) :
    s.Made x (((s.withWincmd v).redeclared id).declareAs x false) := by
  obtain ⟨hhome, hid⟩ := s.declared_eq_some id hx
  have hr' : ((s.withWincmd v).redeclared id).ReachesMembers x := by
    rwa [State.reachesMembers_redeclared, State.reachesMembers_withWincmd]
  refine ((s.hubChanged_withWincmd v).trans (State.hubChanged_redeclared _ id)).declareAs_made
    (hhome.trans (State.redeclared_chipId _ id).symm) hr' (fun h => nomatch h) ?_
  rw [hid, State.redeclared_dropWindow, State.dropWindow_withWincmd]
  rfl
end

/-- A declaration of a list at another package, where the hub reads no table: WINSTAT is BUSY, and the list is asked for. -/
theorem State.declare_withWincmd_of_far {s : State} {id c : Nat} {x : Window} {list : Word} (v : Word) (fresh : Bool)
    (hreads : s.hub.reads = []) (hblock : s.windowBlock id = some (x, list, c)) (hother : chipOf list ≠ s.hub.chipId)
    (hdown : s.chipDown (chipOf list).toNat = false) :
    ∃ q : Msg, (s.withWincmd v).declare id fresh = State.route { s with hub := { s.hub with
      wincmd := v, winstat := word (2 ^ 63), reads := [{ what := .members x fresh, addr := list, count := c }] } } q ∧
      q.kind = 0x20 ∧ q.dstChip = chipOf list := by
  obtain ⟨q, hq, hto⟩ := (s.withWincmd v).declare_of_far fresh ((s.windowBlock_withWincmd v id).trans hblock) hother hdown
  refine ⟨q, ?_, hto⟩
  rw [hq, State.withWincmd_reads, hreads]
  rfl

/-- A redeclaration that waits for open rounds: WINSTAT is BUSY, and the window is marked. -/
theorem State.redeclareReady_waits {s : State} {id : Nat} {w : Window} (v : Word) (hw : s.homedWindow id = some w)
    (hopen : ∀ y ∈ s.hub.windows, y.rounds ≠ []) :
    let t := ((s.withWincmd v).redeclaring id).redeclareReady
    bit t.hub.winstat 63 = true ∧ t.homedWindow id = some (w.waiting true) ∧ t.mem = s.mem := by
  rw [State.redeclareReady_of_open (by rwa [State.withWincmd_windows])]
  refine ⟨show bit (word (2 ^ 63)) 63 = true by decide, State.homedWindow_redeclaring ((s.homedWindow_withWincmd v id).trans hw), ?_⟩
  exact ((s.hubChanged_withWincmd v).trans (State.hubChanged_redeclaring _ id)).mem

/-- A first contribution under REPRO waits in its round, while others are to come. -/
theorem State.contribute_waits {s : State} {id : Nat} {w : Window} {m : Msg} (hw : s.homedWindow id = some w)
    (hcode : fld (m.payload.getD 1 0) 0 5 = w.code) (hmem : m.srcChip.toNat ∈ w.members) (hrepro : w.repro = true)
    (hnew : ∀ r ∈ w.rounds, r.addr ≠ m.payload.getD 0 0)
    (hlacks : w.complete { addr := m.payload.getD 0 0, parts := [(w.index m.srcChip, m)], held := [] } = false) :
    let t := s.contribute w m
    t.mem = s.mem ∧ t.slots = s.slots ∧ ∃ y, t.homedWindow id = some y ∧
      y.rounds = w.rounds ++ [{ addr := m.payload.getD 0 0, parts := [(w.index m.srcChip, m)], held := [] }] := by
  obtain ⟨-, hid⟩ := State.homedWindow_eq_some hw
  have hw' : (s.modWindow id (Window.noteAsked m)).homedWindow id = some (w.noteAsked m) :=
    State.homedWindow_modWindow_some (Window.noteAsked m) (fun _ => ⟨rfl, rfl⟩) hw
  rw [State.contribute_of_first hcode hmem hrepro hnew, hid, State.settleRound_of_incomplete 1 hw' hlacks]
  exact ⟨rfl, rfl, _, State.homedWindow_modWindow_some _ (fun _ => ⟨rfl, rfl⟩) hw', setRound_of_new hnew rfl⟩

end Sys2Proof.Machine

section
open Sys2Proof Sys2Proof.Machine

/-- Settles O18: a contribution goes by the cases of `State.contribute`, a withdrawal by its contributor, and a command by the window of its
number and the members of its declaration. -/
theorem fabricWindowsCombine : Obligations.FabricWindowsCombine := by
  unfold Obligations.FabricWindowsCombine
  intro s id media entry m w x chip ga code i home busy cmd result here known others makes
  refine ⟨?refused, ?free, ?round, ?stranger, ?withdrawn, ?busy, fun hfree => ⟨?numbers, ?homed, ?malformed, ?far, ?unreached, ?full, ?made,
    ?remade, ?withdrawnEverywhere, ?waits, ?removed⟩⟩
  case refused =>
    rintro ⟨hh, -⟩ hw hr
    rw [exec_fabricCombine_of_homed hh hw, State.contribute_of_refused hr]
    exact ⟨_, rfl, State.sendReply_mem .., State.sendReply_slots ..⟩
  case free =>
    rintro ⟨hh, hweak⟩ hw hcode hmem hrepro hat hp
    have hp' : s.poisoned media (redSize (fld (m.payload.getD 1 0) 0 5)) = false := hp
    obtain ⟨hslots, hmem'⟩ := State.reduceAtHome_of_at (s := s.modWindow w.id (Window.noteAsked m)) (m := m) hweak hat hp'
    rw [exec_fabricCombine_of_homed hh hw, State.contribute_of_free hcode hmem hrepro]
    exact ⟨_, rfl, hslots, hmem'⟩
  case round =>
    rintro ⟨hh, -⟩ hw hcode hmem hrepro hnew hlacks
    obtain ⟨hmem', hslots, y, hy, hrounds⟩ := State.contribute_waits hw hcode hmem hrepro hnew hlacks
    exact ⟨_, y, exec_fabricCombine_of_homed hh hw, hmem', hslots, hy, hrounds⟩
  case stranger =>
    intro h
    rw [exec_contributorWithdrawal, State.withdraw_of_stranger h]
  case withdrawn =>
    intro hw hmem hgone hrounds
    obtain ⟨hhomed, hslots, hmem'⟩ := State.withdraw_of_member_keeps hw hmem hgone hrounds
    exact ⟨_, _, rfl, hhomed, rfl, hslots, hmem'⟩
  case busy =>
    intro hb
    rw [exec_wincmdDeclare, exec_wincmdRedeclare, exec_wincmdRemove, State.windowDeclare_of_busy hb, State.windowRedeclare_of_busy hb,
      State.windowRemove_of_busy hb]
    exact ⟨rfl, rfl, rfl⟩
  case numbers =>
    intro hw
    refine ⟨?_, ?_⟩
    · change exec (.wincmdRedeclare id) s = _
      rw [exec_wincmdRedeclare, State.windowRedeclare_of_new hfree hw, State.withWincmd_winResult, wincmdOf]
    · change exec (.wincmdRemove id) s = _
      rw [exec_wincmdRemove, State.windowRemove_of_new hfree hw, State.withWincmd_winResult, wincmdOf]
  case homed =>
    intro hw
    change exec (.wincmdDeclare id) s = _
    rw [exec_wincmdDeclare, State.windowDeclare_of_homed hfree hw, State.withWincmd_winResult, wincmdOf]
  case malformed =>
    intro hw hblock
    change exec (.wincmdDeclare id) s = _
    rw [exec_wincmdDeclare, State.windowDeclare_of_new hfree hw,
      State.declare_of_malformed _ _ ((s.windowBlock_withWincmd _ id).trans hblock), State.withWincmd_winResult, wincmdOf]
  case far =>
    intro hw hreads list c hblock hother hdown
    obtain ⟨q, hq, hto⟩ := State.declare_withWincmd_of_far (wincmdOf 1 id) true hreads hblock hother hdown
    refine ⟨q, ?_, hto⟩
    rw [exec_wincmdDeclare, State.windowDeclare_of_new hfree hw, hq, wincmdOf]
  case unreached =>
    intro hw hx hr
    change exec (.wincmdDeclare id) s = _
    rw [exec_wincmdDeclare, State.windowDeclare_of_declared hfree hw hx, State.declareAs_withWincmd_of_unreached hx _ hw hr,
      State.withWincmd_winResult, wincmdOf]
  case full =>
    intro hw hx hr hmany
    change exec (.wincmdDeclare id) s = _
    rw [exec_wincmdDeclare, State.windowDeclare_of_declared hfree hw hx, State.declareAs_of_full _ ((s.reachesMembers_withWincmd _ x).2 hr)
      (by rwa [State.withWincmd_windows]), State.withWincmd_winResult, wincmdOf]
  case made =>
    intro hw hx hr hroom
    obtain ⟨-, rfl⟩ := s.declared_eq_some id hx
    refine ⟨_, exec_wincmdDeclare .., ?_⟩
    rw [State.windowDeclare_of_declared hfree hw hx]
    exact State.declareAs_withWincmd_made hx _ hr hroom
  case remade =>
    intro hw hidle hrounds hx hr
    obtain ⟨-, rfl⟩ := s.declared_eq_some id hx
    refine ⟨_, exec_wincmdRedeclare .., ?_⟩
    rw [State.windowRedeclare_of_idle hfree hw hidle hrounds hx]
    exact State.declareAs_redeclared_made hx _ hr
  case withdrawnEverywhere =>
    intro hw hidle hrounds hx hr
    rw [exec_wincmdRedeclare, State.windowRedeclare_of_idle hfree hw hidle hrounds hx, State.declareAs_redeclared_of_unreached hx _ hr,
      State.withWincmd_winResult, wincmdOf]
    rfl
  case waits =>
    intro hw hopen
    obtain ⟨hbusy, hwaits, hmem⟩ := State.redeclareReady_waits (wincmdOf 2 id) hw fun y hy => (hopen y hy).2
    rw [exec_wincmdRedeclare, State.windowRedeclare_of_homed hfree hw]
    exact ⟨_, _, rfl, hbusy, hwaits, rfl, hmem⟩
  case removed =>
    intro hw hrounds
    rw [exec_wincmdRemove, State.windowRemove_of_idle hfree hw hrounds, State.dropWindow_withWincmd, State.withWincmd_winResult, wincmdOf]
    rfl
end
end
